-- ==== Sys2Proof/Word.lean ====
section
/-! DEFINITION. The byte that the part's records, notices and frames are made of. -/

namespace Sys2Proof

/-- One byte of a record, a notice or a frame. -/
abbrev Byte := BitVec 8

/-- The byte that carries the low eight bits of `n`. -/
abbrev Byte.ofNat (n : Nat) : Byte := BitVec.ofNat 8 n

end Sys2Proof
end

