-- ==== Sys2Proof/Config.lean ====
section
/-! DEFINITION. What the part fixes: its capacities and its fixed intervals (00_scope.md, Capacities, and the rules
named below). The spec leaves no value open after which the part goes on, so no constant here is opaque. -/

namespace Sys2Proof.Config

/-- Screening slots (R1). -/
def slotCount : Nat := 16
/-- Seats of a plan, at most (R3). -/
def maxSeats : Nat := 600
/-- Transmit-queue entries, the notice in contention included (R35). -/
def queueSize : Nat := 32
/-- A HOLD, CENSUS-CALL or CENSUS-REPLY is admitted below this count (R35). -/
def thresholdSize : Nat := 24
/-- Receive errors that start a re-census (R20, R32). -/
def receiveErrorLimit : Nat := 8
/-- Collisions of one notice that abort it (R26, R28). -/
def collisionLimit : Nat := 16
/-- Consecutive aborts that make the link DEGRADED (R23). -/
def abortLimit : Nat := 3
/-- The backoff range stops doubling at this collision (R26). -/
def backoffDoublings : Nat := 8
/-- Seats of one census section, at most (R17). -/
def sectionSeats : Nat := 16
/-- Seat lines of an order, at most (R44). -/
def maxSeatLines : Nat := 10
/-- Voucher lines of an order, at most (R132). -/
def maxVoucherLines : Nat := 8
/-- The largest order total and tender amount (R93, R112). -/
def maxTotal : Nat := 999999
/-- The largest seat-line price (R97). -/
def maxPrice : Nat := 65535
/-- Voucher-table records (R138). -/
def voucherTableSize : Nat := 1024
/-- The last voucher serial before the counter wraps to 1 (R135). -/
def lastVoucherSerial : Nat := 1048575
/-- The last ticket serial before the counter wraps to 1 (R157). -/
def lastTicketSerial : Nat := 16777215
/-- Spoils of one item that fail its job (R160). -/
def spoilLimit : Nat := 3
/-- Descriptors of the boot ring (R168). -/
def bootRingLength : Nat := 4
/-- Reports of the waiting queue (R175). -/
def waitingSize : Nat := 16
/-- Where the dropped count stops (R175). -/
def maxDropped : Nat := 65535
/-- The longest request block in bytes (R170). -/
def maxBlockLength : Nat := 4096
/-- The pin limit in seconds (R124). -/
def pinLimit : Nat := 600
/-- The probe interval in seconds (R150). -/
def probeInterval : Nat := 5
/-- The house clock counts modulo this (R182). -/
def clockModulus : Nat := 4294967296
/-- The processor's memory is addressed modulo this (descriptor address fields of 8 bytes). -/
def addressModulus : Nat := 18446744073709551616
/-- Bytes of a descriptor of the request ring (11_record_layouts.md). -/
def descriptorSize : Nat := 32
/-- Bytes of a report descriptor (R193). -/
def reportSize : Nat := 128

/-- REQUEST-KICK, REPORT-KICK, CAUSE and MASK (R167): the offsets of the four registers. -/
def requestKickOffset : Nat := 0x00
def reportKickOffset : Nat := 0x08
def causeOffset : Nat := 0x10
def maskOffset : Nat := 0x14

end Sys2Proof.Config
end

