-- ==== Sys2Proof/Syntax.lean ====
section
/-! DEFINITION. The commands the part takes: one constructor for each row of spec/opcode_table.json, in the table's
order, with the operands that the row's rule gives the command (notes/assumptions/1.md and 2.md say how the rows of
requests, order words and register writes come to their data). -/

namespace Sys2Proof

/-- A lane, 0–3. -/
abbrev LaneIx := Fin 4
/-- A printer port, 0–1. -/
abbrev PortIx := Fin 2

/-- A seat reference: row index (A is 0) and seat number. -/
structure SeatRef where
  row : Nat
  num : Nat
deriving DecidableEq, Repr

/-- A voucher code: station and serial (R135). -/
structure VCode where
  station : Nat
  serial : Nat
deriving DecidableEq, Repr

/-- The section of a CENSUS-REPLY (R16, R17). -/
inductive Section where
  | held
  | sold
deriving DecidableEq, Repr

/-- The answer of a VOUCHER-STATE (R142, R143). -/
inductive Answer where
  | valid
  | unknown
  | redeemed
  | expired
  | redeemedNow
deriving DecidableEq, Repr

/-- The outcome of a terminal's RESULT (06_card_payment.md, The terminal line). -/
inductive ResultOutcome where
  | approved
  | partialAmount
  | declined
  | customerCancel
  | terminalError
deriving DecidableEq, Repr

/-- The two fault lines of a printer port (08_ticket_printing.md, Printer ports). -/
inductive FaultLine where
  | paperOut
  | coverOpen
deriving DecidableEq, Repr

/-- The two mitigated causes (R177). -/
inductive MitCause where
  | requestDone
  | report
deriving DecidableEq, Repr

/-- An item tag: lane of the job, index of the item, its spoil count (08_ticket_printing.md, The printer line). -/
structure ItemTag where
  lane : Nat
  index : Nat
  spoils : Nat
deriving DecidableEq, Repr

/-- A byte received on a terminal or printer line: `none` is a byte that arrived with a framing error (R108, R146). -/
abbrev RxByte := Option Byte

/-- What the processor or its bus did to the processor's memory before a register write (notes/assumptions/2.md). -/
inductive HostOp where
  /-- the processor stores these bytes from this address on -/
  | store (addr : Nat) (bytes : List Byte)
  /-- reads of this address are answered with a bus error from now on -/
  | failRead (addr : Nat)
  /-- reads of this address are answered with its byte again -/
  | healRead (addr : Nat)
deriving DecidableEq, Repr

/-- The commands. -/
inductive Instr where
  -- requests: the oldest request taken from the ring goes to its owner
  | setup
  | loadScreening
  | unloadScreening
  | loadCatalog
  | order
  | inquire
  | abort
  | resume
  -- order words: the running word of the lane's block is run
  | pick (lane : LaneIx)
  | drop (lane : LaneIx)
  | setType (lane : LaneIx)
  | addVoucher (lane : LaneIx)
  | removeVoucher (lane : LaneIx)
  | quote (lane : LaneIx)
  | pay (lane : LaneIx)
  | print (lane : LaneIx)
  | finish (lane : LaneIx)
  | cancel (lane : LaneIx)
  -- register writes
  | requestKick (value : BitVec 64) (mem : List HostOp)
  | reportKick (value : BitVec 32) (mem : List HostOp)
  | causeWrite (value : BitVec 32) (mem : List HostOp)
  | maskWrite (value : BitVec 32) (mem : List HostOp)
  | otherRegisterWrite (offset : Nat) (value : BitVec 32) (mem : List HostOp)
  -- notices received
  | holdReceived (sender code life : Nat) (seats : List SeatRef)
  | renewReceived (sender code life : Nat) (seats : List SeatRef)
  | releaseReceived (sender code : Nat) (seats : List SeatRef)
  | objectReceived (sender code claimant : Nat) (seats : List SeatRef)
  | saleReceived (sender code : Nat) (seats : List SeatRef)
  | censusCallReceived (sender code : Nat)
  | censusReplyReceived (sender code : Nat) (sect : Section) (owner remaining : Nat) (seats : List SeatRef)
  | verifyReceived (sender : Nat) (voucher : VCode)
  | redeemReceived (sender : Nat) (voucher : VCode)
  | voucherStateReceived (sender : Nat) (voucher : VCode) (item : Nat) (answer : Answer)
  | runtReceived (bytes : List Byte)
  | noticeCheckFailed (bytes : List Byte)
  -- events of the notice in contention
  | gapComplete
  | collisionDetected
  | jamComplete (draw : Nat)
  | backoffExpiry
  | noticeTransmitted (instant : Nat)
  | jabberCutoff
  -- timers of seats, claims, orders and lanes
  | censusWindowEnd (slot : Nat)
  | peerHeldExpiry (slot : Nat) (seat : SeatRef)
  | contestTimerExpiry (lane : LaneIx)
  | dueMark (lane : LaneIx) (instant : Nat)
  | demandMark (lane : LaneIx) (instant : Nat)
  | expiryMark (lane : LaneIx) (instant : Nat)
  | attendanceLapse (lane : LaneIx)
  -- terminal lines
  | resultReceived (lane : LaneIx) (tag index : Nat) (outcome : ResultOutcome) (approved : Nat) (auth : BitVec 48)
  | capturedReceived (lane : LaneIx) (tag index : Nat)
  | voidedReceived (lane : LaneIx) (tag index : Nat)
  | terminalFrameDiscarded (lane : LaneIx) (bytes : List RxByte)
  | terminalByteGapTimeout (lane : LaneIx)
  | terminalFrameSent (lane : LaneIx)
  | authTimeout (lane : LaneIx)
  | captureTimeout (lane : LaneIx)
  | voidTimeout (lane : LaneIx)
  | pinDeadline (lane : LaneIx)
  | voucherExpiry (index : Nat)
  -- printers
  | presentReceived (port : PortIx)
  | doneReceived (port : PortIx) (tag : ItemTag)
  | faultReceived (port : PortIx) (tag : Option ItemTag) (cause : Nat)
  | printerFrameDiscarded (port : PortIx) (bytes : List RxByte)
  | printerByteGapTimeout (port : PortIx)
  | printerFrameSent (port : PortIx)
  | itemTimeout (port : PortIx)
  | probeTimeout (port : PortIx)
  | probeIntervalEnd (port : PortIx)
  | faultLineAsserted (port : PortIx) (line : FaultLine)
  | faultLineReleased (port : PortIx) (line : FaultLine)
  | paperLowAsserted (port : PortIx)
  | paperLowReleased (port : PortIx)
  -- inputs, the house clock and mitigation
  | supplyWarningAsserted
  | supplyWarningReleased
  | resetAsserted
  | resetReleased
  | houseClockAdvance
  | mitigationTimerExpiry (cause : MitCause)
deriving DecidableEq, Repr

end Sys2Proof
end

