-- ==== Sys2Proof/Decode.lean ====
section
/-! DEFINITION. The command that a word spells by the bits of the opcode table. No row of this block's table gives bits: a
command is an event at the part's pins and lines, not a word (notes/assumptions/36.md). -/

namespace Sys2Proof

/-- No word spells a command: no row of spec/opcode_table.json gives bits. -/
def decodeTableWord (_nbits _w : Nat) : Option Instr := none

end Sys2Proof
end

