-- ==== Sys2Proof/Machine/State.lean ====
section
/-! DEFINITION. The state of the part as plain data: every register, record, queue, counter, timer, mode and input that
the spec names, the queue of waiting commands, the reasons a step can stop, and the machine after reset. -/

namespace Sys2Proof.Machine

/-! ### Containers for the four lanes and the two ports -/

/-- One value for each lane. -/
structure PerLane (α : Type) where
  l0 : α
  l1 : α
  l2 : α
  l3 : α
deriving DecidableEq, Repr

/-- One value for each printer port. -/
structure PerPort (α : Type) where
  p0 : α
  p1 : α
deriving DecidableEq, Repr

/-! ### Setup, house clock and drain (10_setup_house_clock_and_drain.md) -/

/-- The policy for malformed blocks (R72). -/
inductive Policy where
  | strict
  | lenient
deriving DecidableEq, Repr

/-- The setup record. Times are in the unit the record gives: ms, s or min. -/
structure SetupRecord where
  station : Nat
  laneCount : Nat
  printerCount : Nat
  policy : Policy
  contestWindow : Nat
  holdLifetime : Nat
  censusWindow : Nat
  attendanceTimeout : Nat
  authTimeout : Nat
  captureTimeout : Nat
  itemTimeout : Nat
  urgentWindow : Nat
  voucherGrace : Nat
  discountCap : Nat
  ticketTax : Nat
  concessionTax : Nat
  firstTicket : Nat
  firstVoucher : Nat
  lineRate : Nat
  mitCount : Nat
  mitTime : Nat
  requestBase : Nat
  requestLength : Nat
  reportBase : Nat
  reportLength : Nat
  clockStart : Nat
deriving DecidableEq, Repr

/-- The drain phase (R178, R185). -/
inductive DrainPhase where
  | clear
  | draining
  | drained
deriving DecidableEq, Repr

/-- Setup and House Clock. -/
structure House where
  record : Option SetupRecord
  lock : Bool
  clock : Nat
  counting : Bool
  drain : DrainPhase
deriving DecidableEq, Repr

/-! ### The Ring Interface (09_kiosk_processor_interface.md) -/

/-- Which ring a request was taken from (R168). -/
inductive RingKind where
  | boot
  | request
deriving DecidableEq, Repr

/-- The kinds of request (R170). -/
inductive RequestKind where
  | setup
  | loadScreening
  | unloadScreening
  | loadCatalog
  | order
  | inquire
  | abort
  | resume
deriving DecidableEq, Repr

/-- What completing a request needs of its descriptor (R171): where it lies and where its status goes. -/
structure RequestRef where
  ring : RingKind
  index : Nat
  descAddr : Nat
  statusAddr : Nat
  statusLen : Nat
deriving DecidableEq, Repr

/-- A request taken from a ring, its block read, and not yet passed to its owner (R170). -/
structure TakenRequest where
  ref : RequestRef
  kind : RequestKind
  lane : Nat
  block : List Byte
deriving DecidableEq, Repr

/-- The reasons and qualifiers of refusals and faults of blocks (11_record_layouts.md, The status block). -/
inductive Code where
  | seatTaken | seatBlocked | seatNotInPlan | seatTypeNotOffered
  | linkBusy | linkDegraded | linkMute
  | orderWrongState | orderDraining | orderLaneBusy | orderTagMismatch | orderNoLane | orderNoBlock
  | orderSeatLimit | orderNotInOrder | orderLapsed
  | quoteStale | quoteNoLines | quoteOverLimit
  | payShort | payShortFinal | payDeclined | payCustomerCancel | payTimeout | payTerminal
  | paySeatsLost | payCaptureFailed | payUnresolved
  | printFailed
  | voucherUnknown | voucherLineLimit | voucherExhausted
  | screeningDuplicate | screeningNoSlot | screeningInUse | screeningUnknown | screeningSyncing
  | screeningLate | screeningMismatch | screeningUnloaded
  | catalogInUse
  | setupLocked | setupNotDone
  | supplyLow
  | format | formatKind | formatBlockLength | formatBusRead
  | formatHeader | formatAction | formatChain | formatLength | formatDataSize
deriving DecidableEq, Repr

/-- The fourteen kinds of report (Reports, the table of kinds). -/
inductive ReportKind where
  | seatLost
  | holdExpired
  | conflict
  | attendanceLapsed
  | paymentUnresolved
  | printFailed
  | printerFault
  | printerRecovered
  | voucherRedeemed
  | voucherUnrecorded
  | duplicateStation
  | linkDegraded
  | linkFault
  | drained
deriving DecidableEq, Repr

/-- The qualifiers of reports. -/
inductive ReportQual where
  | none
  | objected | peerSale
  | holdDivergence | doubleClaim | doubleSale | objectionUnsent
  | cancelled | held | noEffect | cleared
  | entered | pinExpired
  | paperOut | coverOpen | faultMessage | itemTimeout | paperLow | noAnswer
  | jabber
  | station (n : Nat)
deriving DecidableEq, Repr

/-- The states of an order (04_lanes_order_blocks_and_order_records.md, The order record), in the table's order. -/
inductive OrderState where
  | empty
  | opened
  | quoted
  | paying
  | short
  | committing
  | sold
  | printing
  | complete
  | unwinding
  | unresolved
deriving DecidableEq, Repr

/-- The states of a tender (06_card_payment.md, Tenders), in the table's order. -/
inductive TenderState where
  | none
  | authorizing
  | authorized
  | capturing
  | captured
  | voiding
  | voided
  | declined
  | unresolved
deriving DecidableEq, Repr

/-- A tender record. -/
structure Tender where
  state : TenderState
  requested : Nat
  approved : Option Nat
  captured : Nat
  auth : Option (BitVec 48)
deriving DecidableEq, Repr

/-- The two tender slots of an order. -/
inductive TenderIx where
  | one
  | two
deriving DecidableEq, Repr

/-- A tender summary of a report or snapshot. -/
structure TenderSummary where
  index : TenderIx
  tender : Tender
deriving DecidableEq, Repr

/-- A report entry as it is raised; the dropped count is added when it is written (R173). -/
structure Report where
  kind : ReportKind
  qual : ReportQual
  lane : Option LaneIx
  tag : Option Nat
  screening : Option Nat
  ostate : Option OrderState
  port : Option PortIx
  seats : List SeatRef
  voucher : Option VCode
  tenders : List TenderSummary
  figures : List Nat
deriving DecidableEq, Repr

/-- The three bits of CAUSE and of MASK (R167). -/
structure Causes where
  requestDone : Bool
  report : Bool
  ringStall : Bool
deriving DecidableEq, Repr

/-- A mitigation counter: pending completions, and the timer with the interval it was started with (R177). -/
structure Mitigation where
  pending : Nat
  timer : Option Nat
deriving DecidableEq, Repr

/-- The Ring Interface. `taken` holds the requests taken and not yet passed to their owners. -/
structure Ring where
  bootBase : Option Nat
  bootCursor : Nat
  requestCursor : Nat
  marks : List Nat
  reportCursor : Nat
  waiting : List Report
  dropped : Nat
  cause : Causes
  mask : Causes
  mitRequest : Mitigation
  mitReport : Mitigation
  taken : List TakenRequest
deriving DecidableEq, Repr

/-- The kiosk processor's memory as the part's bus master sees it: cells in rising address order with no zero byte
listed, and the addresses whose reads the bus answers with an error. -/
structure HostMem where
  cells : List Host.Cell
  failing : List Nat
deriving DecidableEq, Repr

/-- The Ring Interface together with the memory it writes to. -/
structure Io where
  ring : Ring
  host : HostMem
deriving DecidableEq, Repr

/-! ### Screenings and seat maps (01_screenings_and_seat_maps.md) -/

/-- The state of a seat record with its extra fields (R8). -/
inductive SeatState where
  | free
  | blocked
  | claiming (lane : LaneIx)
  | held (lane : LaneIx)
  | peerHeld (owner expiry : Nat)
  | sold (owner : Nat)
deriving DecidableEq, Repr

/-- A seat of the auditorium plan. -/
structure PlanSeat where
  tier : Nat
  blocked : Bool
deriving DecidableEq, Repr

/-- A ticket-type entry: its factor in thousandths and its offered flag. -/
structure TicketType where
  factor : Nat
  offered : Bool
deriving DecidableEq, Repr

/-- The sync state of a slot. -/
inductive SyncState where
  | syncing
  | ready
deriving DecidableEq, Repr

/-- The census phase of a slot (R5). -/
inductive CensusPhase where
  | idle
  | calling
  | listening
deriving DecidableEq, Repr

/-- The contents of a loaded screening slot. `seats` lists the seat records in plan order; `request` is the
LOAD-SCREENING in progress (R4). -/
structure Screening where
  code : Nat
  start : Nat
  lateOffset : Nat
  surcharge : Nat
  band : Nat
  tiers : List Nat
  types : List TicketType
  plan : List (List PlanSeat)
  seats : List (SeatRef × SeatState)
  sync : SyncState
  phase : CensusPhase
  censusTimer : Option Nat
  request : Option RequestRef
deriving DecidableEq, Repr

/-! ### The foyer link (02_the_foyer_link.md) -/

/-- The link state. -/
inductive LinkState where
  | off
  | active
  | degraded
  | mute
deriving DecidableEq, Repr

/-- A notice without its sender (The notices). -/
inductive Notice where
  | hold (code life : Nat) (seats : List SeatRef)
  | renew (code life : Nat) (seats : List SeatRef)
  | release (code : Nat) (seats : List SeatRef)
  | object (code claimant : Nat) (seats : List SeatRef)
  | sale (code : Nat) (seats : List SeatRef)
  | censusCall (code : Nat)
  | censusReply (code : Nat) (sect : Section) (owner remaining : Nat) (seats : List SeatRef)
  | verify (voucher : VCode)
  | redeem (voucher : VCode)
  | voucherState (voucher : VCode) (item : Nat) (answer : Answer)
deriving DecidableEq, Repr

/-- The classes of transmit-queue entries, best first (The transmit queue). -/
inductive Class where
  | renewDemand
  | sale
  | object
  | release
  | voucherState
  | hold
  | censusCall
  | censusReply
  | renewNormal
deriving DecidableEq, Repr

/-- Renewal content kept aside while the order's RENEW is on the pair (R38). -/
structure Kept where
  notice : Notice
  cls : Class
deriving DecidableEq, Repr

/-- An entry of the transmit queue. `id` names the entry (the model's own field); `leaving` is set when its owner has
asked for its removal while it is on the pair (R31). -/
structure Entry where
  id : Nat
  notice : Notice
  cls : Class
  lane : Option LaneIx
  tag : Option Nat
  leaving : Bool
  kept : Option Kept
deriving DecidableEq, Repr

/-- The phase of the notice in contention (Sending a notice). -/
inductive Phase where
  | idle
  | deferring
  | sending
  | jamming
  | backoff
deriving DecidableEq, Repr

/-- The contention state: phase, the entry in contention, its collision count, and the backoff timer in slots. -/
structure Contention where
  phase : Phase
  entry : Option Nat
  collisions : Nat
  backoff : Option Nat
deriving DecidableEq, Repr

/-- The Link Controller. `queue` lists the entries oldest first; `nextId` is the id the next offered notice takes. -/
structure Link where
  state : LinkState
  station : Option Nat
  queue : List Entry
  overflow : Option Entry
  owed : PerLane Bool
  contention : Contention
  aborts : Nat
  receiveErrors : Nat
  nextId : Nat
deriving DecidableEq, Repr

/-! ### Claims and renewal (03_seat_claims_and_holds.md) -/

/-- The state of a claim record. -/
inductive ClaimState where
  | none
  | queued
  | contest
  | withdrawing
  | confirmed
deriving DecidableEq, Repr

/-- A claimed seat with its ticket type. -/
structure ClaimSeat where
  seat : SeatRef
  type : Nat
deriving DecidableEq, Repr

/-- The transmit end of a HOLD or RENEW: house-clock reading and timebase instant in ms. -/
structure TransmitEnd where
  clock : Nat
  instant : Nat
deriving DecidableEq, Repr

/-- A lane's claim record. `code` and `slot` are the claim's screening. -/
structure Claim where
  state : ClaimState
  tag : Option Nat
  slot : Nat
  code : Nat
  seats : List ClaimSeat
  holdEnd : Option TransmitEnd
  contestTimer : Option Nat
deriving DecidableEq, Repr

/-- An order's renewal timer: its base, and how many of the due, demand and expiry marks have passed. -/
structure Renewal where
  base : TransmitEnd
  passed : Nat
deriving DecidableEq, Repr

/-- The order's SALE that has been offered and not yet transmitted (R57, R62). -/
structure SalePending where
  entry : Nat
  seats : List SeatRef
deriving DecidableEq, Repr

/-! ### Lanes, blocks and orders (04_lanes_order_blocks_and_order_records.md) -/

/-- An order word with its data. -/
inductive OrderWord where
  | pick (code : Nat) (entries : List ClaimSeat)
  | drop (seats : List SeatRef)
  | setType (seat : SeatRef) (type : Nat)
  | addVoucher (item count : Nat)
  | removeVoucher (item count : Nat)
  | quote
  | pay (cap : Option Nat)
  | print
  | finish
  | cancel
deriving DecidableEq, Repr

/-- Where the running word stands: not yet run, waiting on a withdrawal (R46), or taken and taking time (R74). -/
inductive WordPhase where
  | fresh
  | waiting
  | taken
deriving DecidableEq, Repr

/-- What the block in progress is at: a running word, or the wait of a malformed block under STRICT (R72). -/
inductive BlockMode where
  | running (word : Nat) (phase : WordPhase)
  | strictWait (offset : Option Nat) (code : Code)
deriving DecidableEq, Repr

/-- The block in progress of a lane. -/
structure Block where
  ref : RequestRef
  tag : Nat
  words : List OrderWord
  mode : BlockMode
deriving DecidableEq, Repr

/-- The screening an order names: slot and code. -/
structure ScreeningRef where
  slot : Nat
  code : Nat
deriving DecidableEq, Repr

/-- A seat line. -/
structure SeatLine where
  seat : SeatRef
  type : Nat
  price : Option Nat
  lost : Bool
deriving DecidableEq, Repr

/-- A voucher line. -/
structure VoucherLine where
  item : Nat
  paired : Bool
  price : Option Nat
  discount : Option Nat
  code : Option VCode
deriving DecidableEq, Repr

/-- The quote record (05_price_computation.md, The quote record). -/
structure Quote where
  clamped : Bool
  pairings : Nat
  ticketPart : Nat
  voucherSum : Nat
  totalDiscount : Nat
  concessionPart : Nat
  total : Nat
  ticketTax : Nat
  concessionTax : Nat
  taxTotal : Nat
deriving DecidableEq, Repr

/-- The kinds of printed item. -/
inductive ItemKind where
  | ticket
  | stub
  | receipt
deriving DecidableEq, Repr

/-- The states of an item (08_ticket_printing.md, Print jobs). -/
inductive ItemState where
  | pending
  | sent
  | done
  | spoiled
deriving DecidableEq, Repr

/-- An item of a print job. `line` is the order line it prints, `serial` the counter value of a ticket's printed
serial, whose station is this station (R157). -/
structure Item where
  kind : ItemKind
  line : Option Nat
  state : ItemState
  spoils : Nat
  serial : Option Nat
deriving DecidableEq, Repr

/-- The print progress of an order: its job is in the print queue, or the items of its failed or finished job. -/
inductive Progress where
  | inQueue
  | failed (items : List Item)
  | finished (items : List Item)
deriving DecidableEq, Repr

/-- The order record. -/
structure Order where
  state : OrderState
  tag : Option Nat
  screening : Option ScreeningRef
  seatLines : List SeatLine
  voucherLines : List VoucherLine
  quote : Option Quote
  quoteCurrent : Bool
  tender1 : Tender
  tender2 : Tender
  progress : Option Progress
  lapseHeld : Bool
  cancelPending : Bool
deriving DecidableEq, Repr

/-! ### Terminals (06_card_payment.md) -/

/-- The state of a terminal line. -/
inductive LineState where
  | off
  | idle
  | awaiting
deriving DecidableEq, Repr

/-- The kinds of message the part sends to a terminal. -/
inductive ExchangeKind where
  | auth
  | capture
  | void
deriving DecidableEq, Repr

/-- A message to a terminal. -/
structure TerminalMsg where
  kind : ExchangeKind
  tag : Nat
  index : TenderIx
  amount : Nat
deriving DecidableEq, Repr

/-- The outstanding exchange: its message and its deadline on the house clock. -/
structure Exchange where
  msg : TerminalMsg
  deadline : Nat
deriving DecidableEq, Repr

/-- Why an order is UNWINDING. -/
inductive UnwindCause where
  | timeout
  | terminal
  | shortFinal
  | seatsLost
  | captureFailed
deriving DecidableEq, Repr

/-- A Tender Controller. `sending` is the frame being sent, before its last byte opens the exchange (R109). -/
structure Terminal where
  line : LineState
  sending : Option TerminalMsg
  exchange : Option Exchange
  cause : Option UnwindCause
  pinDeadline : Option Nat
deriving DecidableEq, Repr

/-- Everything a lane owns: its block, order, attendance timer (deadline), claim record, renewal timer, pending SALE and
Tender Controller. -/
structure Lane where
  block : Option Block
  order : Order
  attendance : Option Nat
  claim : Claim
  renewal : Option Renewal
  sale : Option SalePending
  term : Terminal
deriving DecidableEq, Repr

/-! ### Vouchers (07_snack_vouchers.md) -/

/-- An item of the snack catalog with its counts. -/
structure CatalogItem where
  code : Nat
  price : Nat
  combo : Bool
  comboDiscount : Nat
  allotment : Nat
  issued : Nat
  reserved : Nat
deriving DecidableEq, Repr

/-- The states of a voucher record. -/
inductive VoucherStatus where
  | issued
  | redeemed
  | expired
  | void
deriving DecidableEq, Repr

/-- A record of the voucher table. -/
structure VoucherRecord where
  code : VCode
  item : Nat
  screening : Option Nat
  expiry : Nat
  status : VoucherStatus
  printed : Bool
  redeemedBy : Option Nat
deriving DecidableEq, Repr

/-- The Voucher Unit. `table` lists the records oldest first. -/
structure Vouchers where
  catalog : List CatalogItem
  expiry : Option Nat
  table : List VoucherRecord
  serial : Nat
deriving DecidableEq, Repr

/-! ### Printing (08_ticket_printing.md) -/

/-- The state of a printer. -/
inductive PrinterState where
  | offline
  | ready
  | busy
  | faulted
deriving DecidableEq, Repr

/-- The causes of a printer's fault flag. -/
inductive FaultCause where
  | paperOut
  | coverOpen
  | faultMessage
  | itemTimeout
deriving DecidableEq, Repr

/-- One seat of a receipt. -/
structure ReceiptSeat where
  seat : SeatRef
  price : Nat
deriving DecidableEq, Repr

/-- One voucher of a receipt. -/
structure ReceiptVoucher where
  item : Nat
  price : Nat
  discount : Nat
deriving DecidableEq, Repr

/-- One tender of a receipt. -/
structure ReceiptTender where
  index : TenderIx
  captured : Nat
  auth : Option (BitVec 48)
deriving DecidableEq, Repr

/-- The content of an ITEM message, read at the moment of sending (R156). -/
inductive ItemContent where
  | ticket (code start : Nat) (seat : SeatRef) (type price : Nat) (station serial : Nat)
  | stub (voucher : VCode) (item expiry price discount : Nat)
  | receipt (tag station : Nat) (seats : List ReceiptSeat) (vouchers : List ReceiptVoucher)
      (ticketPart concessionPart total ticketTax concessionTax taxTotal : Nat) (tenders : List ReceiptTender)
deriving DecidableEq, Repr

/-- A message to a printer. -/
inductive PrinterMsg where
  | probe
  | item (tag : ItemTag) (content : ItemContent)
deriving DecidableEq, Repr

/-- A message sent and not yet answered, with its deadline on the house clock. -/
structure Outstanding where
  msg : PrinterMsg
  deadline : Nat
deriving DecidableEq, Repr

/-- A printer record. `job` is the lane whose job the printer serves (a lane has at most one job, R153); `sending` is
the frame being sent, before its last byte makes it outstanding (R146); `interval` is the end of the probe interval. -/
structure Printer where
  enabled : Bool
  state : PrinterState
  fault : Bool
  cause : Option FaultCause
  job : Option LaneIx
  sending : Option PrinterMsg
  outstanding : Option Outstanding
  silent : Bool
  interval : Option Nat
deriving DecidableEq, Repr

/-- Where a job stands. -/
inductive Place where
  | waiting
  | returned
  | onPrinter (port : PortIx)
deriving DecidableEq, Repr

/-- A print job. `screening` is its code and start time. -/
structure Job where
  lane : LaneIx
  tag : Nat
  screening : Option (Nat × Nat)
  items : List Item
  place : Place
  returnOrder : Option Nat
deriving DecidableEq, Repr

/-- The Print Controller. `jobs` lists the jobs in order of entry. -/
structure Printing where
  printers : PerPort Printer
  jobs : List Job
  serial : Nat
deriving DecidableEq, Repr

/-! ### Inputs -/

/-- The three status inputs of a printer port. -/
structure PortLines where
  paperOut : Bool
  paperLow : Bool
  coverOpen : Bool
deriving DecidableEq, Repr

/-- The levels of the part's inputs. -/
structure Pins where
  reset : Bool
  supply : Bool
  ports : PerPort PortLines
deriving DecidableEq, Repr

/-! ### The whole machine -/

/-- The part's state. `slots` is the Seat Map Store's sixteen screening slots; `pending` is the queue of commands that
wait, first in, first out. -/
structure State where
  house : House
  slots : List (Option Screening)
  link : Link
  lanes : PerLane Lane
  vouchers : Vouchers
  printing : Printing
  io : Io
  pins : Pins
  pending : List Instr
deriving DecidableEq, Repr

/-- The part has no fault that stops it: every command has an effect or leaves the state as it is, so this type has no
constructor and no step can answer a fault (safe: the machine never stops where the part goes on). -/
inductive Fault : Type
deriving DecidableEq, Repr

/-- `notModelled` would be answered by an arm of `exec` that has no meaning yet; no arm answers it (safe: the machine
stops). -/
inductive Refusal where
  | notModelled (mnemonic : String)
deriving DecidableEq, Repr

/-! ### Reset -/

/-- A tender slot not used since the order left EMPTY. -/
def Tender.unused : Tender := ⟨.none, 0, none, 0, none⟩

/-- The EMPTY order record, every field absent (R69). -/
def Order.blank : Order := ⟨.empty, none, none, [], [], none, false, Tender.unused, Tender.unused, none, false, false⟩

/-- The claim record NONE with no fields (R43). -/
def Claim.blank : Claim := ⟨.none, none, 0, 0, [], none, none⟩

/-- A terminal line OFF with nothing outstanding (R108). -/
def Terminal.off : Terminal := ⟨.off, none, none, none, none⟩

/-- A lane after reset (R43, R69, R108). -/
def Lane.reset : Lane := ⟨none, Order.blank, none, Claim.blank, none, none, Terminal.off⟩

/-- A printer record after reset (R145). -/
def Printer.reset : Printer := ⟨false, .offline, false, none, none, none, none, false, none⟩

/-- No cause or mask bit. -/
def Causes.none : Causes := ⟨false, false, false⟩

/-- The Ring Interface after reset (R167, R172, R175, R177). -/
def Ring.reset : Ring := ⟨none, 0, 0, [], 0, [], 0, Causes.none, Causes.none, ⟨0, none⟩, ⟨0, none⟩, []⟩

/-- No notice in contention. -/
def Contention.none : Contention := ⟨.idle, Option.none, 0, Option.none⟩

/-- The Link Controller after reset (R22). -/
def Link.reset : Link := ⟨.off, none, [], none, ⟨false, false, false, false⟩, Contention.none, 0, 0, 0⟩

/-- Setup and House Clock after reset (R178). -/
def House.reset : House := ⟨none, false, 0, false, .clear⟩

/-- Voucher Unit after reset (R128). -/
def Vouchers.reset : Vouchers := ⟨[], none, [], 0⟩

/-- Print Controller after reset (R145, R153, R157). -/
def Printing.reset : Printing := ⟨⟨Printer.reset, Printer.reset⟩, [], 0⟩

/-- Status inputs with no line asserted. -/
def PortLines.quiet : PortLines := ⟨false, false, false⟩

/-- Inputs with no level asserted (DESIGN CHOICE, notes/assumptions/33.md). -/
def Pins.quiet : Pins := ⟨false, false, ⟨PortLines.quiet, PortLines.quiet⟩⟩

/-- The processor's memory with no cell listed (DESIGN CHOICE, notes/assumptions/2.md). -/
def HostMem.blank : HostMem := ⟨[], []⟩

/-- Sixteen free slots (R1). -/
def State.freeSlots : List (Option Screening) := List.replicate Config.slotCount none

/-- The machine right after reset, with the reset input released and no command waiting. -/
def State.reset : State :=
  { house := House.reset
    slots := State.freeSlots
    link := Link.reset
    lanes := ⟨Lane.reset, Lane.reset, Lane.reset, Lane.reset⟩
    vouchers := Vouchers.reset
    printing := Printing.reset
    io := ⟨Ring.reset, HostMem.blank⟩
    pins := Pins.quiet
    pending := [] }

end Sys2Proof.Machine
end

