-- ==== Sys2Proof/Machine/Codec.lean ====
section
/-! DEFINITION. Bytes: byte order, the CRC-16, and the layouts of what the part writes and sends (11_record_layouts.md:
notices, terminal and printer frames, status blocks, report entries). -/

namespace Sys2Proof.Machine

/-! ### Byte order (Conventions, Byte order) -/

/-- The `n` low bytes of `v`, least significant first (records in the processor's memory). -/
def leBytes : Nat → Nat → List Byte
  | 0, _ => []
  | n + 1, v => Byte.ofNat v :: leBytes n (v / 256)

/-- The `n` low bytes of `v`, most significant first (notices and frames). -/
def beBytes (n v : Nat) : List Byte := (leBytes n v).reverse

/-- The number that bytes carry, least significant first. -/
def leNat : List Byte → Nat
  | [] => 0
  | b :: bs => b.toNat + 256 * leNat bs

/-- The number that bytes carry, most significant first. -/
def beNat (bs : List Byte) : Nat := leNat bs.reverse

/-- `n` bytes of a record from offset `off`. -/
def slice (bs : List Byte) (off n : Nat) : List Byte := (bs.drop off).take n

/-- The little-endian field of `n` bytes at offset `off`. -/
def leField (bs : List Byte) (off n : Nat) : Nat := leNat (slice bs off n)

/-- The big-endian field of `n` bytes at offset `off`. -/
def beField (bs : List Byte) (off n : Nat) : Nat := beNat (slice bs off n)

/-- `bs` followed by zero bytes up to length `n`. -/
def padTo (n : Nat) (bs : List Byte) : List Byte := bs ++ List.replicate (n - bs.length) 0

/-- The number a Bool is written as. -/
def bit (b : Bool) : Nat := if b then 1 else 0

/-! ### CRC-16 (R191) -/

/-- One bit of the CRC register: polynomial 1021h, most significant bit first. -/
def crcBit (c : BitVec 16) : BitVec 16 := if c.msb then (c <<< 1) ^^^ 0x1021#16 else c <<< 1

/-- One byte into the CRC register. -/
def crcByte (c : BitVec 16) (b : Byte) : BitVec 16 :=
  crcBit (crcBit (crcBit (crcBit (crcBit (crcBit (crcBit (crcBit (c ^^^ (b.zeroExtend 16 <<< 8)))))))))

/-- The CRC-16 of a run of bytes: initial value FFFFh, no final inversion (R191). -/
def crc16 (bs : List Byte) : BitVec 16 := bs.foldl crcByte 0xFFFF#16

/-- The CRC-16 as it is sent, most significant byte first (R191). -/
def crcBytes (bs : List Byte) : List Byte := beBytes 2 (crc16 bs).toNat

/-! ### Seats and codes -/

/-- A seat reference in two bytes: row index, seat number. -/
def seatBytes (r : SeatRef) : List Byte := [Byte.ofNat r.row, Byte.ofNat r.num]

/-- The seats of a list, two bytes each. -/
def seatsBytes (rs : List SeatRef) : List Byte := rs.flatMap seatBytes

/-- A seat list of a notice: its count byte, then the seats. -/
def seatListBytes (rs : List SeatRef) : List Byte := Byte.ofNat rs.length :: seatsBytes rs

/-- A voucher code or printed serial in a notice or frame: station, then three bytes of serial, most significant first. -/
def vcodeBytes (v : VCode) : List Byte := Byte.ofNat v.station :: beBytes 3 v.serial

/-- A voucher code in the processor's memory: station, then three bytes of serial, least significant first
(DEDUCED from the byte order of records, notes/assumptions/20.md). -/
def vcodeRecordBytes (v : VCode) : List Byte := Byte.ofNat v.station :: leBytes 3 v.serial

/-! ### The foyer-link notice -/

/-- The kind byte of a notice. -/
def Notice.kindCode : Notice → Nat
  | .hold .. => 1
  | .renew .. => 2
  | .release .. => 3
  | .object .. => 4
  | .sale .. => 5
  | .censusCall .. => 6
  | .censusReply .. => 7
  | .verify .. => 8
  | .redeem .. => 9
  | .voucherState .. => 10

/-- The byte of a VOUCHER-STATE's answer. -/
def answerCode : Answer → Nat
  | .valid => 1
  | .unknown => 2
  | .redeemed => 3
  | .expired => 4
  | .redeemedNow => 5

/-- The body of a notice. -/
def Notice.body : Notice → List Byte
  | .hold code life seats => beBytes 2 code ++ beBytes 2 life ++ seatListBytes seats
  | .renew code life seats => beBytes 2 code ++ beBytes 2 life ++ seatListBytes seats
  | .release code seats => beBytes 2 code ++ seatListBytes seats
  | .object code claimant seats => beBytes 2 code ++ [Byte.ofNat claimant] ++ seatListBytes seats
  | .sale code seats => beBytes 2 code ++ seatListBytes seats
  | .censusCall code => beBytes 2 code
  | .censusReply code .held owner remaining seats =>
      beBytes 2 code ++ [0, Byte.ofNat owner] ++ beBytes 2 remaining ++ seatListBytes seats
  | .censusReply code .sold owner _ seats => beBytes 2 code ++ [1, Byte.ofNat owner] ++ beBytes 2 0 ++ seatListBytes seats
  | .verify v => vcodeBytes v
  | .redeem v => vcodeBytes v
  | .voucherState v item answer => vcodeBytes v ++ beBytes 2 item ++ [Byte.ofNat (answerCode answer)]

/-- A notice from `sender` as it goes onto the pair: header, body, CRC-16. -/
def Notice.encode (sender : Nat) (n : Notice) : List Byte :=
  let run := [Byte.ofNat n.kindCode, Byte.ofNat sender, Byte.ofNat n.body.length, 0] ++ n.body
  run ++ crcBytes run

/-! ### Terminal and printer frames -/

/-- The tender index in a message. -/
def TenderIx.number : TenderIx → Nat
  | .one => 1
  | .two => 2

/-- The type and body of a message to a terminal. -/
def TerminalMsg.payload (m : TerminalMsg) : List Byte :=
  match m.kind with
  | .auth => [1] ++ beBytes 2 m.tag ++ [Byte.ofNat m.index.number] ++ beBytes 4 m.amount
  | .capture => [2] ++ beBytes 2 m.tag ++ [Byte.ofNat m.index.number] ++ beBytes 4 m.amount
  | .void => [3] ++ beBytes 2 m.tag ++ [Byte.ofNat m.index.number]

/-- A terminal frame: start byte, one-byte length, type and body, CRC-16 over length, type and body. -/
def TerminalMsg.frame (m : TerminalMsg) : List Byte :=
  let run := Byte.ofNat m.payload.length :: m.payload
  [0xA5] ++ run ++ crcBytes run

/-- An auth code in the order in which its bytes were received, six zero bytes when none is held: in a tender summary too,
where other fields are little-endian (DESIGN CHOICE, notes/assumptions/55.md). -/
def authBytes (a : Option (BitVec 48)) : List Byte := beBytes 6 ((a.map BitVec.toNat).getD 0)

/-- The item kind of an ITEM message and of a PRINT-FAILED report. -/
def ItemKind.code : ItemKind → Nat
  | .ticket => 1
  | .stub => 2
  | .receipt => 3

/-- The kind of an item by its content. -/
def ItemContent.kind : ItemContent → ItemKind
  | .ticket .. => .ticket
  | .stub .. => .stub
  | .receipt .. => .receipt

/-- The content of an ITEM, the fields of R156 in their order. -/
def ItemContent.bytes : ItemContent → List Byte
  | .ticket code start seat type price station serial =>
      beBytes 2 code ++ beBytes 4 start ++ seatBytes seat ++ [Byte.ofNat type] ++ beBytes 4 price ++ vcodeBytes ⟨station, serial⟩
  | .stub voucher item expiry price discount =>
      vcodeBytes voucher ++ beBytes 2 item ++ beBytes 4 expiry ++ beBytes 4 price ++ beBytes 4 discount
  | .receipt tag station seats vouchers ticketPart concessionPart total ticketTax concessionTax taxTotal tenders =>
      beBytes 2 tag ++ [Byte.ofNat station]
        ++ Byte.ofNat seats.length :: seats.flatMap (fun x => seatBytes x.seat ++ beBytes 4 x.price)
        ++ Byte.ofNat vouchers.length ::
            vouchers.flatMap (fun x => beBytes 2 x.item ++ beBytes 4 x.price ++ beBytes 4 x.discount)
        ++ beBytes 4 ticketPart ++ beBytes 4 concessionPart ++ beBytes 4 total
        ++ beBytes 4 ticketTax ++ beBytes 4 concessionTax ++ beBytes 4 taxTotal
        ++ Byte.ofNat tenders.length ::
            tenders.flatMap (fun x => [Byte.ofNat x.index.number] ++ beBytes 4 x.captured ++ authBytes x.auth)

/-- An item tag in three bytes. -/
def itemTagBytes (t : ItemTag) : List Byte := [Byte.ofNat t.lane, Byte.ofNat t.index, Byte.ofNat t.spoils]

/-- The type and body of a message to a printer. -/
def PrinterMsg.payload : PrinterMsg → List Byte
  | .probe => [1]
  | .item tag content => [2] ++ itemTagBytes tag ++ [Byte.ofNat content.kind.code] ++ content.bytes

/-- A printer frame: start byte, two-byte length, type and body, CRC-16. -/
def PrinterMsg.frame (m : PrinterMsg) : List Byte :=
  let run := beBytes 2 m.payload.length ++ m.payload
  [0xA5] ++ run ++ crcBytes run

/-! ### Reasons, qualifiers and states in records -/

/-- The reason and qualifier numbers of a code (The status block). -/
def Code.numbers : Code → Nat × Nat
  | .seatTaken => (1, 1) | .seatBlocked => (1, 2) | .seatNotInPlan => (1, 3) | .seatTypeNotOffered => (1, 4)
  | .linkBusy => (2, 1) | .linkDegraded => (2, 2) | .linkMute => (2, 3)
  | .orderWrongState => (3, 1) | .orderDraining => (3, 2) | .orderLaneBusy => (3, 3) | .orderTagMismatch => (3, 4)
  | .orderNoLane => (3, 5) | .orderNoBlock => (3, 6) | .orderSeatLimit => (3, 7) | .orderNotInOrder => (3, 8)
  | .orderLapsed => (3, 9)
  | .quoteStale => (4, 1) | .quoteNoLines => (4, 2) | .quoteOverLimit => (4, 3)
  | .payShort => (5, 1) | .payShortFinal => (5, 2) | .payDeclined => (5, 3) | .payCustomerCancel => (5, 4)
  | .payTimeout => (5, 5) | .payTerminal => (5, 6) | .paySeatsLost => (5, 7) | .payCaptureFailed => (5, 8)
  | .payUnresolved => (5, 9)
  | .printFailed => (6, 1)
  | .voucherUnknown => (7, 1) | .voucherLineLimit => (7, 2) | .voucherExhausted => (7, 3)
  | .screeningDuplicate => (8, 1) | .screeningNoSlot => (8, 2) | .screeningInUse => (8, 3) | .screeningUnknown => (8, 4)
  | .screeningSyncing => (8, 5) | .screeningLate => (8, 6) | .screeningMismatch => (8, 7) | .screeningUnloaded => (8, 8)
  | .catalogInUse => (9, 1)
  | .setupLocked => (10, 1) | .setupNotDone => (10, 2)
  | .supplyLow => (11, 1)
  | .format => (12, 0) | .formatKind => (12, 1) | .formatBlockLength => (12, 2) | .formatBusRead => (12, 3)
  | .formatHeader => (12, 4) | .formatAction => (12, 5) | .formatChain => (12, 6) | .formatLength => (12, 7)
  | .formatDataSize => (12, 8)

/-- The number of an order state: EMPTY 0 to UNRESOLVED 10. -/
def OrderState.number : OrderState → Nat
  | .empty => 0 | .opened => 1 | .quoted => 2 | .paying => 3 | .short => 4 | .committing => 5
  | .sold => 6 | .printing => 7 | .complete => 8 | .unwinding => 9 | .unresolved => 10

/-- The number of a tender state: NONE 0 to UNRESOLVED 8. -/
def TenderState.number : TenderState → Nat
  | .none => 0 | .authorizing => 1 | .authorized => 2 | .capturing => 3 | .captured => 4
  | .voiding => 5 | .voided => 6 | .declined => 7 | .unresolved => 8

/-- The number of a claim state in the INQUIRE snapshot. -/
def ClaimState.number : ClaimState → Nat
  | .none => 0 | .queued => 1 | .contest => 2 | .withdrawing => 3 | .confirmed => 4

/-! ### The status block -/

/-- The completion of a request. -/
inductive Completion where
  | done
  | refused
  | malformed
  | aborted
deriving DecidableEq, Repr

/-- A residual: a seat list, or an amount or count. -/
inductive Residual where
  | seats (seats : List SeatRef)
  | number (n : Nat)
deriving DecidableEq, Repr

/-- What a status block carries (R76). -/
structure Status where
  completion : Completion
  offset : Option Nat
  code : Option Code
  residual : Option Residual
  ostate : Option OrderState
  total : Option Nat
  offending : List SeatRef
deriving DecidableEq, Repr

/-- The number of a completion. -/
def Completion.number : Completion → Nat
  | .done => 1
  | .refused => 2
  | .malformed => 3
  | .aborted => 4

/-- The seats of a residual as the block's list holds them, ten at most (notes/assumptions/19.md). -/
def Residual.seatList : Option Residual → List SeatRef
  | some (.seats l) => l.take 10
  | _ => []

/-- The amount or count of a residual, 0 for a seat list. -/
def Residual.amount : Option Residual → Nat
  | some (.number n) => n
  | _ => 0

/-- The offending seats as the block's list holds them, ten at most (notes/assumptions/19.md). -/
def Status.offendingList (st : Status) : List SeatRef := st.offending.take 10

/-- The present-field bits of a status block. -/
def Status.present (st : Status) : Nat :=
  bit st.offset.isSome + 2 * bit st.residual.isSome + 4 * bit st.ostate.isSome + 8 * bit st.total.isSome
    + 16 * bit (!st.offending.isEmpty)

/-- The 16-byte header that every status block opens with, for a block of `length` bytes. -/
def Status.header (length : Nat) (st : Status) : List Byte :=
  let rq := (st.code.map Code.numbers).getD (0, 0)
  leBytes 2 length
    ++ [Byte.ofNat st.completion.number, Byte.ofNat st.present, Byte.ofNat (st.offset.getD 0),
        Byte.ofNat ((st.ostate.map OrderState.number).getD 0), Byte.ofNat rq.1, Byte.ofNat rq.2]
    ++ leBytes 4 (st.total.getD 0) ++ leBytes 4 (Residual.amount st.residual)

/-- A status block other than an INQUIRE's: header, seat counts, residual seats, offending seats. -/
def Status.bytes (st : Status) : List Byte :=
  let rs := Residual.seatList st.residual
  let os := st.offendingList
  st.header (18 + 2 * rs.length + 2 * os.length)
    ++ [Byte.ofNat rs.length, Byte.ofNat os.length] ++ seatsBytes rs ++ seatsBytes os

/-- A status that carries a completion alone. -/
def Status.plain (c : Completion) : Status := ⟨c, none, none, none, none, none, []⟩

/-- A refusal that carries its code alone. -/
def Status.refusal (code : Code) : Status := ⟨.refused, none, some code, none, none, none, []⟩

/-! ### The report entry -/

/-- The number of a report kind, 1–14. -/
def ReportKind.number : ReportKind → Nat
  | .seatLost => 1 | .holdExpired => 2 | .conflict => 3 | .attendanceLapsed => 4 | .paymentUnresolved => 5
  | .printFailed => 6 | .printerFault => 7 | .printerRecovered => 8 | .voucherRedeemed => 9 | .voucherUnrecorded => 10
  | .duplicateStation => 11 | .linkDegraded => 12 | .linkFault => 13 | .drained => 14

/-- The number of a qualifier: 0 NONE, otherwise from 1 in the order the kind lists it; for VOUCHER-REDEEMED the
counter's station. -/
def ReportQual.number (k : ReportKind) : ReportQual → Nat
  | .none => 0
  | .objected => 1 | .peerSale => 2
  | .holdDivergence => 1 | .doubleClaim => 2 | .doubleSale => 3 | .objectionUnsent => 4
  | .cancelled => if k = .paymentUnresolved then 2 else 1
  | .held => 2 | .noEffect => 3
  | .cleared => if k = .linkDegraded then 2 else 4
  | .entered => 1 | .pinExpired => 3
  | .paperOut => 1 | .coverOpen => 2 | .faultMessage => 3 | .itemTimeout => 4 | .paperLow => 5 | .noAnswer => 6
  | .jabber => 1
  | .station n => n

/-- A tender summary in 20 bytes. -/
def TenderSummary.bytes (t : TenderSummary) : List Byte :=
  padTo 20 ([Byte.ofNat t.index.number, Byte.ofNat t.tender.state.number] ++ leBytes 4 t.tender.requested
    ++ leBytes 4 (t.tender.approved.getD 0) ++ leBytes 4 t.tender.captured ++ authBytes t.tender.auth)

/-- The present-field bits of a report entry. -/
def Report.present (r : Report) : Nat :=
  bit r.lane.isSome + 2 * bit r.tag.isSome + 4 * bit r.screening.isSome + 8 * bit r.ostate.isSome + 16 * bit r.port.isSome
    + 32 * bit (!r.seats.isEmpty) + 64 * bit r.voucher.isSome + 128 * bit (!r.tenders.isEmpty)

/-- Bytes 1 to 127 of a report entry with the dropped count it carries (R193). -/
def Report.bytes (dropped : Nat) (r : Report) : List Byte :=
  [Byte.ofNat r.kind.number, Byte.ofNat (r.qual.number r.kind), Byte.ofNat r.present,
    Byte.ofNat ((r.lane.map Fin.val).getD 0), Byte.ofNat ((r.port.map Fin.val).getD 0)]
  ++ leBytes 2 (r.tag.getD 0) ++ leBytes 2 (r.screening.getD 0) ++ leBytes 2 dropped
  ++ [Byte.ofNat ((r.ostate.map OrderState.number).getD 0), Byte.ofNat (r.seats.take 10).length,
      Byte.ofNat (r.figures.take 3).length, Byte.ofNat (r.tenders.take 2).length]
  ++ padTo 20 (seatsBytes (r.seats.take 10))
  ++ padTo 4 ((r.voucher.map vcodeRecordBytes).getD [])
  ++ padTo 12 ((r.figures.take 3).flatMap (leBytes 4))
  ++ padTo 40 ((r.tenders.take 2).flatMap TenderSummary.bytes)
  ++ List.replicate 36 0

end Sys2Proof.Machine
end

