-- ==== Sys2Proof/Machine/Operands.lean ====
section
/-! DEFINITION. Operand forms: the records the part reads (descriptors, request blocks, order words), and what it takes
from the foyer link, the terminal lines and the printer lines, with their form checks. -/

namespace Sys2Proof.Machine

/-- Bit 0 of a flag byte. -/
def flagBit (b : Byte) : Bool := b.toNat % 2 = 1

/-- Bit 0 of the flag byte at an offset. -/
def flagAt (bs : List Byte) (off : Nat) : Bool := leField bs off 1 % 2 = 1

/-! ### Ranges of seats and codes -/

/-- Row index 0–25 and seat number 1–40 (R32, R44, R81, R82). -/
def seatInRange (r : SeatRef) : Bool := r.row ≤ 25 && 1 ≤ r.num && r.num ≤ 40

/-- No seat is named twice. -/
def seatsDistinct : List SeatRef → Bool
  | [] => true
  | r :: rs => !rs.contains r && seatsDistinct rs

/-- A seat list of 1–16 distinct references in range (R32). -/
def seatListOk (rs : List SeatRef) : Bool := 1 ≤ rs.length && rs.length ≤ 16 && seatsDistinct rs && rs.all seatInRange

/-- A screening code 1–65535. -/
def codeOk (n : Nat) : Bool := 1 ≤ n && n ≤ 65535

/-- A station number 1–250. -/
def stationOk (n : Nat) : Bool := 1 ≤ n && n ≤ 250

/-- A voucher code: station 1–250, serial 1–1,048,575. -/
def vcodeOk (v : VCode) : Bool := stationOk v.station && 1 ≤ v.serial && v.serial ≤ Config.lastVoucherSerial

/-! ### Notices received (R32, R191) -/

/-- The ranges that the form check applies to a notice's fields. -/
def Notice.ok : Notice → Bool
  | .hold code life seats => codeOk code && 1 ≤ life && life ≤ 3600 && seatListOk seats
  | .renew code life seats => codeOk code && 1 ≤ life && life ≤ 3600 && seatListOk seats
  | .release code seats => codeOk code && seatListOk seats
  | .object code claimant seats => codeOk code && stationOk claimant && seatListOk seats
  | .sale code seats => codeOk code && seatListOk seats
  | .censusCall code => codeOk code
  | .censusReply code .held owner remaining seats => codeOk code && stationOk owner && remaining ≤ 3600 && seatListOk seats
  | .censusReply code .sold owner _ seats => codeOk code && stationOk owner && seatListOk seats
  | .verify v => vcodeOk v
  | .redeem v => vcodeOk v
  | .voucherState v item _ => vcodeOk v && item ≤ 65535

/-- Seats in two bytes each. -/
def readSeats : List Byte → List SeatRef
  | a :: b :: rest => ⟨a.toNat, b.toNat⟩ :: readSeats rest
  | _ => []

/-- A seat list whose length agrees with its count byte. -/
def readSeatList : List Byte → Option (List SeatRef)
  | n :: rest => if rest.length = 2 * n.toNat then some (readSeats rest) else none
  | [] => none

/-- A voucher code in four bytes of a notice. -/
def readVCode (bs : List Byte) : VCode := ⟨beField bs 0 1, beField bs 1 3⟩

/-- The answer that a byte of a VOUCHER-STATE names. -/
def readAnswer : Nat → Option Answer
  | 1 => some .valid
  | 2 => some .unknown
  | 3 => some .redeemed
  | 4 => some .expired
  | 5 => some .redeemedNow
  | _ => none

/-- The section that a byte of a CENSUS-REPLY names. -/
def readSection : Nat → Option Section
  | 0 => some .held
  | 1 => some .sold
  | _ => none

/-- A notice's body by its kind, when its length is that of the kind and of its seat-list count. -/
def readBody (kind : Nat) (bs : List Byte) : Option Notice :=
  match kind with
  | 1 => if bs.length < 5 then none else (readSeatList (bs.drop 4)).map (.hold (beField bs 0 2) (beField bs 2 2))
  | 2 => if bs.length < 5 then none else (readSeatList (bs.drop 4)).map (.renew (beField bs 0 2) (beField bs 2 2))
  | 3 => (readSeatList (bs.drop 2)).map (.release (beField bs 0 2))
  | 4 => (readSeatList (bs.drop 3)).map (.object (beField bs 0 2) (beField bs 2 1))
  | 5 => (readSeatList (bs.drop 2)).map (.sale (beField bs 0 2))
  | 6 => if bs.length = 2 then some (.censusCall (beField bs 0 2)) else none
  | 7 =>
    match readSection (beField bs 2 1), readSeatList (bs.drop 6) with
    | some .held, some seats => some (.censusReply (beField bs 0 2) .held (beField bs 3 1) (beField bs 4 2) seats)
    | some .sold, some seats => some (.censusReply (beField bs 0 2) .sold (beField bs 3 1) 0 seats)
    | _, _ => none
  | 8 => if bs.length = 4 then some (.verify (readVCode bs)) else none
  | 9 => if bs.length = 4 then some (.redeem (readVCode bs)) else none
  | 10 =>
    if bs.length = 7 then (readAnswer (beField bs 6 1)).map (.voucherState (readVCode bs) (beField bs 4 2)) else none
  | _ => none

/-- What the bytes of a reception are, by the checks of R32 that need no state: a runt, a notice that fails its CRC, or
a sender with the notice that its remaining bytes form, if they form one. -/
inductive Reception where
  | runt
  | badCrc
  | notice (sender : Nat) (body : Option Notice)
deriving DecidableEq, Repr

/-- The notice that the bytes form, under the length checks of R191 and the ranges of R32. -/
def readNotice (bs : List Byte) : Option Notice :=
  if bs.length = 6 + beField bs 2 1 then
    match readBody (beField bs 0 1) (slice bs 4 (beField bs 2 1)) with
    | some n => if n.ok then some n else none
    | none => none
  else none

/-- The reception of a run of bytes from the pair. The check field is the last two bytes received, and the check is computed
over all the bytes before them. Where the length received differs from 6 plus the body length, the layout of R191 would place
the field at 4 plus the body length instead, and R191 says only that such a notice fails the form check of R32: that it is
first tried against its last two bytes, which decides between a bad CRC and the sender and form checks (with R33 between
them), is the model's choice (DESIGN CHOICE, notes/assumptions/59.md). -/
def readReception (bs : List Byte) : Reception :=
  if bs.length < 8 then .runt
  else if crcBytes (bs.take (bs.length - 2)) = bs.drop (bs.length - 2) then .notice (beField bs 1 1) (readNotice bs)
  else .badCrc

/-! ### Terminal and printer frames received (R108, R146) -/

/-- Where the reception of frames stands. `need` bytes are still to come; `acc` holds the bytes since the start byte,
last first. -/
inductive Scan where
  | hunt
  | length
  | lengthLow (high : Byte)
  | body (need : Nat) (acc : List Byte)
deriving DecidableEq, Repr

/-- The payload (type and body) of a whole frame run of length bytes, payload and CRC, when its CRC agrees. -/
def framePayload (lengthBytes : Nat) (run : List Byte) : Option (List Byte) :=
  let covered := run.take (run.length - 2)
  if crcBytes covered = run.drop (run.length - 2) then some (covered.drop lengthBytes) else none

/-- The payloads of the frames with a good CRC in a run of received bytes. `wide` is the printer line's two-byte length.
A framing error, a bad length or a bad CRC discards the frame, and the hunt for a start byte resumes. -/
def scanFrames (wide : Bool) : Scan → List RxByte → List (List Byte)
  | _, [] => []
  | _, none :: rest => scanFrames wide .hunt rest
  | .hunt, some b :: rest => scanFrames wide (if b = 0xA5 then .length else .hunt) rest
  | .length, some b :: rest =>
    if wide then scanFrames wide (.lengthLow b) rest
    else scanFrames wide (if 1 ≤ b.toNat ∧ b.toNat ≤ 64 then .body (b.toNat + 2) [b] else .hunt) rest
  | .lengthLow h, some b :: rest =>
    let n := h.toNat * 256 + b.toNat
    scanFrames wide (if 1 ≤ n ∧ n ≤ 1024 then .body (n + 2) [b, h] else .hunt) rest
  | .body need acc, some b :: rest =>
    if need ≤ 1 then
      match framePayload (if wide then 2 else 1) (b :: acc).reverse with
      | some p => p :: scanFrames wide .hunt rest
      | none => scanFrames wide .hunt rest
    else scanFrames wide (.body (need - 1) (b :: acc)) rest

/-- A message from a terminal. -/
inductive TerminalRx where
  | result (tag index : Nat) (outcome : ResultOutcome) (approved : Nat) (auth : BitVec 48)
  | captured (tag index : Nat)
  | voided (tag index : Nat)
deriving DecidableEq, Repr

/-- The outcome that a byte of a RESULT names. -/
def readOutcome : Nat → Option ResultOutcome
  | 1 => some .approved
  | 2 => some .partialAmount
  | 3 => some .declined
  | 4 => some .customerCancel
  | 5 => some .terminalError
  | _ => none

/-- The ranges of a terminal message's fields (The terminal line). -/
def TerminalRx.ok : TerminalRx → Bool
  | .result tag index _ approved _ => codeOk tag && 1 ≤ index && index ≤ 2 && approved ≤ Config.maxTotal
  | .captured tag index => codeOk tag && 1 ≤ index && index ≤ 2
  | .voided tag index => codeOk tag && 1 ≤ index && index ≤ 2

/-- The message that a frame's payload carries, when its type, length and fields are right (R108). -/
def readTerminal (p : List Byte) : Option TerminalRx :=
  let m : Option TerminalRx :=
    match leField p 0 1 with
    | 0x81 =>
      if p.length = 15 then
        (readOutcome (leField p 4 1)).map fun o =>
          .result (beField p 1 2) (beField p 3 1) o (beField p 5 4) (BitVec.ofNat 48 (beField p 9 6))
      else none
    | 0x82 => if p.length = 4 then some (.captured (beField p 1 2) (beField p 3 1)) else none
    | 0x83 => if p.length = 4 then some (.voided (beField p 1 2) (beField p 3 1)) else none
    | _ => none
  m.filter TerminalRx.ok

/-- A message from a printer. -/
inductive PrinterRx where
  | present
  | done (tag : ItemTag)
  | fault (tag : Option ItemTag) (cause : Nat)
deriving DecidableEq, Repr

/-- An item tag in three bytes. -/
def readItemTag (bs : List Byte) : ItemTag := ⟨leField bs 0 1, leField bs 1 1, leField bs 2 1⟩

/-- The message that a frame's payload carries, when its type and length are right (R146). -/
def readPrinter (p : List Byte) : Option PrinterRx :=
  match leField p 0 1 with
  | 0x81 => if p.length = 1 then some .present else none
  | 0x82 => if p.length = 4 then some (.done (readItemTag (p.drop 1))) else none
  | 0x83 =>
    if p.length = 5 then some (.fault (some (readItemTag (p.drop 1))) (leField p 4 1))
    else if p.length = 2 then some (.fault none (leField p 1 1))
    else none
  | _ => none

/-! ### The request descriptor -/

/-- A request descriptor as it is read. -/
structure Descriptor where
  ownedByK4 : Bool
  kind : Nat
  lane : Nat
  blockLength : Nat
  blockAddr : Nat
  statusAddr : Nat
  statusLen : Nat
deriving DecidableEq, Repr

/-- The bytes of a descriptor. The status area length is in units of 16 bytes, 0 taken as 1. -/
def readDescriptor (bs : List Byte) : Descriptor :=
  { ownedByK4 := leField bs 0 1 = 1
    kind := leField bs 1 1
    lane := leField bs 2 1
    blockLength := leField bs 4 4
    blockAddr := leField bs 8 8
    statusAddr := leField bs 16 8
    statusLen := 16 * (if leField bs 24 1 = 0 then 1 else leField bs 24 1) }

/-- The request kind that a descriptor names. -/
def readKind : Nat → Option RequestKind
  | 1 => some .setup
  | 2 => some .loadScreening
  | 3 => some .unloadScreening
  | 4 => some .loadCatalog
  | 5 => some .order
  | 6 => some .inquire
  | 7 => some .abort
  | 8 => some .resume
  | _ => none

/-! ### The SETUP block (R180) -/

/-- A field that has a default: its all-ones marker stands for the default value. -/
def withDefault (marker value v : Nat) : Nat := if v = marker then value else v

/-- A value within an inclusive range. -/
def within (lo hi v : Nat) : Bool := lo ≤ v && v ≤ hi

/-- The policy that a byte of the SETUP block names. -/
def readPolicy (n : Nat) : Policy := if n = 1 then .strict else .lenient

/-- The setup record of a SETUP block, when the block passes check 2 of R180. -/
def readSetup (bs : List Byte) : Option SetupRecord :=
  let r : SetupRecord :=
    { station := leField bs 0 1
      laneCount := leField bs 1 1
      printerCount := leField bs 2 1
      policy := readPolicy (leField bs 3 1)
      contestWindow := withDefault 0xFFFF 60 (leField bs 4 2)
      holdLifetime := withDefault 0xFFFF 180 (leField bs 6 2)
      censusWindow := withDefault 0xFFFF 500 (leField bs 8 2)
      attendanceTimeout := withDefault 0xFFFF 120 (leField bs 10 2)
      authTimeout := withDefault 0xFFFF 90 (leField bs 12 2)
      captureTimeout := withDefault 0xFF 10 (leField bs 14 1)
      itemTimeout := withDefault 0xFF 8 (leField bs 15 1)
      urgentWindow := withDefault 0xFF 10 (leField bs 16 1)
      voucherGrace := leField bs 17 1
      discountCap := leField bs 18 2
      ticketTax := leField bs 20 2
      concessionTax := leField bs 22 2
      firstTicket := leField bs 24 4
      firstVoucher := leField bs 28 4
      lineRate := leField bs 32 4
      mitCount := leField bs 36 1
      mitTime := leField bs 37 1
      requestBase := leField bs 40 8
      requestLength := leField bs 48 2
      reportLength := leField bs 50 2
      reportBase := leField bs 52 8
      clockStart := leField bs 60 4 }
  let ok :=
    bs.length == 64 && within 1 250 r.station && within 1 4 r.laneCount && within 1 2 r.printerCount
      && within 1 2 (leField bs 3 1) && within 20 500 r.contestWindow && within 30 600 r.holdLifetime
      && within 200 2000 r.censusWindow && within 30 600 r.attendanceTimeout && within 20 180 r.authTimeout
      && within 5 30 r.captureTimeout && within 2 20 r.itemTimeout && within 0 30 r.urgentWindow
      && within 0 120 r.voucherGrace && within 0 5000 r.ticketTax && within 0 5000 r.concessionTax
      && within 1 Config.lastTicketSerial r.firstTicket && within 1 Config.lastVoucherSerial r.firstVoucher
      && [9600, 19200, 38400, 115200].contains r.lineRate && within 1 16 r.mitCount && within 0 10 r.mitTime
      && r.requestBase != 0 && r.requestBase % 16 == 0 && within 4 256 r.requestLength
      && r.reportBase != 0 && r.reportBase % 16 == 0 && within 4 256 r.reportLength
  if ok then some r else none

/-! ### The LOAD-SCREENING, UNLOAD-SCREENING and LOAD-CATALOG blocks (R3, R6, R129) -/

/-- `n` seats of a row: tier, then the flag byte whose bit 0 is the blocked flag. -/
def readRowSeats : Nat → List Byte → List PlanSeat
  | 0, _ => []
  | n + 1, bs => ⟨leField bs 0 1, flagAt bs 1⟩ :: readRowSeats n (bs.drop 2)

/-- `n` rows of a plan, when the bytes are used up exactly. -/
def readRows : Nat → List Byte → Option (List (List PlanSeat))
  | 0, bs => if bs.isEmpty then some [] else none
  | _ + 1, [] => none
  | n + 1, c :: bs =>
    if bs.length < 2 * c.toNat then none
    else (readRows n (bs.drop (2 * c.toNat))).map (readRowSeats c.toNat bs :: ·)

/-- The seat records of one row: each seat's reference and its state at load, from seat number `num` on (R4). -/
def rowSeats (row : Nat) : Nat → List PlanSeat → List (SeatRef × SeatState)
  | _, [] => []
  | num, p :: ps => (⟨row, num⟩, if p.blocked then .blocked else .free) :: rowSeats row (num + 1) ps

/-- The seat records of a plan in plan order, from row index `row` on (R4). -/
def planSeats : Nat → List (List PlanSeat) → List (SeatRef × SeatState)
  | _, [] => []
  | row, r :: rs => rowSeats row 1 r ++ planSeats (row + 1) rs

/-- `n` ticket-type entries of four bytes. -/
def readTypes : Nat → List Byte → List TicketType
  | 0, _ => []
  | n + 1, bs => ⟨leField bs 0 2, flagAt bs 2⟩ :: readTypes n (bs.drop 4)

/-- `n` little-endian words of two bytes. -/
def readWords : Nat → List Byte → List Nat
  | 0, _ => []
  | n + 1, bs => leField bs 0 2 :: readWords n (bs.drop 2)

/-- The screening of a LOAD-SCREENING block as it is loaded by `ref`, when the block passes check 1 of R3. -/
def readScreening (ref : RequestRef) (bs : List Byte) : Option Screening :=
  if bs.length < 46 then none
  else
    match readRows (leField bs 44 1) (bs.drop 46) with
    | none => none
    | some plan =>
      let x : Screening :=
        { code := leField bs 0 2
          start := leField bs 4 4
          lateOffset := leField bs 2 2
          surcharge := leField bs 8 2
          band := leField bs 10 2
          tiers := readWords 4 (bs.drop 12)
          types := readTypes 6 (bs.drop 20)
          plan := plan
          seats := planSeats 0 plan
          sync := .syncing
          phase := .idle
          censusTimer := none
          request := some ref }
      let ok :=
        codeOk x.code && x.lateOffset ≤ 3600 && x.surcharge ≤ 5000 && within 500 2000 x.band
          && x.types.all (fun t => t.factor ≤ 2000) && within 1 26 plan.length
          && plan.all (fun r => within 1 40 r.length) && x.seats.length ≤ Config.maxSeats
          && plan.all (fun r => r.all fun p => p.tier ≤ 3)
      if ok then some x else none

/-- The code of an UNLOAD-SCREENING block, when the block passes check 1 of R6. -/
def readUnload (bs : List Byte) : Option Nat :=
  if bs.length = 2 ∧ codeOk (leField bs 0 2) then some (leField bs 0 2) else none

/-- `n` catalog items of ten bytes, with zero counts. -/
def readItems : Nat → List Byte → List CatalogItem
  | 0, _ => []
  | n + 1, bs =>
    { code := leField bs 0 2, price := leField bs 2 2, comboDiscount := leField bs 4 2, allotment := leField bs 6 2
      combo := flagAt bs 8, issued := 0, reserved := 0 } :: readItems n (bs.drop 10)

/-- No item code appears twice. -/
def codesDistinct : List CatalogItem → Bool
  | [] => true
  | i :: is => !(is.map CatalogItem.code).contains i.code && codesDistinct is

/-- The catalog expiry and items of a LOAD-CATALOG block, when the block passes check 1 of R129. -/
def readCatalog (bs : List Byte) : Option (Nat × List CatalogItem) :=
  let n := leField bs 4 1
  if bs.length < 8 ∨ bs.length ≠ 8 + 10 * n then none
  else
    let items := readItems n (bs.drop 8)
    if n ≤ 32 && items.all (fun i => codeOk i.code && i.allotment ≤ 9999) && codesDistinct items then
      some (leField bs 0 4, items)
    else none

/-! ### The order block (R71) -/

/-- `n` PICK entries of three bytes. -/
def readEntries : Nat → List Byte → List ClaimSeat
  | 0, _ => []
  | n + 1, bs => ⟨⟨leField bs 0 1, leField bs 1 1⟩, leField bs 2 1⟩ :: readEntries n (bs.drop 3)

/-- The action numbers of the order-block table. -/
def actionKnown (a : Nat) : Bool := 1 ≤ a && a ≤ 10

/-- An order word of action `a` with its data, when the data's size is the one the action requires (fault 5 of R71). -/
def readWord (a : Nat) (data : List Byte) : Option OrderWord :=
  match a with
  | 1 =>
    if data.length = 3 + 3 * leField data 2 1 ∧ 3 ≤ data.length then
      some (.pick (leField data 0 2) (readEntries (leField data 2 1) (data.drop 3)))
    else none
  | 2 =>
    if data.length = 1 + 2 * leField data 0 1 ∧ 1 ≤ data.length then some (.drop (readSeats (data.drop 1))) else none
  | 3 => if data.length = 3 then some (.setType ⟨leField data 0 1, leField data 1 1⟩ (leField data 2 1)) else none
  | 4 => if data.length = 3 then some (.addVoucher (leField data 0 2) (leField data 2 1)) else none
  | 5 => if data.length = 3 then some (.removeVoucher (leField data 0 2) (leField data 2 1)) else none
  | 6 => if data.isEmpty then some .quote else none
  | 7 =>
    if data.isEmpty then some (.pay none) else if data.length = 4 then some (.pay (some (leField data 0 4))) else none
  | 8 => if data.isEmpty then some .print else none
  | 9 => if data.isEmpty then some .finish else none
  | 10 => if data.isEmpty then some .cancel else none
  | _ => none

/-- What an order block is: malformed at a word (or the header) with the fault's qualifier, or a tag and its words. -/
inductive BlockParse where
  | malformed (offset : Option Nat) (code : Code)
  | block (tag : Nat) (words : List OrderWord)
deriving DecidableEq, Repr

/-- The words of a block: `left` words remain, the next has index `i`. A fault answers its word's index and qualifier. -/
def readOrderWords : Nat → Nat → List Byte → Except (Nat × Code) (List OrderWord)
  | 0, _, _ => .ok []
  | left + 1, i, a :: f :: n :: _ :: rest =>
    if !actionKnown a.toNat then .error (i, .formatAction)
    else if flagBit f == (left == 0) then .error (i, .formatChain)
    else if rest.length < n.toNat ∨ (left = 0 ∧ rest.length ≠ n.toNat) then .error (i, .formatLength)
    else
      match readWord a.toNat (rest.take n.toNat) with
      | none => .error (i, .formatDataSize)
      | some w =>
        match readOrderWords left (i + 1) (rest.drop n.toNat) with
        | .ok ws => .ok (w :: ws)
        | .error e => .error e
  | _ + 1, i, _ => .error (i, .formatLength)

/-- An order block: header (tag 2, word count 1, unused 1), then its words in chain order. -/
def readOrderBlock (bs : List Byte) : BlockParse :=
  if bs.length < 4 ∨ leField bs 2 1 < 1 ∨ 16 < leField bs 2 1 then .malformed none .formatHeader
  else
    match readOrderWords (leField bs 2 1) 0 (bs.drop 4) with
    | .ok ws => .block (leField bs 0 2) ws
    | .error (i, c) => .malformed (some i) c

end Sys2Proof.Machine
end

