-- ==== Sys2Proof/Machine/Flags.lean ====
section
/-! DEFINITION. The interrupt causes, their mask and their mitigation (R167, R176, R177). -/

namespace Sys2Proof.Machine

/-- The interrupt is asserted while CAUSE holds a bit whose MASK bit is clear (R167). -/
def interruptOf (cause mask : Causes) : Bool :=
  (cause.requestDone && !mask.requestDone) || (cause.report && !mask.report) || (cause.ringStall && !mask.ringStall)

/-- The register value of three cause or mask bits (R167). -/
def Causes.value (c : Causes) : Nat := bit c.requestDone + 2 * bit c.report + 4 * bit c.ringStall

/-- The three bits that a written value stores (R167). -/
def Causes.ofValue (v : BitVec 32) : Causes := ⟨v.getLsbD 0, v.getLsbD 1, v.getLsbD 2⟩

/-- A write to CAUSE clears each bit written as 1 (R167). -/
def Causes.acknowledge (v : BitVec 32) (c : Causes) : Causes :=
  ⟨c.requestDone && !v.getLsbD 0, c.report && !v.getLsbD 1, c.ringStall && !v.getLsbD 2⟩

/-- The counter once its cause has been set: no pending completion and the timer stopped (R177). -/
def Mitigation.idle : Mitigation := ⟨0, none⟩

/-- One completion under a mitigation count and time: the counter after it, and whether its cause is set (R177). -/
def Mitigation.complete (count time : Nat) (m : Mitigation) : Mitigation × Bool :=
  if count ≤ m.pending + 1 ∨ time = 0 then (Mitigation.idle, true)
  else (⟨m.pending + 1, if m.pending = 0 then some time else m.timer⟩, false)

/-- A request handed back, counted for REQUEST-DONE (R171, R177). -/
def Ring.countRequest (count time : Nat) (r : Ring) : Ring :=
  let m := r.mitRequest.complete count time
  { r with
    mitRequest := m.1
    cause := { r.cause with requestDone := r.cause.requestDone || m.2 } }

/-- A report written, counted for REPORT (R173, R177). -/
def Ring.countReport (count time : Nat) (r : Ring) : Ring :=
  let m := r.mitReport.complete count time
  { r with
    mitReport := m.1
    cause := { r.cause with report := r.cause.report || m.2 } }

/-- The mitigation timer of a cause runs out: the cause is set and the counter starts anew (R177). -/
def Ring.mitigationEnd (c : MitCause) (r : Ring) : Ring :=
  match c with
  | .requestDone =>
    if r.mitRequest.timer.isSome then
      { r with mitRequest := Mitigation.idle, cause := { r.cause with requestDone := true } }
    else r
  | .report =>
    if r.mitReport.timer.isSome then { r with mitReport := Mitigation.idle, cause := { r.cause with report := true } }
    else r

end Sys2Proof.Machine
end

