-- ==== Sys2Proof/Machine/Ops.lean ====
section
/-! DEFINITION. The shared operations over the containers, the processor's memory, the rings and reports, the seat map,
and the requests and blocks in progress. -/

namespace Sys2Proof.Machine

/-! ### Lanes and ports -/

/-- The value of a lane. -/
def PerLane.get {α : Type} (p : PerLane α) (l : LaneIx) : α :=
  match l with
  | 0 => p.l0
  | 1 => p.l1
  | 2 => p.l2
  | 3 => p.l3

/-- The values with that of one lane replaced. -/
def PerLane.set {α : Type} (p : PerLane α) (l : LaneIx) (x : α) : PerLane α :=
  match l with
  | 0 => { p with l0 := x }
  | 1 => { p with l1 := x }
  | 2 => { p with l2 := x }
  | 3 => { p with l3 := x }

/-- The value of a port. -/
def PerPort.get {α : Type} (p : PerPort α) (i : PortIx) : α :=
  match i with
  | 0 => p.p0
  | 1 => p.p1

/-- The values with that of one port replaced. -/
def PerPort.set {α : Type} (p : PerPort α) (i : PortIx) (x : α) : PerPort α :=
  match i with
  | 0 => { p with p0 := x }
  | 1 => { p with p1 := x }

/-- The lanes in ascending order. -/
def laneOrder : List LaneIx := [0, 1, 2, 3]

/-- The lane's part of the state. -/
def State.lane (s : State) (l : LaneIx) : Lane := s.lanes.get l

/-- The state with a lane's part replaced. -/
def State.setLane (s : State) (l : LaneIx) (x : Lane) : State := { s with lanes := s.lanes.set l x }

/-- The state with a lane's part changed. -/
def State.modLane (s : State) (l : LaneIx) (f : Lane → Lane) : State := s.setLane l (f (s.lane l))

/-- The state with a lane's order record changed. -/
def State.modOrder (s : State) (l : LaneIx) (f : Order → Order) : State :=
  s.modLane l fun x => { x with order := f x.order }

/-- The state with a lane's Tender Controller changed. -/
def State.modTerm (s : State) (l : LaneIx) (f : Terminal → Terminal) : State :=
  s.modLane l fun x => { x with term := f x.term }

/-- The state with the Link Controller changed. -/
def State.modLink (s : State) (f : Link → Link) : State := { s with link := f s.link }

/-- The state with the Ring Interface changed. -/
def State.modRing (s : State) (f : Ring → Ring) : State := { s with io := { s.io with ring := f s.io.ring } }

/-- The printer of a port. -/
def State.printer (s : State) (p : PortIx) : Printer := s.printing.printers.get p

/-- The state with a printer record changed. -/
def State.modPrinter (s : State) (p : PortIx) (f : Printer → Printer) : State :=
  { s with printing := { s.printing with printers := s.printing.printers.set p (f (s.printing.printers.get p)) } }

/-! ### The setup record -/

/-- The fields read before setup has been taken: none of them is used before setup, but for the mitigation count of 1
and the mitigation time of 0 (Interrupt causes and mitigation). -/
def SetupRecord.unset : SetupRecord :=
  ⟨0, 0, 0, .lenient, 0, 0, 0, 0, 0, 0, 0, 0, 0, 0, 0, 0, 0, 0, 0, 1, 0, 0, 0, 0, 0, 0⟩

/-- The setup record that the blocks read. -/
def State.cfg (s : State) : SetupRecord := s.house.record.getD SetupRecord.unset

/-- The drain latch is clear (10_setup_house_clock_and_drain.md). -/
def State.drainClear (s : State) : Bool := s.house.drain = .clear

/-- The lane lies below the lane count of the setup record. -/
def State.laneInUse (s : State) (l : LaneIx) : Bool := l.val < s.cfg.laneCount

/-! ### The processor's memory -/

/-- The byte at an address of a list of cells; an unlisted address reads 0 (DESIGN CHOICE, notes/assumptions/2.md). -/
def readCell (a : Nat) : List Host.Cell → Byte
  | [] => 0
  | c :: cs => if c.1 = a then c.2 else readCell a cs

/-- The cells with one byte written, in rising address order and with no zero byte listed. -/
def writeCell (a : Nat) (b : Byte) : List Host.Cell → List Host.Cell
  | [] => if b = 0 then [] else [(a, b)]
  | c :: cs =>
    if a < c.1 then (if b = 0 then c :: cs else (a, b) :: c :: cs)
    else if a = c.1 then (if b = 0 then cs else (a, b) :: cs)
    else c :: writeCell a b cs

/-- The address `a` of a space of 2^64 bytes (DESIGN CHOICE, notes/assumptions/4.md). -/
def wrapAddr (a : Nat) : Nat := a % Config.addressModulus

/-- The byte at an address. -/
def HostMem.get (m : HostMem) (a : Nat) : Byte := readCell (wrapAddr a) m.cells

/-- The memory with one byte written. -/
def HostMem.put (m : HostMem) (a : Nat) (b : Byte) : HostMem := { m with cells := writeCell (wrapAddr a) b m.cells }

/-- The memory with a run of bytes written from `a` on. -/
def HostMem.write (m : HostMem) : Nat → List Byte → HostMem
  | _, [] => m
  | a, b :: bs => (m.put a b).write (a + 1) bs

/-- `n` bytes from `a` on, or none when the bus answers one of their reads with an error. -/
def HostMem.read (m : HostMem) : Nat → Nat → Option (List Byte)
  | _, 0 => some []
  | a, n + 1 => if m.failing.contains (wrapAddr a) then none else (m.read (a + 1) n).map (m.get a :: ·)

/-- The addresses of the cells rise strictly from above `low`. -/
def cellsRise : Option Nat → List Host.Cell → Bool
  | _, [] => true
  | low, c :: cs => (match low with | none => true | some x => x < c.1) && cellsRise (some c.1) cs

/-- The memory is in its canonical form: addresses strictly rising, and no cell that reads as an unlisted one. -/
def HostMem.wf (m : HostMem) : Bool := cellsRise none m.cells && m.cells.all fun c => c.2 != 0

/-- What the processor or its bus does to the memory. -/
def HostMem.apply (m : HostMem) : HostOp → HostMem
  | .store a bs => m.write a bs
  | .failRead a => if m.failing.contains (wrapAddr a) then m else { m with failing := wrapAddr a :: m.failing }
  | .healRead a => { m with failing := m.failing.filter (· != wrapAddr a) }

/-- The state once the processor's stores have reached its memory. -/
def State.hostOps (s : State) (ops : List HostOp) : State :=
  { s with io := { s.io with host := ops.foldl HostMem.apply s.io.host } }

/-! ### Requests (R171) -/

/-- A request completes: as much of its status block as its area takes is written, then its owner flag is written as
PROCESSOR; its mark is cleared, and the completion is counted under the mitigation count and time given (R171, R192). -/
def completeIo (count time : Nat) (ref : RequestRef) (status : List Byte) (io : Io) : Io :=
  { host := (io.host.write ref.statusAddr (status.take ref.statusLen)).put ref.descAddr 0
    ring := ({ io.ring with marks := io.ring.marks.erase ref.index }).countRequest count time }

/-- A request completes with a status block. A descriptor of the boot ring counts with the count and time taken before
setup (DEDUCED, notes/assumptions/23.md). -/
def State.complete (s : State) (ref : RequestRef) (status : List Byte) : State :=
  let c := if ref.ring = .boot then SetupRecord.unset else s.cfg
  { s with io := completeIo c.mitCount c.mitTime ref status s.io }

/-- The oldest request taken and not yet passed to its owner, when it is of this kind (R170). -/
def State.nextTaken (s : State) (k : RequestKind) : Option TakenRequest :=
  match s.io.ring.taken with
  | t :: _ => if t.kind = k then some t else none
  | [] => none

/-- The state once the oldest taken request has been passed to its owner. -/
def State.popTaken (s : State) : State := s.modRing fun r => { r with taken := r.taken.tail }

/-- A request kind's step: the oldest taken request of the kind goes to its owner, after the setup check of R179. With
no such request nothing happens (notes/assumptions/1.md). -/
def State.serve (s : State) (k : RequestKind) (owner : TakenRequest → State → State) : State :=
  match s.nextTaken k with
  | none => s
  | some t =>
    if k ≠ .setup ∧ s.house.lock = false then s.popTaken.complete t.ref (Status.refusal .setupNotDone).bytes
    else owner t s.popTaken

/-! ### Reports (R173–R175) -/

/-- The owner flag of a report descriptor names the K4; a bus error is as if it named the processor (R173, R193). -/
def reportFree (addr : Nat) (m : HostMem) : Bool := m.read addr 1 == some [1]

/-- The address of the report descriptor at the report cursor. -/
def reportAddr (c : SetupRecord) (r : Ring) : Nat := c.reportBase + Config.reportSize * r.reportCursor

/-- A report is written at the report cursor: bytes 1 to 127, then the owner flag as 00h (R173, R193). -/
def writeReport (c : SetupRecord) (rep : Report) (io : Io) : Io :=
  let addr := reportAddr c io.ring
  { host := (io.host.write (addr + 1) (rep.bytes io.ring.dropped)).put addr 0
    ring :=
      ({ io.ring with
          dropped := 0
          reportCursor := (io.ring.reportCursor + 1) % c.reportLength }).countReport c.mitCount c.mitTime }

/-- A report joins the waiting queue and sets RING-STALL; a full queue drops its oldest report (R174, R175). -/
def joinWaiting (rep : Report) (io : Io) : Io :=
  let full : Bool := Config.waitingSize ≤ io.ring.waiting.length
  { io with
    ring :=
      { io.ring with
        waiting := (if full then io.ring.waiting.tail else io.ring.waiting) ++ [rep]
        dropped := if full then min Config.maxDropped (io.ring.dropped + 1) else io.ring.dropped
        cause := { io.ring.cause with ringStall := true } } }

/-- A report is raised: written at once when none waits and the descriptor at the cursor is the K4's (R173). -/
def raiseIo (record : Option SetupRecord) (rep : Report) (io : Io) : Io :=
  match record with
  | none => joinWaiting rep io
  | some c =>
    if io.ring.waiting.isEmpty && reportFree (reportAddr c io.ring) io.host then writeReport c rep io
    else joinWaiting rep io

/-- A block raises a report. -/
def State.raise (s : State) (rep : Report) : State := { s with io := raiseIo s.house.record rep s.io }

/-- The waiting reports are written while the descriptor at the cursor is the K4's (R174), at most `n` of them. -/
def flushIo (c : SetupRecord) : Nat → Io → Io
  | 0, io => io
  | n + 1, io =>
    match io.ring.waiting with
    | [] => io
    | rep :: rest =>
      if reportFree (reportAddr c io.ring) io.host then
        flushIo c n (writeReport c rep { io with ring := { io.ring with waiting := rest } })
      else io

/-- The report ring is looked at again (R174); before setup nothing is read. -/
def State.flushReports (s : State) : State :=
  match s.house.record with
  | none => s
  | some c => { s with io := flushIo c s.io.ring.waiting.length s.io }

/-- A report of a kind and qualifier with no other field. -/
def Report.of (k : ReportKind) (q : ReportQual) : Report := ⟨k, q, none, none, none, none, none, [], none, [], []⟩

/-! ### Looking at the rings (R168–R170) -/

/-- The ring in use: base, length and cursor (R168). -/
def State.ringInUse (s : State) : RingKind × Option Nat × Nat × Nat :=
  if s.house.lock then (.request, some s.cfg.requestBase, s.cfg.requestLength, s.io.ring.requestCursor)
  else (.boot, s.io.ring.bootBase, Config.bootRingLength, s.io.ring.bootCursor)

/-- A SETUP taken from the boot ring has not completed, so no further boot descriptor is taken (R168). -/
def State.setupInProgress (s : State) : Bool :=
  s.io.ring.taken.any fun t => t.kind = .setup && t.ref.ring = .boot

/-- A descriptor is taken: its mark is set and the cursor of its ring advances (R169). -/
def Ring.take (kind : RingKind) (length index : Nat) (r : Ring) : Ring :=
  let r := { r with marks := index :: r.marks }
  match kind with
  | .boot => { r with bootCursor := (index + 1) % length }
  | .request => { r with requestCursor := (index + 1) % length }

/-- A request is started: the Ring Interface's own checks, the block read, and the setup check for a request of the boot
ring (R168, R170, R179). One that it refuses itself never reaches its owner, and so restarts no attendance timer (R69; DESIGN
CHOICE, notes/assumptions/50.md). -/
def State.startRequest (s : State) (ref : RequestRef) (d : Descriptor) : State :=
  match readKind d.kind with
  | none => s.complete ref (Status.refusal .formatKind).bytes
  | some k =>
    if Config.maxBlockLength < d.blockLength then s.complete ref (Status.refusal .formatBlockLength).bytes
    else
      match s.io.host.read d.blockAddr d.blockLength with
      | none => s.complete ref (Status.refusal .formatBusRead).bytes
      | some block =>
        if ref.ring = .boot ∧ k ≠ .setup then s.complete ref (Status.refusal .setupNotDone).bytes
        else s.modRing fun r => { r with taken := r.taken ++ [⟨ref, k, d.lane, block⟩] }

/-- The Ring Interface looks at the ring in use, taking at most `n` descriptors (R169). -/
def State.look : Nat → State → State
  | 0, s => s
  | n + 1, s =>
    let (kind, base, length, cursor) := s.ringInUse
    match base with
    | none => s
    | some b =>
      if kind = .boot ∧ s.setupInProgress then s
      else
        let addr := b + Config.descriptorSize * cursor
        match s.io.host.read addr Config.descriptorSize with
        | none => s
        | some bytes =>
          let d := readDescriptor bytes
          if !d.ownedByK4 || s.io.ring.marks.contains cursor then s
          else
            State.look n ((s.modRing (Ring.take kind length cursor)).startRequest
              ⟨kind, cursor, addr, d.statusAddr, d.statusLen⟩ d)

/-- A look at the ring in use: at most one pass, since every descriptor taken is marked or handed back
(notes/assumptions/32.md). Where a status area overlaps the ring, a status byte 01h written within the look makes a descriptor
that it has passed the K4's again; R169 does not speak of it, and the look still ends after one pass (DESIGN CHOICE,
notes/assumptions/58.md). -/
def State.lookRing (s : State) : State := s.look s.ringInUse.2.2.1

/-! ### The seat map -/

/-- The loaded screening with a code. -/
def State.screening (s : State) (code : Nat) : Option Screening :=
  s.slots.findSome? fun o => o.filter fun x => x.code = code

/-- The slot number of the loaded screening with a code. -/
def State.slotOf (s : State) (code : Nat) : Nat :=
  s.slots.findIdx fun o => (o.filter fun x => x.code = code).isSome

/-- The state with the loaded screening of a code changed. -/
def State.modScreening (s : State) (code : Nat) (f : Screening → Screening) : State :=
  { s with slots := s.slots.map fun o => o.map fun x => if x.code = code then f x else x }

/-- The state of a seat of the plan (R2); none outside the plan. -/
def Screening.seat (x : Screening) (r : SeatRef) : Option SeatState := x.seats.lookup r

/-- The seat records with each one given by `f`. -/
def Screening.mapSeats (f : SeatRef → SeatState → SeatState) (x : Screening) : Screening :=
  { x with seats := x.seats.map fun p => (p.1, f p.1 p.2) }

/-- The state of a seat of a loaded screening. -/
def State.seat (s : State) (code : Nat) (r : SeatRef) : Option SeatState := (s.screening code).bind fun x => x.seat r

/-- The state with the seats of a list, in a loaded screening, given by `f`. -/
def State.mapSeats (s : State) (code : Nat) (seats : List SeatRef) (f : SeatState → SeatState) : State :=
  s.modScreening code (Screening.mapSeats fun r st => if seats.contains r then f st else st)

/-- One seat reference stands before another in plan order: row index, then seat number. -/
def seatBefore (a b : SeatRef) : Bool := a.row < b.row || (a.row == b.row && a.num ≤ b.num)

/-- A seat reference put into a list in plan order. -/
def insertSeat (r : SeatRef) : List SeatRef → List SeatRef
  | [] => [r]
  | x :: xs => if seatBefore r x then r :: x :: xs else x :: insertSeat r xs

/-- A list of seat references in plan order (R42). -/
def planOrder : List SeatRef → List SeatRef
  | [] => []
  | r :: rs => insertSeat r (planOrder rs)

/-- The seat belongs to the lane as CLAIMING. -/
def SeatState.claimedBy (l : LaneIx) (st : SeatState) : Bool := st = .claiming l

/-- The seat belongs to the lane as HELD. -/
def SeatState.heldBy (l : LaneIx) (st : SeatState) : Bool := st = .held l

/-- The seat, named by a screening's code, is HELD by the lane in this station's map. -/
def State.seatHeld (s : State) (code : Nat) (l : LaneIx) (r : SeatRef) : Bool :=
  match s.seat code r with
  | some st => st.heldBy l
  | none => false

/-- The seat, named by a screening's code, is CLAIMING by the lane in this station's map. -/
def State.seatClaimed (s : State) (code : Nat) (l : LaneIx) (r : SeatRef) : Bool :=
  match s.seat code r with
  | some st => st.claimedBy l
  | none => false

/-! ### Orders -/

/-- The code of the screening an order names. -/
def Order.code (o : Order) : Option Nat := o.screening.map ScreeningRef.code

/-- An order in OPEN, QUOTED, PAYING, SHORT or UNWINDING is not yet committing; the rest are committing or later (R53). -/
def OrderState.committingOrLater : OrderState → Bool
  | .committing | .sold | .printing | .complete | .unresolved => true
  | .empty | .opened | .quoted | .paying | .short | .unwinding => false

/-- The seats of an order's lines that are not marked lost. -/
def Order.liveSeats (o : Order) : List SeatRef := (o.seatLines.filter fun x => !x.lost).map SeatLine.seat

/-- The seats of an order's lines that are marked lost, in line order. -/
def Order.lostSeats (o : Order) : List SeatRef := (o.seatLines.filter fun x => x.lost).map SeatLine.seat

/-- The total that a status block carries: that of a current quote (R76). -/
def Order.currentTotal (o : Order) : Option Nat := if o.quoteCurrent then o.quote.map Quote.total else none

/-- The total of the quote held, current or stale; 0 with none. -/
def Order.quoteTotal (o : Order) : Nat := (o.quote.map Quote.total).getD 0

/-- The renewal seats of a lane's order, in plan order (R57): those of a SALE not yet transmitted, or the HELD seats whose
lines are not marked lost. -/
def State.renewalSeats (s : State) (l : LaneIx) : List SeatRef :=
  match (s.lane l).sale with
  | some p => p.seats
  | none =>
    match (s.lane l).order.code with
    | none => []
    | some code => planOrder ((s.lane l).order.liveSeats.filter (s.seatHeld code l))

/-- A change of lines in EMPTY, OPEN or QUOTED: the quote is stale and the order OPEN. An order that leaves EMPTY takes
its block's tag if it holds none, and its attendance timer starts (R78, R88; notes/assumptions/17.md). -/
def State.linesChanged (s : State) (l : LaneIx) : State :=
  s.modLane l fun x =>
    { x with
      attendance := if x.order.state = .empty then some (s.house.clock + s.cfg.attendanceTimeout) else x.attendance
      order :=
        { x.order with
          state := .opened
          quoteCurrent := false
          tag := x.order.tag.or ((x.block.map Block.tag).or x.claim.tag) } }

/-- A lane's attendance timer restarts with the full timeout, which clears a held lapse (R69, R88). -/
def State.restartAttendance (s : State) (l : LaneIx) : State :=
  if (s.lane l).order.state = .empty then s
  else
    s.modLane l fun x =>
      { x with
        attendance := some (s.house.clock + s.cfg.attendanceTimeout)
        order := { x.order with lapseHeld := false } }

/-! ### Blocks in progress (R74–R76) -/

/-- How a word ends. -/
inductive WordEnd where
  | done
  | refused (code : Code) (residual : Option Residual) (offending : List SeatRef)
deriving DecidableEq, Repr

/-- The status of an ORDER request with the order state and quote total of the lane at this moment (R76). -/
def State.orderStatus (s : State) (l : LaneIx) (c : Completion) (offset : Option Nat) (code : Option Code)
    (residual : Option Residual) (offending : List SeatRef) : Status :=
  ⟨c, offset, code, residual, some (s.lane l).order.state, (s.lane l).order.currentTotal, offending⟩

/-- The lane's block is no longer in progress, and its status is written. -/
def State.endBlock (s : State) (l : LaneIx) (b : Block) (st : Status) : State :=
  (s.modLane l fun x => { x with block := none }).complete b.ref st.bytes

/-- The running word of a lane's block ends: DONE goes on to the next word or completes the block, a refusal ends the
block (R74, R75). -/
def State.endWord (s : State) (l : LaneIx) (e : WordEnd) : State :=
  match (s.lane l).block with
  | none => s
  | some b =>
    match b.mode with
    | .strictWait _ _ => s
    | .running i _ =>
      match e with
      | .done =>
        if i + 1 < b.words.length then
          s.modLane l fun x => { x with block := some { b with mode := .running (i + 1) .fresh } }
        else s.endBlock l b (s.orderStatus l .done none none none [])
      | .refused code residual offending =>
        s.endBlock l b (s.orderStatus l .refused (some i) (some code) residual offending)

/-- The running word of a lane's block with its phase. -/
def State.runningWord (s : State) (l : LaneIx) : Option (OrderWord × WordPhase) :=
  match (s.lane l).block with
  | none => none
  | some b =>
    match b.mode with
    | .strictWait _ _ => none
    | .running i ph => (b.words[i]?).map fun w => (w, ph)

/-- The state with the phase of the lane's running word set. -/
def State.setPhase (s : State) (l : LaneIx) (ph : WordPhase) : State :=
  s.modLane l fun x =>
    { x with
      block := x.block.map fun b =>
        match b.mode with
        | .running i _ => { b with mode := .running i ph }
        | .strictWait _ _ => b }

/-- The PICK that the lane's block waits on ends; with the block gone nothing is written (R43, R86). -/
def State.endPick (s : State) (l : LaneIx) (e : WordEnd) : State :=
  match s.runningWord l with
  | some (.pick _ _, .taken) => s.endWord l e
  | _ => s

/-- The PAY that the lane's block waits on ends. -/
def State.endPay (s : State) (l : LaneIx) (e : WordEnd) : State :=
  match s.runningWord l with
  | some (.pay _, .taken) => s.endWord l e
  | _ => s

/-- The PRINT that the lane's block waits on ends. -/
def State.endPrint (s : State) (l : LaneIx) (e : WordEnd) : State :=
  match s.runningWord l with
  | some (.print, .taken) => s.endWord l e
  | _ => s

/-- What waits on a cancellation ends: a CANCEL word, or a malformed block under STRICT with its MALFORMED status (R72,
R84). -/
def State.endCancelWait (s : State) (l : LaneIx) (e : WordEnd) : State :=
  match (s.lane l).block with
  | none => s
  | some b =>
    match b.mode with
    | .strictWait offset code => s.endBlock l b (s.orderStatus l .malformed offset (some code) none [])
    | .running _ _ =>
      match s.runningWord l with
      | some (.cancel, .taken) => s.endWord l e
      | _ => s

/-- The residual of a refused PICK or claim: every seat of it (R44). -/
def seatsResidual (seats : List SeatRef) : Option Residual := if seats.isEmpty then none else some (.seats seats)

/-! ### Registers as the processor reads them (R167, R184) -/

/-- The interrupt to the processor. -/
def State.interrupt (s : State) : Bool := !s.pins.reset && interruptOf s.io.ring.cause s.io.ring.mask

/-- The value a read at an offset of the memory window returns; a read changes nothing. -/
def State.readRegister (s : State) (offset : Nat) : Nat :=
  if s.pins.reset then 0
  else if offset = Config.causeOffset then s.io.ring.cause.value
  else if offset = Config.maskOffset then s.io.ring.mask.value
  else 0

end Sys2Proof.Machine
end

