-- ==== Sys2Proof/Machine/LinkOps.lean ====
section
/-! DEFINITION. The shared operations of the transmit queue (R22–R42) with what a refused, evicted, removed or aborted
entry does to its owner: claims that fail on the link (R67), censuses that end (R5), objections unsent (R35). -/

namespace Sys2Proof.Machine

/-! ### Classes and entries -/

/-- The rank of a class; a greater number ranks lower (The transmit queue). -/
def Class.rank : Class → Nat
  | .renewDemand => 1
  | .sale => 2
  | .object => 3
  | .release => 4
  | .voucherState => 5
  | .hold => 6
  | .censusCall => 7
  | .censusReply => 8
  | .renewNormal => 9

/-- The better of two classes. -/
def Class.better (a b : Class) : Class := if b.rank < a.rank then b else a

/-- The classes that are admitted below 24 entries and never evict (R35). -/
def Class.threshold : Class → Bool
  | .hold | .censusCall | .censusReply => true
  | _ => false

/-- The screening a notice names, where its kind has one. -/
def Notice.screening? : Notice → Option Nat
  | .hold c _ _ | .renew c _ _ | .release c _ | .object c _ _ | .sale c _ | .censusCall c | .censusReply c _ _ _ _ => some c
  | .verify _ | .redeem _ | .voucherState _ _ _ => none

/-- The seat list of a notice, where its kind has one. -/
def Notice.seats : Notice → List SeatRef
  | .hold _ _ l | .renew _ _ l | .release _ l | .object _ _ l | .sale _ l | .censusReply _ _ _ _ l => l
  | .censusCall _ | .verify _ | .redeem _ | .voucherState _ _ _ => []

/-- The notice is a RENEW. -/
def Notice.isRenew : Notice → Bool
  | .renew _ _ _ => true
  | _ => false

/-- The notice is a HOLD. -/
def Notice.isHold : Notice → Bool
  | .hold _ _ _ => true
  | _ => false

/-- The notice is a SALE. -/
def Notice.isSale : Notice → Bool
  | .sale _ _ => true
  | _ => false

/-- The entry in contention. -/
def Link.current (k : Link) : Option Entry := k.contention.entry.bind fun i => k.queue.find? fun e => e.id = i

/-- The entry is the notice in contention. -/
def Link.inContention (k : Link) (id : Nat) : Bool := k.contention.entry = some id

/-- The entry is on the pair: in contention in SENDING or JAMMING (R31). -/
def Link.onPair (k : Link) (id : Nat) : Bool :=
  k.inContention id && (k.contention.phase = .sending || k.contention.phase = .jamming)

/-- This station does not receive: it is in SENDING or JAMMING (R32), or the link is OFF (R22). -/
def Link.deaf (k : Link) : Bool :=
  k.state = .off || k.contention.phase = .sending || k.contention.phase = .jamming

/-- What the part puts on the foyer link pair. -/
inductive PairOutput where
  | quiet
  | notice (bytes : List Byte)
  | jam
deriving DecidableEq, Repr

/-- What the pair carries from this station: in SENDING the notice in contention with this station's number as sender and
its check field (R22, R25, R42, R191), in JAMMING the jam (R26), and nothing otherwise, as while the reset input holds the part
(R184). -/
def State.pairOutput (s : State) : PairOutput :=
  if s.pins.reset then .quiet
  else
    match s.link.contention.phase with
    | .sending =>
      match s.link.current, s.link.station with
      | some e, some station => .notice (e.notice.encode station)
      | _, _ => .quiet
    | .jamming => .jam
    | .idle | .deferring | .backoff => .quiet

/-- The frame that the part is sending on a lane's terminal line (R108, R109). -/
def State.terminalOutput (s : State) (l : LaneIx) : Option (List Byte) :=
  if s.pins.reset then none else (s.lane l).term.sending.map TerminalMsg.frame

/-- The frame that the part is sending on a port's printer line (R146). -/
def State.printerOutput (s : State) (p : PortIx) : Option (List Byte) :=
  if s.pins.reset then none else (s.printer p).sending.map PrinterMsg.frame

/-- The queue changed. -/
def Link.modQueue (k : Link) (f : List Entry → List Entry) : Link := { k with queue := f k.queue }

/-- The entry with an id changed. -/
def Link.modEntry (k : Link) (id : Nat) (f : Entry → Entry) : Link :=
  k.modQueue fun q => q.map fun e => if e.id = id then f e else e

/-- The entry with an id taken out of the queue. -/
def Link.drop (k : Link) (id : Nat) : Link := k.modQueue fun q => q.filter fun e => e.id ≠ id

/-- Contention is over: no notice in contention, phase IDLE. -/
def Link.idle (k : Link) : Link := { k with contention := Contention.none }

/-- The order's RENEW in the queue. -/
def Link.renewOf (k : Link) (l : LaneIx) (tag : Option Nat) : Option Entry :=
  k.queue.find? fun e => e.notice.isRenew && e.lane == some l && e.tag == tag

/-- The HOLD of a lane's claim in the queue. -/
def Link.holdOf (k : Link) (l : LaneIx) : Option Entry := k.queue.find? fun e => e.notice.isHold && e.lane == some l

/-- A new entry, the youngest of the queue. -/
def Link.enqueue (k : Link) (n : Notice) (cls : Class) (l : Option LaneIx) (tag : Option Nat) : Link :=
  { k with
    queue := k.queue ++ [⟨k.nextId, n, cls, l, tag, false, none⟩]
    nextId := k.nextId + 1 }

/-- The next notice is chosen: with contention IDLE and the link ACTIVE or DEGRADED, the oldest entry of the best class
starts DEFERRING with a collision count of 0 (R24). -/
def Link.choose (k : Link) : Link :=
  if k.contention.phase = .idle ∧ (k.state = .active ∨ k.state = .degraded) then
    match k.queue.foldl (fun (best : Option Entry) e =>
        match best with
        | none => some e
        | some b => if e.cls.rank < b.cls.rank then some e else some b) none with
    | none => k
    | some e => { k with contention := ⟨.deferring, some e.id, 0, none⟩ }
  else k

/-! ### Renewals owed and places freed (R37, R39) -/

/-- The renewal of a lane's order as a notice: its renewal seats and the hold lifetime (R42). -/
def State.renewNotice (s : State) (l : LaneIx) : Notice :=
  .renew ((s.lane l).order.code.getD 0) s.cfg.holdLifetime (s.renewalSeats l)

/-- A lane's owed mark set or cleared. -/
def State.setOwed (s : State) (l : LaneIx) (b : Bool) : State := s.modLink fun k => { k with owed := k.owed.set l b }

/-- The owed mark of a lane is taken: its current renewal enters as RENEW-demand while there is room (R39). -/
def State.takeOwed (s : State) (l : LaneIx) : State :=
  if s.link.owed.get l && s.link.overflow.isNone && s.link.queue.length < Config.queueSize then
    if (s.renewalSeats l).isEmpty then s.setOwed l false
    else (s.modLink fun k => k.enqueue (s.renewNotice l) .renewDemand (some l) (s.lane l).order.tag).setOwed l false
  else s

/-- The SALE of the overflow slot enters a queue with room as its youngest entry (R37). -/
def Link.takeOverflow (k : Link) : Link :=
  match k.overflow with
  | some e => if k.queue.length < Config.queueSize then { k with queue := k.queue ++ [e], overflow := none } else k
  | none => k

/-- A place has been freed in the queue: the overflow SALE takes it first, then the renewals owed in lane order (R37,
R39). -/
def State.placeFreed (s : State) : State :=
  let s := s.modLink Link.takeOverflow
  laneOrder.foldl State.takeOwed s

/-- An owner asks for an entry's removal: at once, ending contention with it, or, while it is on the pair, after the
attempt (R31). -/
def State.removeEntry (s : State) (id : Nat) : State :=
  if s.link.onPair id then s.modLink fun k => k.modEntry id fun e => { e with leaving := true, kept := none }
  else if s.link.queue.any fun e => e.id = id then
    (s.modLink fun k => if k.inContention id then (k.drop id).idle else k.drop id).placeFreed
  else s

/-! ### What an entry that is refused, evicted or dropped does to its owner -/

/-- A claim's seats that are CLAIMING become FREE (R49, R51, R63, R64, R67). -/
def State.freeClaim (s : State) (l : LaneIx) : State :=
  s.mapSeats (s.lane l).claim.code ((s.lane l).claim.seats.map ClaimSeat.seat)
    fun st => if st.claimedBy l then .free else st

/-- The claim record returns to NONE with no fields (R43). -/
def State.clearClaim (s : State) (l : LaneIx) : State := s.modLane l fun x => { x with claim := Claim.blank }

/-- The seats of a lane's claim, in the order the PICK named them. -/
def Claim.seatRefs (c : Claim) : List SeatRef := c.seats.map ClaimSeat.seat

/-- A QUEUED claim fails on the link: its seats become FREE with no notice, and the PICK is refused with every seat as
its residual (R67). -/
def State.claimFails (s : State) (l : LaneIx) (code : Code) : State :=
  if (s.lane l).claim.state = .queued then
    ((s.freeClaim l).clearClaim l).endPick l (.refused code (seatsResidual (s.lane l).claim.seatRefs) [])
  else s

/-- The census of a screening ends: the phase is IDLE, and a SYNCING slot becomes READY and completes its LOAD-SCREENING
DONE (R5). -/
def State.endCensus (s : State) (code : Nat) : State :=
  match s.screening code with
  | none => s
  | some x =>
    let s := s.modScreening code fun y => { y with phase := .idle, censusTimer := none, sync := .ready, request := none }
    match x.request with
    | some ref => if x.sync = .syncing then s.complete ref (Status.plain .done).bytes else s
    | none => s

/-- The report of an OBJECT that is not sent (R35, R36, R41). -/
def Entry.unsentReport (n : Notice) (l : Option LaneIx) (tag : Option Nat) : Report :=
  { Report.of .conflict .objectionUnsent with lane := l, tag := tag, screening := n.screening?, seats := n.seats }

/-- The code with which a HOLD that is not admitted fails its claim (R35). -/
def LinkState.busyCode : LinkState → Code
  | .active | .degraded => .linkBusy
  | .off | .mute => .linkMute

/-- A renewal is owed for a lane's order in ACTIVE and DEGRADED, and dropped otherwise (R35, R39). -/
def State.owe (s : State) (l : Option LaneIx) : State :=
  match l with
  | some l => if s.link.state = .active ∨ s.link.state = .degraded then s.setOwed l true else s
  | none => s

/-- What the loss of a notice that never reached the pair does to its owner: refused on offer, evicted, or removed in
MUTE (R33, R35, R36). A SALE is never lost. -/
def State.noticeLost (s : State) (n : Notice) (l : Option LaneIx) (tag : Option Nat) : State :=
  match n with
  | .hold _ _ _ =>
    match l with
    | some l => s.claimFails l s.link.state.busyCode
    | none => s
  | .censusCall code => s.endCensus code
  | .renew _ _ _ => s.owe l
  | .object _ _ _ => s.raise (Entry.unsentReport n l tag)
  | .release _ _ | .sale _ _ | .censusReply _ _ _ _ _ | .verify _ | .redeem _ | .voucherState _ _ _ => s

/-! ### Offering a notice (R35–R38) -/

/-- The entry that a newcomer of a class evicts from a full queue: the youngest of the worst class among the entries that
rank below it, SALEs and the notice in contention excluded (R36). -/
def Link.victim (k : Link) (cls : Class) : Option Entry :=
  (k.queue.filter fun e => cls.rank < e.cls.rank && e.cls ≠ .sale && !k.inContention e.id).foldl
    (fun (worst : Option Entry) e =>
      match worst with
      | none => some e
      | some w => if w.cls.rank ≤ e.cls.rank then some e else some w) none

/-- The youngest RENEW-demand other than the notice in contention, which makes room for a SALE when the overflow slot is
occupied (R37). -/
def Link.youngestDemand (k : Link) : Option Entry :=
  (k.queue.filter fun e => e.cls = .renewDemand && !k.inContention e.id).getLast?

/-- What the queue answers to an offer, by the link state, the class and the count (R35–R37). -/
inductive Admission where
  | admitted
  | evicting (victim : Entry)
  | overflow
  | refused
deriving DecidableEq, Repr

/-- The answer of a queue of this link to a class, MUTE and OFF aside (R35, R36, R37). -/
def Link.room (k : Link) (cls : Class) : Admission :=
  if cls.threshold then (if k.queue.length < Config.thresholdSize then .admitted else .refused)
  else if k.queue.length < Config.queueSize then .admitted
  else
    match k.victim cls with
    | some v => .evicting v
    | none =>
      if cls = .sale then
        if k.overflow.isNone then .overflow
        else
          match k.youngestDemand with
          | some v => .evicting v
          | none => .refused
      else .refused

/-- The answer to an offer (R35). -/
def Link.admission (k : Link) (cls : Class) : Admission :=
  match k.state with
  | .off => .refused
  | .mute => if cls = .sale then k.room cls else .refused
  | .active | .degraded => k.room cls

/-- A notice is offered to the transmit queue for a lane's order, or for none. -/
def State.offer (s : State) (n : Notice) (cls : Class) (l : Option LaneIx) (tag : Option Nat) : State :=
  match s.link.admission cls with
  | .admitted => s.modLink fun k => k.enqueue n cls l tag
  | .evicting v =>
    (s.modLink fun k => (k.drop v.id).enqueue n cls l tag).noticeLost v.notice v.lane v.tag
  | .overflow =>
    s.modLink fun k => { k with overflow := some ⟨k.nextId, n, cls, l, tag, false, none⟩, nextId := k.nextId + 1 }
  | .refused => s.noticeLost n l tag

/-- A renewal merged into the order's queued RENEW: at once, or kept aside while it is on the pair (R38). -/
def Link.mergeRenew (k : Link) (e : Entry) (n : Notice) (cls : Class) : Link :=
  if k.onPair e.id then
    k.modEntry e.id fun x => { x with cls := x.cls.better cls, leaving := false, kept := some ⟨n, cls⟩ }
  else k.modEntry e.id fun x => { x with notice := n, cls := x.cls.better cls }

/-- The Claim Engine offers a renewal of a lane's order: with no renewal seat the queued RENEW is removed; otherwise the
offer is merged or enters as a new entry, and it clears the owed mark (R38, R39). -/
def State.offerRenew (s : State) (l : LaneIx) (cls : Class) : State :=
  let tag := (s.lane l).order.tag
  match s.link.renewOf l tag with
  | some e =>
    if (s.renewalSeats l).isEmpty then s.removeEntry e.id
    else (s.modLink fun k => k.mergeRenew e (s.renewNotice l) cls).setOwed l false
  | none =>
    if (s.renewalSeats l).isEmpty then s
    else (s.setOwed l false).offer (s.renewNotice l) cls (some l) tag

/-- The class in which a renewal is offered: RENEW-demand once the order's demand mark has passed (R57). -/
def State.renewClass (s : State) (l : LaneIx) : Class :=
  match (s.lane l).renewal with
  | some r => if 2 ≤ r.passed then .renewDemand else .renewNormal
  | none => .renewNormal

/-- Seats have left an order's renewal seats: the queued RENEW takes those that remain; with none left the timer stops,
the RENEW is removed and the owed mark is cleared (R61). -/
def State.renewalShrunk (s : State) (l : LaneIx) : State :=
  if (s.renewalSeats l).isEmpty then
    ((s.modLane l fun x => { x with renewal := none }).offerRenew l .renewNormal).setOwed l false
  else if (s.link.renewOf l (s.lane l).order.tag).isSome then s.offerRenew l (s.renewClass l)
  else s

/-- A RELEASE of a screening's seats is offered in plan order, when there is at least one (R42, R63). -/
def State.offerRelease (s : State) (l : LaneIx) (tag : Option Nat) (code : Nat) (seats : List SeatRef) : State :=
  if seats.isEmpty then s else s.offer (.release code (planOrder seats)) .release (some l) tag

end Sys2Proof.Machine
end

