-- ==== Sys2Proof/Machine/ClaimOps.lean ====
section
/-! DEFINITION. The shared operations of claims and holds: giving seats up, losing a contest, losing held seats,
confirming, withdrawing, and the checks of PICK (R43–R68). -/

namespace Sys2Proof.Machine

/-! ### Giving seats up (R63) -/

/-- A claim in flight is given up: QUEUED with its HOLD off the pair, its seats become FREE and the HOLD is removed; with
its HOLD on the pair it becomes WITHDRAWING; in CONTEST its seats become FREE and its timer stops (R63). -/
def State.giveUpClaim (s : State) (l : LaneIx) : State :=
  match (s.lane l).claim.state with
  | .queued =>
    match s.link.holdOf l with
    | some e =>
      if s.link.onPair e.id then
        (s.modLane l fun x => { x with claim := { x.claim with state := .withdrawing } }).removeEntry e.id
      else ((s.freeClaim l).clearClaim l).removeEntry e.id
    | none => (s.freeClaim l).clearClaim l
  | .contest => (s.freeClaim l).clearClaim l
  | .none | .withdrawing | .confirmed => s

/-- The screening of a lane's seats: the one its order names, or its claim's (R45). -/
def Lane.seatCode (x : Lane) : Nat := x.order.code.getD x.claim.code

/-- One release of seats of a lane's order, with its claim in flight or without: the seats that are HELD and those of a
CONTEST claim become FREE and are announced in one RELEASE, and the renewal meets the release (R61, R63; the order of the
two is notes/assumptions/10.md). The HOLD of a QUEUED claim is removed, and its place given out, before the RELEASE is offered:
R63 gives no order between them (DESIGN CHOICE, notes/assumptions/56.md). -/
def State.release (s : State) (l : LaneIx) (seats : List SeatRef) (withClaim : Bool) : State :=
  let x := s.lane l
  let code := x.seatCode
  let held := seats.filter (s.seatHeld code l)
  let claimed :=
    if withClaim && x.claim.state = .contest then x.claim.seatRefs.filter (s.seatClaimed code l) else []
  let freed := s.mapSeats code held fun st => if st.heldBy l then .free else st
  let given := if withClaim then freed.giveUpClaim l else freed
  (given.offerRelease l (x.order.tag.or x.claim.tag) code (held ++ claimed)).renewalShrunk l

/-! ### Losing seats (R49, R51, R53, R54) -/

/-- The seats of a lane's claim that a notice names, in PICK order. -/
def State.claimNamed (s : State) (l : LaneIx) (named : List SeatRef) : List SeatRef :=
  (s.lane l).claim.seatRefs.filter fun r => named.contains r && s.seatClaimed (s.lane l).claim.code l r

/-- The claim's seats that a notice names take the state it gives them, and its other seats become FREE. -/
def State.yieldClaim (s : State) (l : LaneIx) (named : List SeatRef) (dest : SeatState) : State :=
  (s.mapSeats (s.lane l).claim.code (s.claimNamed l named) fun st => if st.claimedBy l then dest else st).freeClaim l

/-- A QUEUED claim loses to a conflicting notice: its HOLD is removed, and the PICK is refused SEAT/TAKEN with the named
seats (R49). -/
def State.claimLoses (s : State) (l : LaneIx) (named : List SeatRef) (dest : SeatState) : State :=
  let hit := s.claimNamed l named
  let all := (s.lane l).claim.seatRefs
  let yielded := (s.yieldClaim l named dest).clearClaim l
  let removed :=
    match s.link.holdOf l with
    | some e => yielded.removeEntry e.id
    | none => yielded
  removed.endPick l (.refused .seatTaken (seatsResidual all) hit)

/-- A CONTEST claim is withdrawn whole: the named seats go to the sender, the rest become FREE and are released, and the
PICK is refused SEAT/TAKEN (R51). -/
def State.claimWithdrawn (s : State) (l : LaneIx) (named : List SeatRef) (dest : SeatState) : State :=
  let c := (s.lane l).claim
  let hit := s.claimNamed l named
  let rest := c.seatRefs.filter fun r => !hit.contains r
  let yielded := ((s.yieldClaim l named dest).clearClaim l).offerRelease l c.tag c.code rest
  yielded.endPick l (.refused .seatTaken (seatsResidual c.seatRefs) hit)

/-- Seats lost by a lane's order: their lines are removed in OPEN and QUOTED, and marked lost in PAYING, SHORT and
UNWINDING (R54); the renewal meets the loss (R61). -/
def State.loseLines (s : State) (l : LaneIx) (lost : List SeatRef) : State :=
  match (s.lane l).order.state with
  | .opened | .quoted =>
    ((s.modOrder l fun o => { o with seatLines := o.seatLines.filter fun x => !lost.contains x.seat }).linesChanged
      l).renewalShrunk l
  | .paying | .short | .unwinding =>
    (s.modOrder l fun o =>
      { o with seatLines := o.seatLines.map fun x => if lost.contains x.seat then { x with lost := true } else x }).renewalShrunk l
  | .empty | .committing | .sold | .printing | .complete | .unresolved => s

/-- A report about seats of a lane's order in a screening, in the order given. -/
def State.seatReport (s : State) (k : ReportKind) (q : ReportQual) (l : LaneIx) (code : Nat) (seats : List SeatRef) : Report :=
  { Report.of k q with
    lane := some l, tag := (s.lane l).order.tag.or (s.lane l).claim.tag, screening := some code, seats := seats }

/-- A peer notice takes HELD seats from an order that is not committing: each seat takes the state the notice gives, a
SEAT-LOST report is raised, and the lines meet the loss (R53). -/
def State.seatsTaken (s : State) (l : LaneIx) (code : Nat) (seats : List SeatRef) (dest : SeatState) (q : ReportQual) : State :=
  let moved := s.mapSeats code seats fun st => if st.heldBy l then dest else st
  (moved.raise (moved.seatReport .seatLost q l code (planOrder seats))).loseLines l seats

/-! ### Confirmation (R52, R57) -/

/-- A CONTEST claim is confirmed: its seats become HELD, its seat lines are appended, the order names its screening, and
the renewal timer starts from the claim's HOLD end or is kept (R52, R57). -/
def State.confirmClaim (s : State) (l : LaneIx) : State :=
  let c := (s.lane l).claim
  let held := s.mapSeats c.code c.seatRefs fun st => if st.claimedBy l then .held l else st
  let lined :=
    (held.modOrder l fun o =>
      { o with
        seatLines := o.seatLines ++ c.seats.map fun e => ⟨e.seat, e.type, none, false⟩
        screening := o.screening.or (some ⟨c.slot, c.code⟩) }).linesChanged l
  let confirmed := lined.modLane l fun x => { x with claim := { x.claim with state := .confirmed, contestTimer := none } }
  let renewed :=
    match (s.lane l).renewal with
    | none => confirmed.modLane l fun x => { x with renewal := some ⟨c.holdEnd.getD ⟨s.house.clock, 0⟩, 0⟩ }
    | some _ =>
      if (confirmed.link.renewOf l (confirmed.lane l).order.tag).isSome then confirmed.offerRenew l (confirmed.renewClass l)
      else confirmed
  renewed.endPick l .done

/-! ### PICK (R44–R46) -/

/-- Check 1 of PICK: code, number of entries, ranges, and no seat twice. -/
def pickFormOk (code : Nat) (entries : List ClaimSeat) : Bool :=
  codeOk code && 1 ≤ entries.length && entries.length ≤ 10 && entries.all (fun e => seatInRange e.seat && e.type ≤ 5)
    && seatsDistinct (entries.map ClaimSeat.seat)

/-- The seats that fail check 7 of PICK, in PICK order. -/
def Screening.notFree (x : Screening) (entries : List ClaimSeat) : List SeatRef :=
  (entries.map ClaimSeat.seat).filter fun r => x.seat r ≠ some .free

/-- The qualifier of check 7: NOT-IN-PLAN, else BLOCKED, else TAKEN. -/
def Screening.notFreeCode (x : Screening) (seats : List SeatRef) : Code :=
  if seats.any fun r => (x.seat r).isNone then .seatNotInPlan
  else if seats.any fun r => x.seat r = some .blocked then .seatBlocked
  else .seatTaken

/-- A ticket type is offered for a screening. -/
def Screening.offers (x : Screening) (type : Nat) : Bool := (x.types[type]?.map TicketType.offered).getD false

/-- The house clock has reached the late-sale limit of the screening (R1). -/
def Screening.pastLateSale (x : Screening) (clock : Nat) : Bool := x.start + x.lateOffset ≤ clock

/-- The first check of PICK that fails, with its offending seats (R44). -/
def State.pickRefusal (s : State) (l : LaneIx) (code : Nat) (entries : List ClaimSeat) : Option (Code × List SeatRef) :=
  let o := (s.lane l).order
  if !pickFormOk code entries then some (.format, [])
  else if o.state ≠ .empty ∧ o.state ≠ .opened ∧ o.state ≠ .quoted then some (.orderWrongState, [])
  else if !s.drainClear then some (.orderDraining, [])
  else
    match s.screening code with
    | none => some (.screeningUnknown, [])
    | some x =>
      if x.sync ≠ .ready then some (.screeningSyncing, [])
      else if x.pastLateSale s.house.clock then some (.screeningLate, [])
      else if o.screening.isSome ∧ o.code ≠ some code then some (.screeningMismatch, [])
      else if s.link.state ≠ .active then
        some (if s.link.state = .degraded then .linkDegraded else .linkMute, [])
      else if Config.maxSeatLines < o.seatLines.length + entries.length then some (.orderSeatLimit, [])
      else if !(x.notFree entries).isEmpty then some (x.notFreeCode (x.notFree entries), x.notFree entries)
      else
        let bad := (entries.filter fun e => !x.offers e.type).map ClaimSeat.seat
        if bad.isEmpty then none else some (.seatTypeNotOffered, bad)

/-- A PICK is taken: the claim record is filled, its seats become CLAIMING, the word runs on, and the HOLD is offered
(R45). -/
def State.takePick (s : State) (l : LaneIx) (code : Nat) (entries : List ClaimSeat) : State :=
  let seats := entries.map ClaimSeat.seat
  let tag := (s.lane l).order.tag.or ((s.lane l).block.map Block.tag)
  let claimed :=
    (s.modLane l fun x => { x with claim := ⟨.queued, tag, s.slotOf code, code, entries, none, none⟩ }).mapSeats code seats
      fun st => if st = .free then .claiming l else st
  (claimed.setPhase l .taken).offer (.hold code s.cfg.holdLifetime seats) .hold (some l) tag

/-- A PICK is run: it waits on a WITHDRAWING claim, is refused by its first failing check, or is taken (R44–R46). -/
def State.runPick (s : State) (l : LaneIx) (code : Nat) (entries : List ClaimSeat) : State :=
  if (s.lane l).claim.state = .withdrawing then s.setPhase l .waiting
  else
    match s.pickRefusal l code entries with
    | some (c, bad) => s.endWord l (.refused c (seatsResidual (entries.map ClaimSeat.seat)) bad)
    | none => s.takePick l code entries

/-! ### Withdrawal and the transmit end of a HOLD (R48, R64) -/

/-- A WITHDRAWING claim ends: its seats become FREE, announced in a RELEASE when its HOLD was transmitted, and a PICK that
waited is then checked (R46, R64). -/
def State.endWithdrawal (s : State) (l : LaneIx) (transmitted : Bool) : State :=
  let c := (s.lane l).claim
  let freed := (s.freeClaim l).clearClaim l
  let released := if transmitted then freed.offerRelease l c.tag c.code c.seatRefs else freed
  match released.runningWord l with
  | some (.pick code entries, .waiting) => released.runPick l code entries
  | _ => released

/-- The transmit end of a lane's HOLD: a QUEUED claim enters CONTEST, a WITHDRAWING one ends (R48, R64). -/
def State.holdTransmitted (s : State) (l : LaneIx) (instant : Nat) : State :=
  match (s.lane l).claim.state with
  | .queued =>
    s.modLane l fun x =>
      { x with
        claim :=
          { x.claim with
            state := .contest
            holdEnd := some ⟨s.house.clock, instant⟩
            contestTimer := some s.cfg.contestWindow } }
  | .withdrawing => s.endWithdrawal l true
  | .none | .contest | .confirmed => s

/-- A claim whose HOLD left the queue unsent at its owner's request ends (R31, R64). -/
def State.holdRemoved (s : State) (l : LaneIx) : State :=
  if (s.lane l).claim.state = .withdrawing then s.endWithdrawal l false else s

end Sys2Proof.Machine
end

