-- ==== Sys2Proof/Machine/VoucherOps.lean ====
section
/-! DEFINITION. The shared operations of the Voucher Unit: reservations and the return of an order to EMPTY (R79), serials,
issue, the voucher table, reissue and the answers to counters (R128–R144). -/

namespace Sys2Proof.Machine

/-- The catalog item with a code. -/
def State.item (s : State) (code : Nat) : Option CatalogItem := s.vouchers.catalog.find? fun i => i.code = code

/-- The catalog with one item changed. -/
def State.modItem (s : State) (code : Nat) (f : CatalogItem → CatalogItem) : State :=
  { s with
    vouchers := { s.vouchers with catalog := s.vouchers.catalog.map fun i => if i.code = code then f i else i } }

/-- The reservations of voucher lines that carry no code are returned (R134). -/
def State.returnLines (s : State) : List VoucherLine → State
  | [] => s
  | v :: vs =>
    (if v.code.isNone then s.modItem v.item fun i => { i with reserved := i.reserved - 1 } else s).returnLines vs

/-- The order returns to EMPTY: its record is cleared, its timer and its renewal stop, and the claim record becomes NONE
unless it is WITHDRAWING (R79). A voucher line that leaves with it without having been issued returns its reservation; one
that has been issued changes no count (R134). -/
def State.returnToEmpty (s : State) (l : LaneIx) : State :=
  let s := (s.modLane l fun x => { x with sale := none, order := { x.order with seatLines := [] } }).renewalShrunk l
  (s.returnLines (s.lane l).order.voucherLines).modLane l fun x =>
    { x with
      order := Order.blank
      attendance := none
      claim := if x.claim.state = .withdrawing then x.claim else Claim.blank }

/-- The counter value after a serial is drawn: it wraps from its last value to 1 (R135, R157). -/
def nextSerial (last n : Nat) : Nat := if last ≤ n then 1 else n + 1

/-- A voucher serial is drawn: the code it gives, and the counter advanced (R135). -/
def State.drawVoucher (s : State) : VCode × State :=
  (⟨s.cfg.station, s.vouchers.serial⟩,
    { s with vouchers := { s.vouchers with serial := nextSerial Config.lastVoucherSerial s.vouchers.serial } })

/-- The record has ended its life: REDEEMED, EXPIRED or VOID (R138). -/
def VoucherRecord.over (r : VoucherRecord) : Bool := r.status ≠ .issued

/-- The table once a record has been evicted to make room, when there is one to evict (R138). -/
def evictRecord (clock : Nat) (table : List VoucherRecord) : Option (List VoucherRecord) :=
  match table.findIdx? VoucherRecord.over with
  | some i => some (table.eraseIdx i)
  | none =>
    match table.findIdx? fun r => r.expiry ≤ clock with
    | some i => some (table.eraseIdx i)
    | none => none

/-- A record enters the table as its youngest, evicting one from a full table; with none to evict it is not recorded and
a VOUCHER-UNRECORDED report is raised for the lane (R138). -/
def State.enterRecord (s : State) (l : LaneIx) (r : VoucherRecord) : State :=
  if s.vouchers.table.length < Config.voucherTableSize then
    { s with vouchers := { s.vouchers with table := s.vouchers.table ++ [r] } }
  else
    match evictRecord s.house.clock s.vouchers.table with
    | some t => { s with vouchers := { s.vouchers with table := t ++ [r] } }
    | none =>
      s.raise
        { Report.of .voucherUnrecorded .none with
          lane := some l, tag := (s.lane l).order.tag, screening := (s.lane l).order.code, voucher := some r.code }

/-- A record's state as it is made: EXPIRED when the house clock has already reached its expiry (R136, R141). -/
def statusAt (clock expiry : Nat) : VoucherStatus := if expiry ≤ clock then .expired else .issued

/-- The expiry of a voucher of a lane's order: the screening's start time plus the voucher grace, or the catalog expiry
of a snack-only order (R137). -/
def State.voucherExpiry (s : State) (l : LaneIx) : Nat :=
  match (s.lane l).order.code with
  | some code =>
    match s.screening code with
    | some x => x.start + 60 * s.cfg.voucherGrace
    | none => 0
  | none => s.vouchers.expiry.getD 0

/-- A voucher record for a lane's order with a code, item, screening and expiry (R136, R141). -/
def State.newRecord (s : State) (code : VCode) (item : Nat) (screening : Option Nat) (expiry : Nat) : VoucherRecord :=
  ⟨code, item, screening, expiry, statusAt s.house.clock expiry, false, none⟩

/-- One voucher line of a lane's order is issued: a serial is drawn, one voucher moves from reserved to issued, and the
record is made (R136). -/
def State.issueLine (s : State) (l : LaneIx) (v : VoucherLine) : VoucherLine × State :=
  let (code, drawn) := s.drawVoucher
  let counted := drawn.modItem v.item fun i => { i with reserved := i.reserved - 1, issued := i.issued + 1 }
  ({ v with code := some code },
    counted.enterRecord l (counted.newRecord code v.item (counted.lane l).order.code (counted.voucherExpiry l)))

/-- Voucher lines are issued in line order, and one that carries a code has been issued (R136). -/
def State.issueLines (s : State) (l : LaneIx) : List VoucherLine → List VoucherLine × State
  | [] => ([], s)
  | v :: vs =>
    let (v', s') := if v.code.isNone then s.issueLine l v else (v, s)
    let (vs', s'') := s'.issueLines l vs
    (v' :: vs', s'')

/-- The Voucher Unit issues a lane's voucher lines (R136). -/
def State.issueVouchers (s : State) (l : LaneIx) : State :=
  let (lines, issued) := s.issueLines l (s.lane l).order.voucherLines
  issued.modOrder l fun o => { o with voucherLines := lines }

/-- The last index of a list at which a test holds. -/
def lastIdx? {α : Type} (p : α → Bool) (l : List α) : Option Nat :=
  match l.reverse.findIdx? p with
  | some i => some (l.length - 1 - i)
  | none => none

/-- The index of the record of a code: the younger, where the table holds two (R142). -/
def recordIndex (table : List VoucherRecord) (code : VCode) : Option Nat := lastIdx? (fun r => r.code == code) table

/-- The record of a code (R142). -/
def State.record (s : State) (code : VCode) : Option VoucherRecord :=
  (recordIndex s.vouchers.table code).bind fun i => s.vouchers.table[i]?

/-- The state with the record at an index of the table changed. -/
def State.modRecordAt (s : State) (i : Nat) (f : VoucherRecord → VoucherRecord) : State :=
  { s with vouchers := { s.vouchers with table := s.vouchers.table.modify i f } }

/-- The state with the record of a code changed: of two with one code the younger, which R142 says of VERIFY and REDEEM, and
the model takes for DONE and a spoil too (DESIGN CHOICE, notes/assumptions/53.md). -/
def State.modRecord (s : State) (code : VCode) (f : VoucherRecord → VoucherRecord) : State :=
  match recordIndex s.vouchers.table code with
  | some i => s.modRecordAt i f
  | none => s

/-- A stub with this code has printed (R140; which of two records, notes/assumptions/53.md). -/
def State.stubPrinted (s : State) (code : VCode) : State :=
  s.modRecord code fun r => if r.status = .issued ∨ r.status = .expired then { r with printed := true } else r

/-- A stub of a lane's voucher line is spoiled: the record of the code that it carries becomes VOID, and the line is reissued
under a new serial with a record of its own (R141; which of two records, notes/assumptions/53.md). -/
def State.reissue (s : State) (l : LaneIx) (line : Nat) : State :=
  match (s.lane l).order.voucherLines[line]?.bind fun v => v.code.map fun c => (v, c) with
  | none => s
  | some (v, c) =>
    let old := s.record c
    let (code, drawn) := (s.modRecord c fun r => { r with status := .void }).drawVoucher
    let lined :=
      drawn.modOrder l fun o => { o with voucherLines := o.voucherLines.modify line fun x => { x with code := some code } }
    lined.enterRecord l
      (match old with
      | some r => lined.newRecord code r.item r.screening r.expiry
      | none => lined.newRecord code v.item (lined.lane l).order.code (lined.voucherExpiry l))

/-- The answer and item code that a VERIFY is given from a record (R142). -/
def verifyAnswer : Option VoucherRecord → Answer × Nat
  | none => (.unknown, 0)
  | some r =>
    match r.status with
    | .void => (.unknown, 0)
    | .issued => (if r.printed then .valid else .unknown, r.item)
    | .redeemed => (.redeemed, r.item)
    | .expired => (.expired, r.item)

/-- A VOUCHER-STATE is offered for a code (R42, R144). -/
def State.answerVoucher (s : State) (code : VCode) (a : Answer × Nat) : State :=
  s.offer (.voucherState code a.2 a.1) .voucherState none none

/-- A kept VERIFY is answered (R142). -/
def State.verify (s : State) (code : VCode) : State := s.answerVoucher code (verifyAnswer (s.record code))

/-- A kept REDEEM from a station is handled and answered (R143). -/
def State.redeem (s : State) (sender : Nat) (code : VCode) : State :=
  match s.record code with
  | none => s.answerVoucher code (verifyAnswer none)
  | some r =>
    if r.status = .issued ∧ r.printed = true then
      let done := s.modRecord code fun x => { x with status := .redeemed, redeemedBy := some sender }
      (done.raise
        { Report.of .voucherRedeemed (.station sender) with screening := r.screening, voucher := some code }).answerVoucher
        code (.redeemedNow, r.item)
    else if r.status = .redeemed ∧ r.redeemedBy = some sender then s.answerVoucher code (.redeemedNow, r.item)
    else s.answerVoucher code (verifyAnswer (some r))

end Sys2Proof.Machine
end

