-- ==== Sys2Proof/Machine/Pricing.lean ====
section
/-! DEFINITION. The Price Engine (R93–R106): exact integer arithmetic on amounts in minor units. -/

namespace Sys2Proof.Machine

/-- Rounding half up: the quotient is raised when twice the remainder is the divisor or more (Definitions). -/
def roundHalfUp (n d : Nat) : Nat := if d ≤ 2 * (n % d) then n / d + 1 else n / d

/-- Rounding half to even (Definitions). -/
def roundHalfEven (n d : Nat) : Nat :=
  if d < 2 * (n % d) then n / d + 1
  else if 2 * (n % d) = d then (if n / d % 2 = 0 then n / d else n / d + 1)
  else n / d

/-- The scaled price of a seat line: base price, type factor and band factor, in millionths, rounded half up (R96). -/
def scaledPrice (base factor band : Nat) : Nat := roundHalfUp (base * factor * band) 1000000

/-- The seat-line price before it is held at 65535 (R97). -/
def rawPrice (base factor band surcharge : Nat) : Nat := scaledPrice base factor band + surcharge

/-- The tier of a seat in the plan of a screening. -/
def Screening.tier (x : Screening) (r : SeatRef) : Nat :=
  match (x.plan[r.row]?).bind fun row => row[r.num - 1]? with
  | some p => p.tier
  | none => 0

/-- The base price of a seat's tier (R95). -/
def Screening.basePrice (x : Screening) (r : SeatRef) : Nat := (x.tiers[x.tier r]?).getD 0

/-- The factor of a ticket type (R95). -/
def Screening.factor (x : Screening) (type : Nat) : Nat := (x.types[type]?.map TicketType.factor).getD 0

/-- The price of a seat line in a screening before it is held at 65535 (R96, R97). -/
def Screening.linePrice (x : Screening) (v : SeatLine) : Nat :=
  rawPrice (x.basePrice v.seat) (x.factor v.type) x.band x.surcharge

/-- The prices of seat lines, held at 65535 (R97); an order with seat lines names a screening (R95). -/
def seatPrices (x : Option Screening) (lines : List SeatLine) : List Nat :=
  match x with
  | some x => lines.map fun v => min Config.maxPrice (x.linePrice v)
  | none => lines.map fun _ => 0

/-- CLAMPED: at least one seat-line price was held at 65535 (R97). -/
def anyClamped (x : Option Screening) (lines : List SeatLine) : Bool :=
  match x with
  | some x => lines.any fun v => Config.maxPrice < x.linePrice v
  | none => false

/-- Pairing: the first `left` combo-eligible lines are paired (R98). -/
def pairFlags : Nat → List Bool → List Bool
  | _, [] => []
  | 0, _ :: es => false :: pairFlags 0 es
  | left + 1, true :: es => true :: pairFlags left es
  | left + 1, false :: es => false :: pairFlags (left + 1) es

/-- The discount of a line before the cap: the smaller of combo discount and price when paired, 0 otherwise (R99). -/
def lineDiscount (paired : Bool) (comboDiscount price : Nat) : Nat := if paired then min comboDiscount price else 0

/-- Discounts lowered by an excess from the last line back towards the first, with the excess that is left (R100). -/
def capDiscounts : Nat → List Nat → List Nat × Nat
  | excess, [] => ([], excess)
  | excess, d :: ds =>
    let (ds', left) := capDiscounts excess ds
    ((d - min left d) :: ds', left - min left d)

/-- The tax contained in a part at a rate in basis points (R103). -/
def taxOf (part rate : Nat) : Nat := roundHalfEven (part * rate) (10000 + rate)

/-- What a QUOTE computes: the quote record, the seat-line prices, and the price, paired flag and discount of each voucher
line. -/
structure Priced where
  quote : Quote
  seatPrices : List Nat
  voucherFigures : List (Nat × Bool × Nat)
deriving DecidableEq, Repr

/-- The quote of seat lines and voucher lines from the screening, the catalog and the setup record (R95–R104). -/
def priceOrder (x : Option Screening) (catalog : List CatalogItem) (c : SetupRecord) (lines : List SeatLine)
    (vlines : List VoucherLine) : Priced :=
  let prices := seatPrices x lines
  let items := vlines.map fun v => catalog.find? fun i => i.code = v.item
  let vprices := items.map fun i => (i.map CatalogItem.price).getD 0
  let eligible := items.map fun i => (i.map CatalogItem.combo).getD false
  let pairings := min lines.length (eligible.count true)
  let paired := pairFlags pairings eligible
  let combos := items.map fun i => (i.map CatalogItem.comboDiscount).getD 0
  let before := (paired.zip (combos.zip vprices)).map fun p => lineDiscount p.1 p.2.1 p.2.2
  let discounts := (capDiscounts (before.sum - c.discountCap) before).1
  let ticketPart := prices.sum
  let voucherSum := vprices.sum
  let totalDiscount := discounts.sum
  let concessionPart := voucherSum - totalDiscount
  let ticketTax := taxOf ticketPart c.ticketTax
  let concessionTax := taxOf concessionPart c.concessionTax
  { quote :=
      { clamped := anyClamped x lines
        pairings := pairings
        ticketPart := ticketPart
        voucherSum := voucherSum
        totalDiscount := totalDiscount
        concessionPart := concessionPart
        total := ticketPart + concessionPart
        ticketTax := ticketTax
        concessionTax := concessionTax
        taxTotal := ticketTax + concessionTax }
    seatPrices := prices
    voucherFigures := vprices.zip (paired.zip discounts) }

/-- The quote of a lane's order as its inputs stand (R95). -/
def State.priced (s : State) (l : LaneIx) : Priced :=
  let o := (s.lane l).order
  priceOrder (o.code.bind s.screening) s.vouchers.catalog s.cfg o.seatLines o.voucherLines

/-- The quoted fields written into seat lines (R105). -/
def writeSeatPrices (lines : List SeatLine) (prices : List Nat) : List SeatLine :=
  (lines.zip prices).map fun p => { p.1 with price := some p.2 }

/-- The quoted fields written into voucher lines (R105). -/
def writeVoucherFigures (lines : List VoucherLine) (figures : List (Nat × Bool × Nat)) : List VoucherLine :=
  (lines.zip figures).map fun p => { p.1 with price := some p.2.1, paired := p.2.2.1, discount := some p.2.2.2 }

/-- A quote is written into the order as one change, and the order becomes QUOTED (R94, R105). -/
def Order.writeQuote (p : Priced) (o : Order) : Order :=
  { o with
    state := .quoted
    seatLines := writeSeatPrices o.seatLines p.seatPrices
    voucherLines := writeVoucherFigures o.voucherLines p.voucherFigures
    quote := some p.quote
    quoteCurrent := true }

end Sys2Proof.Machine
end

