-- ==== Sys2Proof/Machine/OrderOps.lean ====
section
/-! DEFINITION. The shared operations of orders and payment: cancellation, held lapses, drain on entry, authorization
outcomes, commit, sale, captures, voids, unwinding and UNRESOLVED (R80, R88–R92, R108–R127, R185–R187). -/

namespace Sys2Proof.Machine

/-! ### Tenders -/

/-- A tender slot of an order. -/
def Order.tender (o : Order) (i : TenderIx) : Tender :=
  match i with
  | .one => o.tender1
  | .two => o.tender2

/-- The order with a tender slot changed. -/
def Order.modTender (o : Order) (i : TenderIx) (f : Tender → Tender) : Order :=
  match i with
  | .one => { o with tender1 := f o.tender1 }
  | .two => { o with tender2 := f o.tender2 }

/-- The other tender slot. -/
def TenderIx.other : TenderIx → TenderIx
  | .one => .two
  | .two => .one

/-- A tender of the order is in a state. -/
def Order.anyTender (o : Order) (st : TenderState) : Bool := o.tender1.state = st || o.tender2.state = st

/-- The lowest-indexed tender of the order in a state. -/
def Order.firstTender (o : Order) (st : TenderState) : Option TenderIx :=
  if o.tender1.state = st then some .one else if o.tender2.state = st then some .two else none

/-- The approved amount that counts as authorized: in AUTHORIZED, CAPTURING or CAPTURED (Tenders). -/
def Tender.authorizedAmount (t : Tender) : Nat :=
  match t.state with
  | .authorized | .capturing | .captured => t.approved.getD 0
  | .none | .authorizing | .voiding | .voided | .declined | .unresolved => 0

/-- The authorized amount of an order (Tenders). -/
def Order.authorized (o : Order) : Nat := o.tender1.authorizedAmount + o.tender2.authorizedAmount

/-- The amount due: the quote total less the authorized amount (Tenders). -/
def Order.due (o : Order) : Nat := o.quoteTotal - o.authorized

/-- A slot is free in NONE, DECLINED or VOIDED (Tenders). -/
def Tender.isFree (t : Tender) : Bool := t.state = .none || t.state = .declined || t.state = .voided

/-- The lowest-numbered free slot; the spec has a PAY always find one (R111; notes/assumptions/28.md). -/
def Order.freeSlot (o : Order) : TenderIx := if o.tender1.isFree then .one else .two

/-- A tender in a state becomes VOIDING. -/
def Tender.voidFrom (st : TenderState) (t : Tender) : Tender := if t.state = st then { t with state := .voiding } else t

/-- Every tender of the order in a state becomes VOIDING. -/
def Order.voidFrom (o : Order) (st : TenderState) : Order :=
  { o with tender1 := o.tender1.voidFrom st, tender2 := o.tender2.voidFrom st }

/-- The summaries of the tenders used since the order left EMPTY (R124; notes/assumptions/22.md). -/
def Order.summaries (o : Order) : List TenderSummary :=
  ([⟨.one, o.tender1⟩, ⟨.two, o.tender2⟩] : List TenderSummary).filter fun t => t.tender.state ≠ .none

/-! ### The terminal line (R109, R121) -/

/-- The line is IDLE with nothing outstanding and nothing being sent, so a message may be sent (R109). -/
def Terminal.clear (t : Terminal) : Bool := t.line = .idle && t.sending.isNone && t.exchange.isNone

/-- A message for a tender of the lane's order starts being sent (R109). -/
def State.sendTerminal (s : State) (l : LaneIx) (k : ExchangeKind) (i : TenderIx) (amount : Nat) : State :=
  s.modTerm l fun t => { t with sending := some ⟨k, (s.lane l).order.tag.getD 0, i, amount⟩ }

/-- While the order is UNWINDING and the line is clear, VOID is sent for the lowest VOIDING tender (R121). -/
def State.sendVoid (s : State) (l : LaneIx) : State :=
  if (s.lane l).order.state = .unwinding ∧ (s.lane l).term.clear = true then
    match (s.lane l).order.firstTender .voiding with
    | some i => s.sendTerminal l .void i 0
    | none => s
  else s

/-- The order unwinds with a cause: every AUTHORIZED tender becomes VOIDING and the voids begin (R113, R116, R117). -/
def State.unwind (s : State) (l : LaneIx) (cause : UnwindCause) : State :=
  ((s.modOrder l fun o => { o.voidFrom .authorized with state := .unwinding }).modTerm l fun t =>
    { t with cause := some cause }).sendVoid l

/-! ### Cancellation (R80) -/

/-- An order gives up everything at once: its seats and its claim in flight in one release, and it returns to EMPTY with its
reservations returned; what waits on the cancellation ends (R80, R84). -/
def State.finishCancel (s : State) (l : LaneIx) : State :=
  ((((s.release l (s.lane l).order.liveSeats true).modTerm l fun t => { t with cause := none }).returnToEmpty l).endCancelWait l
    .done)

/-- An order is cancelled, by its state (R80). In EMPTY a claim in flight alone is released (R87, R186). An unwinding begun by
a cancellation carries no cause (DESIGN CHOICE, notes/assumptions/52.md). -/
def State.cancelOrder (s : State) (l : LaneIx) : State :=
  match (s.lane l).order.state with
  | .empty => s.release l [] true
  | .opened | .quoted => s.finishCancel l
  | .short =>
    let s := s.modOrder l fun o => { o.voidFrom .authorized with state := .unwinding, cancelPending := true }
    if (s.lane l).order.anyTender .voiding then s.sendVoid l else s.finishCancel l
  | .paying => s.modOrder l fun o => { o with cancelPending := true }
  | .unwinding => (s.modOrder l fun o => { o.voidFrom .authorized with cancelPending := true }).sendVoid l
  | .committing | .sold | .printing | .complete | .unresolved => s

/-- An order is cancelled by a lapse or by drain that found the claim `c`; the PICK of a claim in flight is refused with the
cause's code and every seat of the claim (R65; the order of the two is notes/assumptions/15.md). -/
def State.cancelRefusingPick (s : State) (l : LaneIx) (c : Claim) (code : Code) : State :=
  let cancelled := s.cancelOrder l
  if c.state = .queued ∨ c.state = .contest then cancelled.endPick l (.refused code (seatsResidual c.seatRefs) [])
  else cancelled

/-! ### Attendance lapses (R88–R92) -/

/-- An ATTENDANCE-LAPSED report with the order's tag, screening and state at this moment (R92). -/
def State.lapseReport (s : State) (l : LaneIx) (q : ReportQual) : Report :=
  { Report.of .attendanceLapsed q with
    lane := some l, tag := (s.lane l).order.tag, screening := (s.lane l).order.code, ostate := some (s.lane l).order.state }

/-- A held lapse is applied to the state a payment step has reached (R90). -/
def State.applyHeldLapse (s : State) (l : LaneIx) : State :=
  if (s.lane l).order.lapseHeld then
    match (s.lane l).order.state with
    | .opened | .quoted | .short =>
      ((s.modOrder l fun o => { o with lapseHeld := false }).raise (s.lapseReport l .cancelled)).cancelOrder l
    | .paying | .committing | .unwinding => s
    | .empty | .sold | .printing | .complete | .unresolved => s.modOrder l fun o => { o with lapseHeld := false }
  else s

/-- While the drain latch is set, an order that enters OPEN, QUOTED or SHORT is cancelled on entry (R186). -/
def State.drainEntry (s : State) (l : LaneIx) : State :=
  if s.drainClear then s
  else
    match (s.lane l).order.state with
    | .opened | .quoted | .short => s.cancelOrder l
    | .empty | .paying | .committing | .sold | .printing | .complete | .unwinding | .unresolved => s

/-- What follows the state that a payment step reaches: a held lapse, then drain (notes/assumptions/16.md). -/
def State.afterStep (s : State) (l : LaneIx) : State := (s.applyHeldLapse l).drainEntry l

/-- A lane's attendance timer lapses, and the order meets it by its state (R89–R91). -/
def State.lapse (s : State) (l : LaneIx) : State :=
  let stopped := s.modLane l fun x => { x with attendance := none }
  match (s.lane l).order.state with
  | .opened | .quoted | .short => (stopped.raise (s.lapseReport l .cancelled)).cancelRefusingPick l (s.lane l).claim .orderLapsed
  | .paying | .committing | .unwinding =>
    (stopped.modOrder l fun o => { o with lapseHeld := true }).raise (s.lapseReport l .held)
  | .sold | .printing | .unresolved => stopped.raise (s.lapseReport l .noEffect)
  | .complete => (stopped.raise (s.lapseReport l .cleared)).returnToEmpty l
  | .empty => stopped

/-! ### Where a payment step leaves the order (R114, R116, R122) -/

/-- The lines that fail a test are removed, the quote is stale and the order OPEN (R78, R116, R117, R122). -/
def State.openWithout (s : State) (l : LaneIx) (seats : List SeatRef) : State :=
  s.modOrder l fun o =>
    { o with state := .opened, quoteCurrent := false, seatLines := o.seatLines.filter fun x => !seats.contains x.seat }

/-- The order returns to OPEN without its lost lines and the PAY is refused with them as its offending list. -/
def State.openRefused (s : State) (l : LaneIx) (code : Code) (residual : Nat) (lost : List SeatRef) : State :=
  ((s.openWithout l lost).endPay l (.refused code (some (.number residual)) lost)).afterStep l

/-- A payment step would leave the order in SHORT or QUOTED with a refusal of its PAY; a lost seat line voids what is
AUTHORIZED, or returns the order to OPEN (R116). -/
def State.settleTo (s : State) (l : LaneIx) (target : OrderState) (code : Code) : State :=
  let o := (s.lane l).order
  if o.lostSeats.isEmpty then
    ((s.modOrder l fun o => { o with state := target }).endPay l (.refused code (some (.number o.due)) [])).afterStep l
  else if o.anyTender .authorized then s.unwind l .seatsLost
  else s.openRefused l code o.due o.lostSeats

/-! ### Sale and capture (R117–R120) -/

/-- CAPTURE is sent for the lowest AUTHORIZED tender, which becomes CAPTURING (R118). -/
def State.sendCapture (s : State) (l : LaneIx) : State :=
  match (s.lane l).order.firstTender .authorized with
  | some i =>
    (s.modOrder l fun o => o.modTender i fun t => { t with state := .capturing }).sendTerminal l .capture i
      (((s.lane l).order.tender i).approved.getD 0)
  | none => s

/-- The SALE of a lane's order is offered, and the order's renewal seats are its seats until its transmit end (R57, R62). -/
def State.offerSale (s : State) (l : LaneIx) : State :=
  let o := (s.lane l).order
  let seats := planOrder (o.seatLines.map SeatLine.seat)
  if seats.isEmpty then s
  else
    (s.modLane l fun x => { x with sale := some ⟨s.link.nextId, seats⟩ }).offer (.sale (o.code.getD 0) seats) .sale (some l)
      o.tag

/-- The order becomes SOLD, in the order of R119: its state, its seats, the SALE, the vouchers, and the PAY word; a held
lapse is then cleared (R90). -/
def State.sellOrder (s : State) (l : LaneIx) : State :=
  let o := (s.lane l).order
  let sold :=
    (s.modOrder l fun o => { o with state := .sold }).mapSeats (o.code.getD 0) (o.seatLines.map SeatLine.seat)
      fun st => if st.heldBy l then .sold s.cfg.station else st
  ((((sold.offerSale l).issueVouchers l).endPay l .done).modOrder l fun o => { o with lapseHeld := false })

/-- The seats of the lines that fail the hold check, in line order: marked lost, or not HELD by the lane (R117). -/
def State.failingSeats (s : State) (l : LaneIx) : List SeatRef :=
  let o := (s.lane l).order
  (o.seatLines.filter fun x => x.lost || !s.seatHeld (o.code.getD 0) l x.seat).map SeatLine.seat

/-- Commit begins with the hold check (R117). -/
def State.commit (s : State) (l : LaneIx) : State :=
  let o := (s.lane l).order
  if (s.failingSeats l).isEmpty then
    if o.anyTender .authorized then (s.modOrder l fun o => { o with state := .committing }).sendCapture l
    else s.sellOrder l
  else if o.anyTender .authorized then s.unwind l .seatsLost
  else s.openRefused l .paySeatsLost o.quoteTotal (s.failingSeats l)

/-- A capture fails: the tender, and each CAPTURED or AUTHORIZED tender, become VOIDING (R120). -/
def State.captureFailed (s : State) (l : LaneIx) (i : TenderIx) : State :=
  (s.modOrder l fun o => (o.modTender i fun t => { t with state := .voiding }).voidFrom .captured).unwind l .captureFailed

/-- A capture is confirmed: the next one is sent, or the order is sold (R118, R119). -/
def State.captured (s : State) (l : LaneIx) (i : TenderIx) : State :=
  let s :=
    s.modOrder l fun o => o.modTender i fun t => { t with state := .captured, captured := t.approved.getD 0 }
  if (s.lane l).order.anyTender .authorized then s.sendCapture l else s.sellOrder l

/-! ### Unwinding and UNRESOLVED (R121–R125) -/

/-- A PAYMENT-UNRESOLVED report with the order's fields as they stand (R124). -/
def State.unresolvedReport (s : State) (l : LaneIx) (q : ReportQual) : Report :=
  { Report.of .paymentUnresolved q with
    lane := some l, tag := (s.lane l).order.tag, screening := (s.lane l).order.code,
    tenders := (s.lane l).order.summaries }

/-- The order becomes UNRESOLVED: its pin deadline is set, a report is raised, and what waited is refused PAY/UNRESOLVED
(R123, R124). -/
def State.becomeUnresolved (s : State) (l : LaneIx) : State :=
  let s :=
    (s.modOrder l fun o => { o with state := .unresolved, cancelPending := false, lapseHeld := false }).modTerm l fun t =>
      { t with pinDeadline := some (s.house.clock + Config.pinLimit), cause := none }
  let total := (s.lane l).order.quoteTotal
  ((s.raise (s.unresolvedReport l .entered)).endPay l (.refused .payUnresolved (some (.number total)) [])).endCancelWait l
    (.refused .payUnresolved none [])

/-- The unwinding ends: UNRESOLVED when a tender is, EMPTY with cancel pending, and otherwise the state its cause gives
(R122, R123). -/
def State.unwindingEnd (s : State) (l : LaneIx) : State :=
  let o := (s.lane l).order
  let cause := (s.lane l).term.cause
  let s := s.modTerm l fun t => { t with cause := none }
  if o.anyTender .unresolved then s.becomeUnresolved l
  else if o.cancelPending then s.finishCancel l
  else
    match cause with
    | some .timeout => s.settleTo l (if o.anyTender .authorized then .short else .quoted) .payTimeout
    | some .terminal => s.settleTo l (if o.anyTender .authorized then .short else .quoted) .payTerminal
    | some .shortFinal => s.settleTo l .quoted .payShortFinal
    | some .seatsLost => s.openRefused l .paySeatsLost o.quoteTotal o.lostSeats
    | some .captureFailed =>
      ((s.release l o.liveSeats false).returnToEmpty l).endPay l
        (.refused .payCaptureFailed (some (.number o.quoteTotal)) [])
    | none => s.finishCancel l

/-- The unwinding goes on: the next VOID is sent, or with no tender VOIDING the unwinding ends (R121). -/
def State.advanceUnwinding (s : State) (l : LaneIx) : State :=
  if (s.lane l).order.anyTender .voiding then s.sendVoid l else s.unwindingEnd l

/-- A void is confirmed (R121). -/
def State.voided (s : State) (l : LaneIx) (i : TenderIx) : State :=
  (s.modOrder l fun o => o.modTender i fun t => { t with state := .voided }).advanceUnwinding l

/-- A void fails: its tender is UNRESOLVED, and every tender AUTHORIZED or CAPTURED becomes VOIDING (R123). -/
def State.voidFailed (s : State) (l : LaneIx) (i : TenderIx) : State :=
  (s.modOrder l fun o =>
    ((o.modTender i fun t => { t with state := .unresolved }).voidFrom .authorized).voidFrom .captured).advanceUnwinding l

/-- An UNRESOLVED order ends: seats released, the second report raised, and EMPTY with its reservations returned (R125). R125
returns the reservations before it raises the report; the report carries no count, so their order does not show. -/
def State.endUnresolved (s : State) (l : LaneIx) (q : ReportQual) : State :=
  let given := s.release l (s.lane l).order.liveSeats false
  ((given.raise (given.unresolvedReport l q)).modTerm l fun t => { t with pinDeadline := none }).returnToEmpty l

/-! ### Authorization outcomes (R113–R116, R126) -/

/-- How an AUTH exchange ends. -/
inductive AuthEnd where
  | approved (amount : Nat) (auth : BitVec 48)
  | declined (code : Code)
  | doubt (cause : UnwindCause)
deriving DecidableEq, Repr

/-- The end that a RESULT gives an AUTH exchange (R113–R115). -/
def AuthEnd.ofResult (outcome : ResultOutcome) (approved : Nat) (auth : BitVec 48) : AuthEnd :=
  match outcome with
  | .approved | .partialAmount => if approved = 0 then .declined .payDeclined else .approved approved auth
  | .declined => .declined .payDeclined
  | .customerCancel => .declined .payCustomerCancel
  | .terminalError => .doubt .terminal

/-- The tender as the end of its AUTH exchange leaves it (R113–R115, R126). -/
def Tender.authEnd (e : AuthEnd) (t : Tender) : Tender :=
  match e with
  | .approved amount auth =>
    { t with state := .authorized, approved := some (min amount t.requested), auth := some auth }
  | .declined _ => { t with state := .declined }
  | .doubt _ => { t with state := .voiding }

/-- An AUTH exchange of an order with cancel pending has ended: the voids begin, or the order is cancelled at once (R126). The
unwinding carries no cause, whatever ended the exchange (DESIGN CHOICE, notes/assumptions/52.md). -/
def State.cancelAfterAuth (s : State) (l : LaneIx) : State :=
  let s := s.modOrder l fun o => o.voidFrom .authorized
  if (s.lane l).order.anyTender .voiding then
    (s.modOrder l fun o => { o with state := .unwinding }).sendVoid l
  else s.finishCancel l

/-- An AUTH exchange ends (R113–R115, R126). -/
def State.authEnded (s : State) (l : LaneIx) (i : TenderIx) (e : AuthEnd) : State :=
  let s := s.modOrder l fun o => o.modTender i (Tender.authEnd e)
  let o := (s.lane l).order
  if o.cancelPending then s.cancelAfterAuth l
  else
    match e with
    | .approved _ _ =>
      if o.due = 0 then s.commit l
      else if (o.tender i.other).state = .authorized then
        s.unwind l (if o.lostSeats.isEmpty then .shortFinal else .seatsLost)
      else s.settleTo l .short .payShort
    | .declined code => s.settleTo l (if o.anyTender .authorized then .short else .quoted) code
    | .doubt cause =>
      ((s.modOrder l fun o => { o with state := .unwinding }).modTerm l fun t => { t with cause := some cause }).sendVoid l

/-! ### The exchange (R109, R110) -/

/-- The outstanding exchange ends and the line is IDLE, before the outcome is acted on (R109). -/
def State.endExchange (s : State) (l : LaneIx) : State :=
  s.modTerm l fun t => { t with exchange := none, line := .idle }

/-- The tag and tender index of a terminal message. -/
def TerminalRx.address : TerminalRx → Nat × Nat
  | .result tag index _ _ _ => (tag, index)
  | .captured tag index => (tag, index)
  | .voided tag index => (tag, index)

/-- A received message ends the outstanding exchange when it matches it and its type is expected; otherwise it is
discarded (R110). -/
def State.terminalMessage (s : State) (l : LaneIx) (m : TerminalRx) : State :=
  match (s.lane l).term.exchange with
  | none => s
  | some x =>
    if m.ok = true ∧ (s.lane l).term.line = .awaiting ∧ m.address = (x.msg.tag, x.msg.index.number) then
      match x.msg.kind, m with
      | .auth, .result _ _ outcome approved auth =>
        (s.endExchange l).authEnded l x.msg.index (AuthEnd.ofResult outcome approved auth)
      | .capture, .captured _ _ => (s.endExchange l).captured l x.msg.index
      | .capture, .result _ _ _ _ _ => (s.endExchange l).captureFailed l x.msg.index
      | .void, .voided _ _ => (s.endExchange l).voided l x.msg.index
      | .void, .result _ _ _ _ _ => (s.endExchange l).voidFailed l x.msg.index
      | .auth, .captured _ _ | .auth, .voided _ _ | .capture, .voided _ _ | .void, .captured _ _ => s
    else s

/-- The outstanding exchange of a kind whose deadline the house clock has reached (R110, R183). -/
def State.exchangeDue (s : State) (l : LaneIx) (k : ExchangeKind) : Option Exchange :=
  (s.lane l).term.exchange.filter fun x => x.msg.kind = k && x.deadline ≤ s.house.clock

/-! ### PAY (R112) -/

/-- The residual of a PAY refused by a check: the amount due, the quote total of a stale quote, or none (R112). -/
def Order.payResidual (o : Order) : Option Residual :=
  match o.quote with
  | none => none
  | some q => some (.number (if o.quoteCurrent then o.due else q.total))

/-- The first check of PAY that fails (R112). -/
def State.payRefusal (s : State) (l : LaneIx) (cap : Option Nat) : Option Code :=
  let o := (s.lane l).order
  if (cap.map fun c => !within 1 Config.maxTotal c).getD false then some .format
  else if o.state ≠ .quoted ∧ o.state ≠ .short then some .orderWrongState
  else if !o.quoteCurrent then some .quoteStale
  else if !s.drainClear then some .orderDraining
  else none

/-- The amount that a PAY asks for: the amount due, or the cap when it is smaller (R112). -/
def Order.payAmount (o : Order) (cap : Option Nat) : Nat :=
  match cap with
  | some c => min o.due c
  | none => o.due

/-- AUTH is sent for a PAY: its slot is taken and the order becomes PAYING (R111, R112). -/
def State.sendAuth (s : State) (l : LaneIx) (cap : Option Nat) : State :=
  let o := (s.lane l).order
  let i := o.freeSlot
  let amount := o.payAmount cap
  (s.modOrder l fun o =>
    { o.modTender i fun _ => ⟨.authorizing, amount, none, 0, none⟩ with state := .paying }).sendTerminal l .auth i amount

/-- A PAY is run (R112). -/
def State.runPay (s : State) (l : LaneIx) (cap : Option Nat) : State :=
  let o := (s.lane l).order
  match s.payRefusal l cap with
  | some c => s.endWord l (.refused c o.payResidual [])
  | none =>
    let taken := s.setPhase l .taken
    if o.quoteTotal = 0 ∨ o.lostSeats.isEmpty = false then taken.commit l else taken.sendAuth l cap

/-! ### Drain (R185, R186) -/

/-- The order states in which an order, or the claim in flight of an EMPTY one, ends when drain is latched (R186). -/
def OrderState.drains : OrderState → Bool
  | .empty | .opened | .quoted | .short => true
  | .paying | .committing | .sold | .printing | .complete | .unwinding | .unresolved => false

/-- A claim that is QUEUED is given up (R63, R186). -/
def State.giveUpQueued (s : State) (l : LaneIx) : State := if (s.lane l).claim.state = .queued then s.giveUpClaim l else s

/-- Drain is latched, and each lane's order meets it by its state at that moment (R185, R186). The HOLD of every claim that is
QUEUED then is removed before any order is cancelled, so that no RELEASE of a cancellation evicts it; the orders are then
cancelled by ascending lane, each whole (DESIGN CHOICE, notes/assumptions/54.md). -/
def State.latchDrain (s : State) : State :=
  let lanes := laneOrder.filter fun l => (s.lane l).order.state.drains
  let given := lanes.foldl State.giveUpQueued { s with house := { s.house with drain := .draining } }
  lanes.foldl (fun t l => t.cancelRefusingPick l (s.lane l).claim .orderDraining) given

end Sys2Proof.Machine
end

