-- ==== Sys2Proof/Machine/PrintOps.lean ====
section
/-! DEFINITION. The shared operations of the Print Controller: jobs, assignment, items on a printer, spoils, faults and
probes (R145–R166). -/

namespace Sys2Proof.Machine

/-! ### Jobs and items -/

/-- The print job of a lane: a lane has at most one (R153). -/
def State.jobOf (s : State) (l : LaneIx) : Option Job := s.printing.jobs.find? fun j => j.lane = l

/-- The state with the print jobs changed. -/
def State.modJobs (s : State) (f : List Job → List Job) : State :=
  { s with printing := { s.printing with jobs := f s.printing.jobs } }

/-- The state with a lane's print job changed. -/
def State.modJob (s : State) (l : LaneIx) (f : Job → Job) : State :=
  s.modJobs fun js => js.map fun j => if j.lane = l then f j else j

/-- The state with one item of a lane's print job changed. -/
def State.modPrintItem (s : State) (l : LaneIx) (k : Nat) (f : Item → Item) : State :=
  s.modJob l fun j => { j with items := j.items.modify k f }

/-- The index of a job's first item not DONE. -/
def Job.nextItem (j : Job) : Option Nat := j.items.findIdx? fun i => i.state ≠ .done

/-- The number of items not DONE. -/
def notDone (items : List Item) : Nat := items.countP fun i => i.state ≠ .done

/-- A new item: PENDING, spoil count 0, no serial (R152). -/
def Item.fresh (kind : ItemKind) (line : Option Nat) : Item := ⟨kind, line, .pending, 0, none⟩

/-- The items of a first PRINT: tickets, stubs, one receipt (R152). -/
def Order.printItems (o : Order) : List Item :=
  ((List.range o.seatLines.length).map fun i => Item.fresh .ticket (some i))
    ++ ((List.range o.voucherLines.length).map fun i => Item.fresh .stub (some i)) ++ [Item.fresh .receipt none]

/-- The items of a PRINT: those of the failed job that are not DONE, made anew, or the items of a first PRINT (R152,
R163). -/
def Order.jobItems (o : Order) : List Item :=
  match o.progress with
  | some (.failed items) => (items.filter fun i => i.state ≠ .done).map fun i => Item.fresh i.kind i.line
  | some (.finished _) | some .inQueue | none => o.printItems

/-! ### The content of an item (R156, R157) -/

/-- The start time of the screening an order names. -/
def State.orderStart (s : State) (o : Order) : Nat := ((o.code.bind s.screening).map Screening.start).getD 0

/-- The content of a TICKET of a seat line. -/
def State.ticketContent (s : State) (o : Order) (line serial : Nat) : ItemContent :=
  let v := (o.seatLines[line]?).getD ⟨⟨0, 0⟩, 0, none, false⟩
  .ticket (o.code.getD 0) (s.orderStart o) v.seat v.type (v.price.getD 0) s.cfg.station serial

/-- The expiry that a stub prints: that of its record, or the one R137 gives. -/
def State.stubExpiry (s : State) (l : LaneIx) (code : VCode) : Nat :=
  match s.record code with
  | some r => r.expiry
  | none => s.voucherExpiry l

/-- The content of a STUB of a voucher line. -/
def State.stubContent (s : State) (l : LaneIx) (line : Nat) : ItemContent :=
  let v := ((s.lane l).order.voucherLines[line]?).getD ⟨0, false, none, none, none⟩
  let code := v.code.getD ⟨s.cfg.station, 0⟩
  .stub code v.item (s.stubExpiry l code) (v.price.getD 0) (v.discount.getD 0)

/-- The tenders a receipt prints: those captured (notes/assumptions/22.md). -/
def Order.receiptTenders (o : Order) : List ReceiptTender :=
  (o.summaries.filter fun t => t.tender.state = .captured).map fun t => ⟨t.index, t.tender.captured, t.tender.auth⟩

/-- The content of a RECEIPT. -/
def State.receiptContent (s : State) (o : Order) : ItemContent :=
  let q := o.quote.getD ⟨false, 0, 0, 0, 0, 0, 0, 0, 0, 0⟩
  .receipt (o.tag.getD 0) s.cfg.station (o.seatLines.map fun v => ⟨v.seat, v.price.getD 0⟩)
    (o.voucherLines.map fun v => ⟨v.item, v.price.getD 0, v.discount.getD 0⟩) q.ticketPart q.concessionPart q.total
    q.ticketTax q.concessionTax q.taxTotal o.receiptTenders

/-- The content of an item of a lane's job at the moment of sending (R156). -/
def State.itemContent (s : State) (l : LaneIx) (i : Item) : ItemContent :=
  match i.kind with
  | .ticket => s.ticketContent (s.lane l).order (i.line.getD 0) (i.serial.getD 0)
  | .stub => s.stubContent l (i.line.getD 0)
  | .receipt => s.receiptContent (s.lane l).order

/-- A ticket that is sent without a serial draws one: it takes the counter's value, and the counter advances (R157). -/
def State.drawTicket (s : State) (l : LaneIx) (k : Nat) (i : Item) : Item × State :=
  if i.kind = .ticket ∧ i.serial = none then
    let drawn : Item := { i with serial := some s.printing.serial }
    (drawn,
      ({ s with printing := { s.printing with serial := nextSerial Config.lastTicketSerial s.printing.serial } }).modPrintItem l k
        fun _ => drawn)
  else (i, s)

/-- A lane's job sends its first item not DONE on a port: the item becomes SENT (R156). -/
def State.sendItem (s : State) (p : PortIx) (l : LaneIx) : State :=
  match s.jobOf l with
  | none => s
  | some j =>
    match j.nextItem with
    | none => s
    | some k =>
      match j.items[k]? with
      | none => s
      | some i =>
        let (i, drawn) := s.drawTicket l k i
        let sent := drawn.modPrintItem l k fun x => { x with state := .sent }
        sent.modPrinter p fun x =>
          { x with sending := some (.item ⟨l.val, k, i.spoils⟩ (sent.itemContent l i)) }

/-! ### Assignment (R153, R154) -/

/-- A job is urgent: it names a screening and the house clock has reached its start less the urgent window (R154). -/
def State.urgent (s : State) (j : Job) : Bool :=
  match j.screening with
  | some (_, start) => start ≤ s.house.clock + 60 * s.cfg.urgentWindow
  | none => false

/-- A job put among returned jobs, the one returned earliest first. -/
def insertReturned (j : Job) : List Job → List Job
  | [] => [j]
  | x :: xs => if j.returnOrder.getD 0 ≤ x.returnOrder.getD 0 then j :: x :: xs else x :: insertReturned j xs

/-- The jobs that wait, in the order in which R154 gives them a printer: returned, urgent, the rest. -/
def State.jobOrder (s : State) : List Job :=
  let returned := (s.printing.jobs.filter fun j => j.place = .returned).foldr insertReturned []
  let waiting := s.printing.jobs.filter fun j => j.place = .waiting
  returned ++ waiting.filter s.urgent ++ waiting.filter fun j => !s.urgent j

/-- An enabled printer is READY. -/
def State.isReady (s : State) (p : PortIx) : Bool := (s.printer p).enabled && (s.printer p).state = .ready

/-- The inputs of a port. -/
def State.portLines (s : State) (p : PortIx) : PortLines := s.pins.ports.get p

/-- The printer that an assignment chooses (R154). -/
def State.readyPort (s : State) : Option PortIx :=
  if s.isReady 0 then
    if s.isReady 1 ∧ (s.portLines 0).paperLow = true ∧ (s.portLines 1).paperLow = false then some 1 else some 0
  else if s.isReady 1 then some 1
  else none

/-- A job is given to a printer, and its first item not DONE is sent (R154). -/
def State.giveJob (s : State) (p : PortIx) (j : Job) : State :=
  ((s.modJob j.lane fun x => { x with place := .onPrinter p, returnOrder := none }).modPrinter p fun x =>
    { x with state := .busy, job := some j.lane }).sendItem p j.lane

/-- Pairings are made one at a time, at most `n` of them. -/
def State.assignAt (s : State) : Nat → State
  | 0 => s
  | n + 1 =>
    match s.readyPort, s.jobOrder with
    | some p, j :: _ => (s.giveJob p j).assignAt n
    | _, _ => s

/-- An assignment: each pairing makes one of the two printers BUSY, so two pairings suffice (R154). -/
def State.assign (s : State) : State := s.assignAt 2

/-- A PRINT that is taken builds its job, enters it in the queue, makes the order PRINTING, and offers the job to the
printers (R152, R154, R163). -/
def State.buildJob (s : State) (l : LaneIx) : State :=
  let o := (s.lane l).order
  let job : Job :=
    ⟨l, o.tag.getD 0, o.code.map fun c => (c, s.orderStart o), o.jobItems, .waiting, none⟩
  (((s.modOrder l fun o => { o with state := .printing, progress := some .inQueue }).modJobs fun js => js ++ [job])).assign

/-! ### The end of a job (R159, R161, R162) -/

/-- The printer's job and what it sends or awaits become absent. -/
def Printer.clear (x : Printer) : Printer := { x with job := none, sending := none, outstanding := none }

/-- A lane's job leaves the queue. -/
def State.removeJob (s : State) (l : LaneIx) : State := s.modJobs fun js => js.filter fun j => j.lane ≠ l

/-- A job whose items are all DONE ends: its printer is READY, its order COMPLETE with the attendance timer restarted, its
PRINT word completes DONE, and the printer is offered again (R159). -/
def State.endJob (s : State) (p : PortIx) (j : Job) : State :=
  (((((s.removeJob j.lane).modPrinter p fun x => { x.clear with state := .ready }).modOrder j.lane fun o =>
    { o with state := .complete, progress := some (.finished j.items) }).restartAttendance j.lane).endPrint j.lane .done).assign

/-- The return order that a job returned now takes: later than that of every job RETURNED (R161). -/
def State.nextReturn (s : State) : Nat :=
  (s.printing.jobs.filter fun j => j.place = .returned).foldl (fun n j => max n (j.returnOrder.getD 0 + 1)) 0

/-- A job whose item is spoiled leaves its printer as RETURNED and is offered again (R161). -/
def State.returnJob (s : State) (p : PortIx) (l : LaneIx) : State :=
  ((s.modPrinter p fun x => { x with job := none }).modJob l fun j =>
    { j with place := .returned, returnOrder := some s.nextReturn }).assign

/-- A job whose item is spoiled for the third time fails: the order is SOLD again and keeps the items, a PRINT-FAILED
report is raised, and the PRINT word is refused (R162). -/
def State.failJob (s : State) (p : PortIx) (j : Job) (k : Nat) (kind : ItemKind) : State :=
  let left := notDone j.items
  let sold :=
    ((s.modPrinter p fun x => { x with job := none }).removeJob j.lane).modOrder j.lane fun o =>
      { o with state := .sold, progress := some (.failed j.items) }
  (sold.raise
    { Report.of .printFailed .none with
      lane := some j.lane, tag := some j.tag, screening := j.screening.map Prod.fst, port := some p,
      figures := [k, kind.code, left] }).endPrint j.lane (.refused .printFailed (some (.number left)) [])

/-! ### Spoils (R160) -/

/-- The item that a printer's job has SENT: the job and the item's index. -/
def State.sentItem (s : State) (p : PortIx) : Option (Job × Nat) :=
  match (s.printer p).job with
  | none => none
  | some l =>
    match s.jobOf l with
    | none => none
    | some j => (j.items.findIdx? fun i => i.state = .sent).map fun k => (j, k)

/-- Steps 1 to 3 of a spoil: the item is SPOILED with its spoil counted, a ticket loses its serial, and a stub's voucher is
reissued (R160). -/
def State.spoilItem (s : State) (l : LaneIx) (k : Nat) : State :=
  let spoiled := s.modPrintItem l k fun i => { i with state := .spoiled, spoils := i.spoils + 1, serial := none }
  match (s.jobOf l).bind fun j => j.items[k]? with
  | some i => if i.kind = .stub then spoiled.reissue l (i.line.getD 0) else spoiled
  | none => spoiled

/-- Step 5 of a spoil: the job fails at its item's third spoil and is returned before that (R160). -/
def State.afterSpoil (s : State) (p : PortIx) (l : LaneIx) (k : Nat) : State :=
  match s.jobOf l with
  | none => s
  | some j =>
    match j.items[k]? with
    | none => s
    | some i => if Config.spoilLimit ≤ i.spoils then s.failJob p j k i.kind else s.returnJob p l

/-! ### Faults and probes (R147, R149–R151) -/

/-- Neither fault line of a port is asserted. -/
def State.linesClear (s : State) (p : PortIx) : Bool := !(s.portLines p).paperOut && !(s.portLines p).coverOpen

/-- A PROBE is sent to an enabled printer that is FAULTED or OFFLINE, with its lines clear and nothing outstanding
(R149). -/
def State.sendProbe (s : State) (p : PortIx) : State :=
  let x := s.printer p
  if x.enabled = true ∧ (x.state = .faulted ∨ x.state = .offline) ∧ s.linesClear p = true ∧ x.outstanding = none then
    s.modPrinter p fun x => { x with sending := some .probe }
  else s

/-- The fault flag is set with a cause, and the printer is FAULTED; what it sends or awaits is abandoned and its probe
interval stops (R147, R150, R151; notes/assumptions/25.md). -/
def Printer.setFault (c : FaultCause) (x : Printer) : Printer :=
  { x.clear with fault := true, cause := some c, state := .faulted, interval := none }

/-- The qualifier that names a fault cause. -/
def FaultCause.qual : FaultCause → ReportQual
  | .paperOut => .paperOut
  | .coverOpen => .coverOpen
  | .faultMessage => .faultMessage
  | .itemTimeout => .itemTimeout

/-- A PRINTER-FAULT report of a port, with the lane and order tag of the job spoiled, if there is one (R147). -/
def printerFault (p : PortIx) (q : ReportQual) (job : Option Job) (figures : List Nat) : Report :=
  { Report.of .printerFault q with
    port := some p, lane := job.map Job.lane, tag := job.map Job.tag, figures := figures }

/-- The item outstanding on a printer is spoiled, and its job is returned or failed (R160–R162). -/
def State.spoilOn (s : State) (p : PortIx) : State :=
  match s.sentItem p with
  | some (j, k) => (s.spoilItem j.lane k).afterSpoil p j.lane k
  | none => s

/-- The job that a printer serves. -/
def State.jobOn (s : State) (p : PortIx) : Option Job := (s.printer p).job.bind s.jobOf

/-- A printer is faulted: its outstanding item is spoiled, the flag is set, and the report is raised (R147, R151). -/
def State.faultPrinter (s : State) (p : PortIx) (c : FaultCause) (figures : List Nat) : State :=
  ((s.spoilOn p).modPrinter p (Printer.setFault c)).raise (printerFault p c.qual (s.jobOn p) figures)

/-- A fault line's cause. -/
def lineCause : FaultLine → FaultCause
  | .paperOut => .paperOut
  | .coverOpen => .coverOpen

/-- A fault line becomes asserted on an enabled port; on a FAULTED printer only an outstanding PROBE is abandoned (R147,
R149; notes/assumptions/43.md). -/
def State.faultLine (s : State) (p : PortIx) (line : FaultLine) : State :=
  if (s.printer p).enabled = false then s
  else if (s.printer p).state = .faulted then
    s.modPrinter p fun x => { x with sending := none, outstanding := none }
  else s.faultPrinter p (lineCause line) []

/-- A PAPER-LOW report of an enabled port (R148). -/
def State.paperLow (s : State) (p : PortIx) : State :=
  if (s.printer p).enabled then s.raise (printerFault p .paperLow none []) else s

/-- A port is enabled at setup: faulted or probed as its inputs stand, and its PAPER-LOW reported (R145; with both lines
asserted PAPER-OUT is taken first, notes/assumptions/44.md). -/
def State.enablePort (s : State) (p : PortIx) : State :=
  let on := s.modPrinter p fun x => { x with enabled := true }
  let met :=
    if (s.portLines p).paperOut then on.faultLine p .paperOut
    else if (s.portLines p).coverOpen then on.faultLine p .coverOpen
    else on.sendProbe p
  if (s.portLines p).paperLow then met.paperLow p else met

/-- The ports that the printer count enables (R145). With two, port 0 is enabled whole before port 1, so its reports are
raised first: R145 gives the ports no order (DESIGN CHOICE, notes/assumptions/57.md). -/
def State.enablePorts (s : State) (count : Nat) : State :=
  if count = 2 then (s.enablePort 0).enablePort 1 else s.enablePort 0

/-! ### Messages from printers (R146, R149, R151, R158) -/

/-- The message outstanding on a printer is a PROBE. -/
def Printer.probing (x : Printer) : Bool :=
  match x.outstanding with
  | some o => o.msg = .probe
  | none => false

/-- The item tag outstanding on a printer. -/
def Printer.itemTag (x : Printer) : Option ItemTag :=
  match x.outstanding with
  | some o =>
    match o.msg with
    | .item t _ => some t
    | .probe => none
  | none => none

/-- A PRESENT that answers a PROBE with the lines clear recovers the printer, which is then offered to the waiting jobs
(R149). -/
def State.present (s : State) (p : PortIx) : State :=
  let x := s.printer p
  if !x.probing then s
  else if s.linesClear p then
    let q := if x.fault then ((x.cause.map FaultCause.qual).getD .none) else .none
    ((s.modPrinter p fun x =>
        { x with fault := false, cause := none, silent := false, state := .ready, outstanding := none }).raise
      { Report.of .printerRecovered q with port := some p }).assign
  else s.modPrinter p fun x => { x with outstanding := none }

/-- The item of a job is printed: it becomes DONE with its serial kept, and a stub's record is told (R158). -/
def State.itemDone (s : State) (l : LaneIx) (k : Nat) : State :=
  let done := s.modPrintItem l k fun i => { i with state := .done }
  match (s.jobOf l).bind fun j => j.items[k]? with
  | some i =>
    if i.kind = .stub then
      match (((s.lane l).order.voucherLines[i.line.getD 0]?).bind VoucherLine.code) with
      | some code => done.stubPrinted code
      | none => done
    else done
  | none => done

/-- After a DONE the next item is sent, or the job ends (R158). -/
def State.afterDone (s : State) (p : PortIx) (l : LaneIx) : State :=
  match s.jobOf l with
  | none => s
  | some j => if j.nextItem.isSome then s.sendItem p l else s.endJob p j

/-- A DONE for the outstanding item (R146, R158). -/
def State.done (s : State) (p : PortIx) (tag : ItemTag) : State :=
  if (s.printer p).itemTag = some tag then
    match (s.printer p).job with
    | some l => ((s.modPrinter p fun x => { x with outstanding := none }).itemDone l tag.index).afterDone p l
    | none => s
  else s

/-- A FAULT message (R151). -/
def State.faultMessage (s : State) (p : PortIx) (cause : Nat) : State :=
  let x := s.printer p
  if x.state = .faulted ∧ x.probing = false then s
  else (s.faultPrinter p .faultMessage [cause]).sendProbe p

/-- A message received on a printer line, taken on an enabled port (R146). -/
def State.printerMessage (s : State) (p : PortIx) (m : PrinterRx) : State :=
  if (s.printer p).enabled then
    match m with
    | .present => s.present p
    | .done tag => s.done p tag
    | .fault _ cause => s.faultMessage p cause
  else s

/-! ### Deadlines (R150, R160) -/

/-- The outstanding message's deadline has been reached. -/
def State.printerDue (s : State) (p : PortIx) : Bool :=
  match (s.printer p).outstanding with
  | some o => o.deadline ≤ s.house.clock
  | none => false

/-- An item's deadline ends: spoiled, the printer FAULTED with ITEM-TIMEOUT and probed, the job returned or failed
(R160). -/
def State.itemTimedOut (s : State) (p : PortIx) : State :=
  match s.sentItem p with
  | none => s
  | some (j, k) =>
    let spoiled := s.spoilItem j.lane k
    let faulted := (spoiled.modPrinter p (Printer.setFault .itemTimeout)).raise (printerFault p .itemTimeout (some j) [])
    (faulted.sendProbe p).afterSpoil p j.lane k

/-- A PROBE's deadline ends: the printer is OFFLINE, the first silence is reported, and the probe interval runs (R150). -/
def State.probeTimedOut (s : State) (p : PortIx) : State :=
  let off :=
    s.modPrinter p fun x =>
      { x with
        outstanding := none, state := .offline, silent := true,
        interval := some (s.house.clock + Config.probeInterval) }
  if (s.printer p).silent then off else off.raise (printerFault p .noAnswer none [])

/-- The probe interval ends, and a new PROBE is sent when the lines are clear (R150). -/
def State.probeIntervalEnded (s : State) (p : PortIx) : State :=
  (s.modPrinter p fun x => { x with interval := none }).sendProbe p

end Sys2Proof.Machine
end

