-- ==== Sys2Proof/Machine/Settle.lean ====
section
/-! DEFINITION. What closes every step: the choice of the next notice (R24) and the DRAINED test (R188). -/

namespace Sys2Proof.Machine

/-- A settled order state of the DRAINED condition (R188). -/
def OrderState.settled : OrderState → Bool
  | .empty | .sold | .complete | .unresolved => true
  | .opened | .quoted | .paying | .short | .committing | .printing | .unwinding => false

/-- The DRAINED condition (R188). -/
def State.drainedHolds (s : State) : Bool :=
  (laneOrder.all fun l => !s.laneInUse l || (s.lane l).order.state.settled)
    && s.link.queue.isEmpty && s.link.contention.entry.isNone && s.link.overflow.isNone

/-- An order state has changed. -/
def ordersChanged (before after : State) : Bool :=
  laneOrder.any fun l => (before.lane l).order.state ≠ (after.lane l).order.state

/-- An entry has left the transmit queue or the overflow slot. -/
def entriesLeft (before after : Link) : Bool :=
  (before.queue.any fun e => !(after.queue.map Entry.id).contains e.id)
    || (before.overflow.map Entry.id).any fun i => after.overflow.map Entry.id ≠ some i

/-- A moment at which the DRAINED condition is tested has come in a step (R188; notes/assumptions/9.md). -/
def drainTested (before after : State) : Bool :=
  ordersChanged before after || entriesLeft before.link after.link || (!before.house.lock && after.house.lock)

/-- The DRAINED test of a step: in DRAINING, the first test at which the condition holds raises the report (R188). -/
def State.testDrained (s before : State) : State :=
  if s.house.drain = .draining ∧ drainTested before s = true ∧ s.drainedHolds = true then
    { s with house := { s.house with drain := .drained } }.raise (Report.of .drained .none)
  else s

/-- The end of a step: the next notice is chosen when none is in contention, and the DRAINED condition is tested
(R24, R188; notes/assumptions/8.md and 9.md). -/
def settle (before after : State) : State := (after.modLink Link.choose).testDrained before

/-- A command acts on a part that its reset input does not hold, and the step is closed (R184). -/
def State.acted (s : State) (f : State → State) : State := if s.pins.reset then s else settle s (f s)

end Sys2Proof.Machine
end

