-- ==== Sys2Proof/Machine/Timers.lean ====
section
/-! DEFINITION. The timers of seats, claims, orders and lanes: census window, PEER-HELD expiry, contest window, renewal marks
and attendance (R5, R14, R40, R52, R57–R60, R88–R91). A timer that does not run, or has not reached its end, makes the
command change nothing (notes/assumptions/1.md, 6.md and 7.md). -/

namespace Sys2Proof.Machine

/-! ### Census window (R5) -/

/-- The screening in a slot. -/
def State.slot (s : State) (i : Nat) : Option Screening := (s.slots[i]?).bind id

/-- The census window of a slot ends (R5). -/
def State.censusWindow (i : Nat) (s : State) : State :=
  match s.slot i with
  | none => s
  | some x => if x.phase = .listening ∧ x.censusTimer.isSome then s.endCensus x.code else s

/-- CENSUS WINDOW END. -/
def execCensusWindowEnd (slot : Nat) (s : State) : Host.Outcome State Fault Refusal := .next (s.acted (State.censusWindow slot))

/-! ### PEER-HELD expiry (R14) -/

/-- A PEER-HELD seat whose expiry the house clock has reached is FREE (R14). -/
def SeatState.expire (clock : Nat) : SeatState → SeatState
  | .peerHeld o e => if e ≤ clock then .free else .peerHeld o e
  | .free => .free
  | .blocked => .blocked
  | .claiming l => .claiming l
  | .held l => .held l
  | .sold o => .sold o

/-- The expiry of a seat of a slot is met (R14). -/
def State.peerExpiry (i : Nat) (r : SeatRef) (s : State) : State :=
  match s.slot i with
  | none => s
  | some x => s.mapSeats x.code [r] (SeatState.expire s.house.clock)

/-- PEER-HELD EXPIRY. -/
def execPeerHeldExpiry (slot : Nat) (seat : SeatRef) (s : State) : Host.Outcome State Fault Refusal :=
  .next (s.acted (State.peerExpiry slot seat))

/-! ### Contest window (R52) -/

/-- The contest timer of a lane runs out (R52). -/
def State.contestEnd (l : LaneIx) (s : State) : State :=
  if (s.lane l).claim.state = .contest ∧ (s.lane l).claim.contestTimer.isSome then s.confirmClaim l else s

/-- CONTEST TIMER EXPIRY. -/
def execContestTimerExpiry (lane : LaneIx) (s : State) : Host.Outcome State Fault Refusal :=
  .next (s.acted (State.contestEnd lane))

/-! ### Renewal marks (R40, R57–R60) -/

/-- The mark of a lane's renewal timer with this index, at this many milliseconds for each second of lifetime, has come at a
timebase instant and has not passed yet (R57). -/
def State.markDue (s : State) (l : LaneIx) (index perSecond instant : Nat) : Bool :=
  match (s.lane l).renewal with
  | some r => r.passed < index && r.base.instant + perSecond * s.cfg.holdLifetime ≤ instant
  | none => false

/-- A lane's renewal marks have passed up to an index. -/
def State.passMark (s : State) (l : LaneIx) (index : Nat) : State :=
  s.modLane l fun x => { x with renewal := x.renewal.map fun r => { r with passed := index } }

/-- The due mark passes (R58). -/
def State.dueMark (l : LaneIx) (instant : Nat) (s : State) : State :=
  if s.markDue l 1 500 instant then (s.passMark l 1).offerRenew l .renewNormal else s

/-- DUE MARK. -/
def execDueMark (lane : LaneIx) (instant : Nat) (s : State) : Host.Outcome State Fault Refusal :=
  .next (s.acted (State.dueMark lane instant))

/-- The queued RENEW of a lane's order becomes RENEW-demand in place (R40). -/
def State.promoteRenew (s : State) (l : LaneIx) : State :=
  match s.link.renewOf l (s.lane l).order.tag with
  | some e => s.modLink fun k => k.modEntry e.id fun x => { x with cls := .renewDemand }
  | none => s

/-- The demand mark passes (R40, R58). -/
def State.demandMark (l : LaneIx) (instant : Nat) (s : State) : State :=
  if s.markDue l 2 750 instant then (s.passMark l 2).promoteRenew l else s

/-- DEMAND MARK. -/
def execDemandMark (lane : LaneIx) (instant : Nat) (s : State) : Host.Outcome State Fault Refusal :=
  .next (s.acted (State.demandMark lane instant))

/-- The hold of an order that is not committing expires: its renewal seats become FREE with no notice and are lost to it,
and a report is raised (R59). -/
def State.expireHold (s : State) (l : LaneIx) : State :=
  let seats := s.renewalSeats l
  match (s.lane l).order.code with
  | none => s
  | some code =>
    if seats.isEmpty then s
    else
      let freed := (s.mapSeats code seats fun st => if st.heldBy l then .free else st).loseLines l seats
      freed.raise (freed.seatReport .holdExpired .none l code seats)

/-- The expiry mark passes (R59, R60). -/
def State.expiryMark (l : LaneIx) (instant : Nat) (s : State) : State :=
  if s.markDue l 3 1000 instant then
    if (s.lane l).order.state.committingOrLater then s.passMark l 3 else (s.passMark l 3).expireHold l
  else s

/-- EXPIRY MARK. -/
def execExpiryMark (lane : LaneIx) (instant : Nat) (s : State) : Host.Outcome State Fault Refusal :=
  .next (s.acted (State.expiryMark lane instant))

/-! ### Attendance (R88–R91) -/

/-- A deadline on the house clock that has been reached (R183). -/
def reached (deadline : Option Nat) (clock : Nat) : Bool :=
  match deadline with
  | some d => d ≤ clock
  | none => false

/-- A lane's attendance timer has run its full timeout (R88). -/
def State.attendanceEnd (l : LaneIx) (s : State) : State :=
  if reached (s.lane l).attendance s.house.clock then s.lapse l else s

/-- ATTENDANCE LAPSE. -/
def execAttendanceLapse (lane : LaneIx) (s : State) : Host.Outcome State Fault Refusal :=
  .next (s.acted (State.attendanceEnd lane))

end Sys2Proof.Machine
end

