-- ==== Sys2Proof/Machine/Payment.lean ====
section
/-! DEFINITION. The events of the terminal lines, the pin limit and voucher expiry (R108–R127, R139). -/

namespace Sys2Proof.Machine

/-- Messages received on a lane's terminal line; an OFF line discards them (R108). -/
def State.terminalRx (s : State) (l : LaneIx) (m : TerminalRx) : State :=
  if (s.lane l).term.line = .off then s else s.terminalMessage l m

/-- RESULT received (R110). -/
def execResultReceived (lane : LaneIx) (tag index : Nat) (outcome : ResultOutcome) (approved : Nat) (auth : BitVec 48)
    (s : State) : Host.Outcome State Fault Refusal :=
  .next (s.acted fun s => s.terminalRx lane (.result tag index outcome approved auth))

/-- CAPTURED received (R110, R118). -/
def execCapturedReceived (lane : LaneIx) (tag index : Nat) (s : State) : Host.Outcome State Fault Refusal :=
  .next (s.acted fun s => s.terminalRx lane (.captured tag index))

/-- VOIDED received (R110, R121). -/
def execVoidedReceived (lane : LaneIx) (tag index : Nat) (s : State) : Host.Outcome State Fault Refusal :=
  .next (s.acted fun s => s.terminalRx lane (.voided tag index))

/-- Bytes received on a terminal line: whatever is no good frame is discarded, and a frame that passes after all is taken
(R108; notes/assumptions/26.md). -/
def State.terminalBytes (s : State) (l : LaneIx) (bytes : List RxByte) : State :=
  ((scanFrames false .hunt bytes).filterMap readTerminal).foldl (fun s m => s.terminalRx l m) s

/-- Terminal frame discarded (R108). -/
def execTerminalFrameDiscarded (lane : LaneIx) (bytes : List RxByte) (s : State) : Host.Outcome State Fault Refusal :=
  .next (s.acted fun s => s.terminalBytes lane bytes)

/-- More than 50 ms between two bytes of a terminal frame: the frame is discarded, which changes nothing (R108). -/
def execTerminalByteGapTimeout (_lane : LaneIx) (s : State) : Host.Outcome State Fault Refusal := .next s

/-- The deadline that the opening of an exchange sets: the authorization timeout for AUTH, the capture timeout for CAPTURE
and VOID (R109). -/
def State.exchangeDeadline (s : State) : ExchangeKind → Nat
  | .auth => s.house.clock + s.cfg.authTimeout
  | .capture => s.house.clock + s.cfg.captureTimeout
  | .void => s.house.clock + s.cfg.captureTimeout

/-- The last byte of a terminal frame is sent: the exchange opens (R109). -/
def State.openExchange (s : State) (l : LaneIx) : State :=
  match (s.lane l).term.sending with
  | none => s
  | some m =>
    s.modTerm l fun t =>
      { t with line := .awaiting, sending := none, exchange := some ⟨m, s.exchangeDeadline m.kind⟩ }

/-- Terminal frame sent. -/
def execTerminalFrameSent (lane : LaneIx) (s : State) : Host.Outcome State Fault Refusal :=
  .next (s.acted fun s => s.openExchange lane)

/-- The deadline of an AUTH exchange (R110, R115). -/
def State.authTimedOut (s : State) (l : LaneIx) : State :=
  match s.exchangeDue l .auth with
  | some x => (s.endExchange l).authEnded l x.msg.index (.doubt .timeout)
  | none => s

/-- AUTH TIMEOUT. -/
def execAuthTimeout (lane : LaneIx) (s : State) : Host.Outcome State Fault Refusal :=
  .next (s.acted fun s => s.authTimedOut lane)

/-- The deadline of a CAPTURE exchange (R110, R120). -/
def State.captureTimedOut (s : State) (l : LaneIx) : State :=
  match s.exchangeDue l .capture with
  | some x => (s.endExchange l).captureFailed l x.msg.index
  | none => s

/-- CAPTURE TIMEOUT. -/
def execCaptureTimeout (lane : LaneIx) (s : State) : Host.Outcome State Fault Refusal :=
  .next (s.acted fun s => s.captureTimedOut lane)

/-- The deadline of a VOID exchange (R110, R123). -/
def State.voidTimedOut (s : State) (l : LaneIx) : State :=
  match s.exchangeDue l .void with
  | some x => (s.endExchange l).voidFailed l x.msg.index
  | none => s

/-- VOID TIMEOUT. -/
def execVoidTimeout (lane : LaneIx) (s : State) : Host.Outcome State Fault Refusal :=
  .next (s.acted fun s => s.voidTimedOut lane)

/-- The pin deadline of an UNRESOLVED order (R125). -/
def State.pinEnd (s : State) (l : LaneIx) : State :=
  if (s.lane l).order.state = .unresolved ∧ reached (s.lane l).term.pinDeadline s.house.clock = true then
    s.endUnresolved l .pinExpired
  else s

/-- PIN DEADLINE. -/
def execPinDeadline (lane : LaneIx) (s : State) : Host.Outcome State Fault Refusal := .next (s.acted fun s => s.pinEnd lane)

/-- An ISSUED record whose expiry the house clock has reached is EXPIRED (R139). -/
def VoucherRecord.expire (clock : Nat) (r : VoucherRecord) : VoucherRecord :=
  if r.status = .issued ∧ r.expiry ≤ clock then { r with status := .expired } else r

/-- VOUCHER EXPIRY. -/
def execVoucherExpiry (index : Nat) (s : State) : Host.Outcome State Fault Refusal :=
  .next (s.acted fun s => s.modRecordAt index (VoucherRecord.expire s.house.clock))

end Sys2Proof.Machine
end

