-- ==== Sys2Proof/Machine/Printers.lean ====
section
/-! DEFINITION. The events of the printer lines and the printer inputs (R145–R151, R158, R160). The inputs' levels are kept
while the reset input holds the part; nothing else happens then (R184). -/

namespace Sys2Proof.Machine

/-! ### Messages -/

/-- PRESENT received (R149). -/
def execPresentReceived (port : PortIx) (s : State) : Host.Outcome State Fault Refusal :=
  .next (s.acted fun s => s.printerMessage port .present)

/-- DONE received (R158). -/
def execDoneReceived (port : PortIx) (tag : ItemTag) (s : State) : Host.Outcome State Fault Refusal :=
  .next (s.acted fun s => s.printerMessage port (.done tag))

/-- FAULT received (R151). -/
def execFaultReceived (port : PortIx) (tag : Option ItemTag) (cause : Nat) (s : State) : Host.Outcome State Fault Refusal :=
  .next (s.acted fun s => s.printerMessage port (.fault tag cause))

/-- Bytes received on a printer line: whatever is no good frame is discarded, and a frame that passes after all is taken
(R146; notes/assumptions/26.md). -/
def State.printerBytes (s : State) (p : PortIx) (bytes : List RxByte) : State :=
  ((scanFrames true .hunt bytes).filterMap readPrinter).foldl (fun s m => s.printerMessage p m) s

/-- Printer frame discarded (R146). -/
def execPrinterFrameDiscarded (port : PortIx) (bytes : List RxByte) (s : State) : Host.Outcome State Fault Refusal :=
  .next (s.acted fun s => s.printerBytes port bytes)

/-- More than 50 ms between two bytes of a printer frame: the frame is discarded, which changes nothing (R146). -/
def execPrinterByteGapTimeout (_port : PortIx) (s : State) : Host.Outcome State Fault Refusal := .next s

/-- The last byte of a printer frame is sent: the message is outstanding, with its deadline (R146, R149, R156). -/
def State.printerSent (s : State) (p : PortIx) : State :=
  match (s.printer p).sending with
  | none => s
  | some m =>
    s.modPrinter p fun x =>
      { x with sending := none, outstanding := some ⟨m, s.house.clock + s.cfg.itemTimeout⟩ }

/-- Printer frame sent. -/
def execPrinterFrameSent (port : PortIx) (s : State) : Host.Outcome State Fault Refusal :=
  .next (s.acted fun s => s.printerSent port)

/-! ### Deadlines -/

/-- The item deadline of a port (R160). -/
def State.itemDeadline (s : State) (p : PortIx) : State :=
  if s.printerDue p ∧ (s.printer p).itemTag.isSome then s.itemTimedOut p else s

/-- ITEM TIMEOUT. -/
def execItemTimeout (port : PortIx) (s : State) : Host.Outcome State Fault Refusal :=
  .next (s.acted fun s => s.itemDeadline port)

/-- The PROBE deadline of a port (R150). -/
def State.probeDeadline (s : State) (p : PortIx) : State :=
  if s.printerDue p ∧ (s.printer p).probing = true then s.probeTimedOut p else s

/-- PROBE TIMEOUT. -/
def execProbeTimeout (port : PortIx) (s : State) : Host.Outcome State Fault Refusal :=
  .next (s.acted fun s => s.probeDeadline port)

/-- The probe interval of a port has reached its end (R150). -/
def State.intervalDue (s : State) (p : PortIx) : Bool :=
  match (s.printer p).interval with
  | some d => d ≤ s.house.clock
  | none => false

/-- The end of a port's probe interval (R150). -/
def State.intervalEnd (s : State) (p : PortIx) : State := if s.intervalDue p then s.probeIntervalEnded p else s

/-- PROBE INTERVAL END. -/
def execProbeIntervalEnd (port : PortIx) (s : State) : Host.Outcome State Fault Refusal :=
  .next (s.acted fun s => s.intervalEnd port)

/-! ### Status inputs -/

/-- The state with the input levels of a port changed. -/
def State.modLines (s : State) (p : PortIx) (f : PortLines → PortLines) : State :=
  { s with pins := { s.pins with ports := s.pins.ports.set p (f (s.pins.ports.get p)) } }

/-- The level of a fault line. -/
def PortLines.level (x : PortLines) : FaultLine → Bool
  | .paperOut => x.paperOut
  | .coverOpen => x.coverOpen

/-- The levels with a fault line's level set. -/
def PortLines.setLevel (x : PortLines) (line : FaultLine) (b : Bool) : PortLines :=
  match line with
  | .paperOut => { x with paperOut := b }
  | .coverOpen => { x with coverOpen := b }

/-- FAULT LINE ASSERTED: a line that becomes asserted faults the printer (R147). -/
def execFaultLineAsserted (port : PortIx) (line : FaultLine) (s : State) : Host.Outcome State Fault Refusal :=
  let was := (s.portLines port).level line
  .next ((s.modLines port fun x => x.setLevel line true).acted fun s => if was then s else s.faultLine port line)

/-- FAULT LINE RELEASED: the last asserted line that is released lets a PROBE be sent (R149). -/
def execFaultLineReleased (port : PortIx) (line : FaultLine) (s : State) : Host.Outcome State Fault Refusal :=
  let was := (s.portLines port).level line
  .next ((s.modLines port fun x => x.setLevel line false).acted fun s => if was then s.sendProbe port else s)

/-- PAPER-LOW ASSERTED (R148). -/
def execPaperLowAsserted (port : PortIx) (s : State) : Host.Outcome State Fault Refusal :=
  let was := (s.portLines port).paperLow
  .next ((s.modLines port fun x => { x with paperLow := true }).acted fun s => if was then s else s.paperLow port)

/-- PAPER-LOW RELEASED: no report is raised (R148). -/
def execPaperLowReleased (port : PortIx) (s : State) : Host.Outcome State Fault Refusal :=
  .next (s.modLines port fun x => { x with paperLow := false })

end Sys2Proof.Machine
end

