-- ==== Sys2Proof/Machine/Inputs.lean ====
section
/-! DEFINITION. The supply-warning and reset inputs, the house clock with the events timed to it, and
the mitigation timers (R177, R182–R185). -/

namespace Sys2Proof.Machine

/-- The state with the supply-warning level set. -/
def State.setSupply (s : State) (b : Bool) : State := { s with pins := { s.pins with supply := b } }

/-- SUPPLY-WARNING ASSERTED: drain is latched while the drain phase is CLEAR (R185). -/
def execSupplyWarningAsserted (s : State) : Host.Outcome State Fault Refusal :=
  .next ((s.setSupply true).acted fun s => if s.drainClear then s.latchDrain else s)

/-- SUPPLY-WARNING RELEASED changes nothing but the level (R185). -/
def execSupplyWarningReleased (s : State) : Host.Outcome State Fault Refusal := .next (s.setSupply false)

/-- RESET ASSERTED: every block is held in its reset state. The processor's memory, the input levels and the commands that
wait are not the part's own and are kept (R172, R184). -/
def execResetAsserted (s : State) : Host.Outcome State Fault Refusal :=
  .next
    { State.reset with
      io := ⟨Ring.reset, s.io.host⟩
      pins := { s.pins with reset := true }
      pending := s.pending }

/-- The reset input is released: the supply-warning input is read, and drain is latched when it is asserted (R178, R184). -/
def State.releaseReset (s : State) : State :=
  let s := { s with pins := { s.pins with reset := false } }
  if s.pins.supply then s.latchDrain else s

/-- RESET RELEASED. -/
def execResetReleased (s : State) : Host.Outcome State Fault Refusal := .next (if s.pins.reset then s.releaseReset else s)

/-! ### The house clock (R182, R183) -/

/-- The house clock advances by one, and wraps (R182). -/
def State.tick (s : State) : State :=
  { s with house := { s.house with clock := (s.house.clock + 1) % Config.clockModulus } }

/-- An event timed to the house clock, each the event of a row of its own (R182): PEER-HELD EXPIRY, ATTENDANCE LAPSE, AUTH,
CAPTURE and VOID TIMEOUT, PIN DEADLINE, VOUCHER EXPIRY, ITEM and PROBE TIMEOUT, PROBE INTERVAL END. -/
inductive TimedEvent where
  | peerHeld (slot : Nat) (seat : SeatRef)
  | attendance (lane : LaneIx)
  | auth (lane : LaneIx)
  | capture (lane : LaneIx)
  | void (lane : LaneIx)
  | pin (lane : LaneIx)
  | voucher (index : Nat)
  | item (port : PortIx)
  | probe (port : PortIx)
  | interval (port : PortIx)
deriving DecidableEq, Repr

/-- The row of a timed event. -/
def TimedEvent.command : TimedEvent → Instr
  | .peerHeld slot seat => .peerHeldExpiry slot seat
  | .attendance lane => .attendanceLapse lane
  | .auth lane => .authTimeout lane
  | .capture lane => .captureTimeout lane
  | .void lane => .voidTimeout lane
  | .pin lane => .pinDeadline lane
  | .voucher index => .voucherExpiry index
  | .item port => .itemTimeout port
  | .probe port => .probeTimeout port
  | .interval port => .probeIntervalEnd port

/-- The timed event of a row. -/
def timedRow : Instr → Option TimedEvent
  | .peerHeldExpiry slot seat => some (.peerHeld slot seat)
  | .attendanceLapse lane => some (.attendance lane)
  | .authTimeout lane => some (.auth lane)
  | .captureTimeout lane => some (.capture lane)
  | .voidTimeout lane => some (.void lane)
  | .pinDeadline lane => some (.pin lane)
  | .voucherExpiry index => some (.voucher index)
  | .itemTimeout port => some (.item port)
  | .probeTimeout port => some (.probe port)
  | .probeIntervalEnd port => some (.interval port)
  | _ => none

/-- The timed events whose rows stand first in a queue of commands, in their order. -/
def timedRows : List Instr → List TimedEvent
  | [] => []
  | c :: cs =>
    match timedRow c with
    | some e => e :: timedRows cs
    | none => []

/-- What a timed event does when the clock has reached its value, and nothing before that: the meaning of its own row. -/
def meetTimed : TimedEvent → State → State
  | .peerHeld slot seat => State.peerExpiry slot seat
  | .attendance lane => State.attendanceEnd lane
  | .auth lane => fun s => s.authTimedOut lane
  | .capture lane => fun s => s.captureTimedOut lane
  | .void lane => fun s => s.voidTimedOut lane
  | .pin lane => fun s => s.pinEnd lane
  | .voucher index => fun s => s.modRecordAt index (VoucherRecord.expire s.house.clock)
  | .item port => fun s => s.itemDeadline port
  | .probe port => fun s => s.probeDeadline port
  | .interval port => fun s => s.intervalEnd port

/-- The seat of a seat record that is PEER-HELD with its expiry reached (R14). -/
def dueSeat (clock slot : Nat) (p : SeatRef × SeatState) : Option TimedEvent :=
  match p.2 with
  | .peerHeld _ e => if e ≤ clock then some (.peerHeld slot p.1) else none
  | .free | .blocked | .claiming _ | .held _ | .sold _ => none

/-- The expiries of the PEER-HELD seats of a slot that the clock has reached (R14). -/
def State.dueSeats (s : State) (slot : Nat) : List TimedEvent :=
  match s.slot slot with
  | some x => x.seats.filterMap (dueSeat s.house.clock slot)
  | none => []

/-- The expiry of the voucher record at an index, when the clock has reached it (R139). -/
def State.dueVoucher (s : State) (index : Nat) : Option TimedEvent :=
  match s.vouchers.table[index]? with
  | some r => if r.status = .issued ∧ r.expiry ≤ s.house.clock then some (.voucher index) else none
  | none => none

/-- The deadlines of a lane that the clock has reached (R88, R110, R125). -/
def State.dueLane (s : State) (l : LaneIx) : List TimedEvent :=
  (if (s.exchangeDue l .auth).isSome then [.auth l] else [])
    ++ (if (s.exchangeDue l .capture).isSome then [.capture l] else [])
    ++ (if (s.exchangeDue l .void).isSome then [.void l] else [])
    ++ (if reached (s.lane l).term.pinDeadline s.house.clock then [.pin l] else [])
    ++ if reached (s.lane l).attendance s.house.clock then [.attendance l] else []

/-- The deadlines of a port that the clock has reached (R150, R160). -/
def State.duePort (s : State) (p : PortIx) : List TimedEvent :=
  (if s.printerDue p && (s.printer p).itemTag.isSome then [.item p] else [])
    ++ (if s.printerDue p && (s.printer p).probing then [.probe p] else [])
    ++ if s.intervalDue p then [.interval p] else []

/-- The timed events whose value the house clock has reached, in the order in which an advance takes those it is given no
order for (notes/assumptions/7.md). -/
def State.dueEvents (s : State) : List TimedEvent :=
  (List.range Config.slotCount).flatMap s.dueSeats ++ (List.range s.vouchers.table.length).filterMap s.dueVoucher
    ++ laneOrder.flatMap s.dueLane ++ s.duePort 0 ++ s.duePort 1

/-- Timed events one after another, each closed as a step of its own. -/
def State.takeEvents (s : State) (events : List TimedEvent) : State := events.foldl (fun s e => s.acted (meetTimed e)) s

/-- The house clock advances, and every event timed to a value it has reached happens: first those whose rows wait next in the
queue, in the queue's order, then the rest (R182, R183; notes/assumptions/7.md). -/
def State.advance (s : State) : State :=
  let met := (s.acted State.tick).takeEvents (timedRows s.pending)
  met.takeEvents met.dueEvents

/-- HOUSE-CLOCK ADVANCE: before setup the clock is stopped (R182). -/
def execHouseClockAdvance (s : State) : Host.Outcome State Fault Refusal :=
  .next (if s.house.counting then s.advance else s)

/-- MITIGATION TIMER EXPIRY (R177). -/
def execMitigationTimerExpiry (cause : MitCause) (s : State) : Host.Outcome State Fault Refusal :=
  .next (s.acted fun s => s.modRing (Ring.mitigationEnd cause))

end Sys2Proof.Machine
end

