-- ==== Sys2Proof/Machine/LinkEvents.lean ====
section
/-! DEFINITION. The events of the notice in contention: gap, collision, jam, backoff, transmit end and jabber cut-off
(R23–R31, R38, R41, R48, R57, R62, R64). -/

namespace Sys2Proof.Machine

/-- The state with the contention state changed. -/
def State.modContention (s : State) (f : Contention → Contention) : State :=
  s.modLink fun k => { k with contention := f k.contention }

/-! ### Gap, collision and backoff (R25, R26) -/

/-- The gap is complete: a notice that defers starts SENDING (R25). -/
def State.gap (s : State) : State :=
  if s.link.contention.phase = .deferring then s.modContention fun c => { c with phase := .sending } else s

/-- GAP COMPLETE. -/
def execGapComplete (s : State) : Host.Outcome State Fault Refusal := .next (s.acted State.gap)

/-- A collision while SENDING: the jam begins, and the collision count increases (R26; notes/assumptions/12.md). -/
def State.collide (s : State) : State :=
  if s.link.contention.phase = .sending then
    s.modContention fun c => { c with phase := .jamming, collisions := c.collisions + 1 }
  else s

/-- COLLISION DETECTED. -/
def execCollisionDetected (s : State) : Host.Outcome State Fault Refusal := .next (s.acted State.collide)

/-- The backoff timer runs out, and the notice defers again (R26). -/
def State.backoffEnd (s : State) : State :=
  if s.link.contention.phase = .backoff then s.modContention fun c => { c with phase := .deferring, backoff := none } else s

/-- BACKOFF EXPIRY. -/
def execBackoffExpiry (s : State) : Host.Outcome State Fault Refusal := .next (s.acted State.backoffEnd)

/-! ### How an attempt ends unsent (R28, R30, R31, R38, R41) -/

/-- The number of slots drawn after the nth collision: the draw reduced to its range (R26; notes/assumptions/11.md). -/
def backoffSlots (collisions draw : Nat) : Nat := draw % 2 ^ min collisions Config.backoffDoublings

/-- Renewal content kept aside replaces the entry's content (R38). -/
def Entry.takeKept (e : Entry) : Entry :=
  match e.kept with
  | some k => { e with notice := k.notice, kept := none }
  | none => e

/-- An entry that leaves the queue after its attempt, contention ended. -/
def State.dropEntry (s : State) (e : Entry) : State := s.modLink fun k => (k.drop e.id).idle

/-- What an owner is told when its entry was removed unsent (R31, R64). -/
def State.removedUnsent (s : State) (e : Entry) : State :=
  match e.notice with
  | .hold _ _ _ =>
    match e.lane with
    | some l => s.holdRemoved l
    | none => s
  | .renew _ _ _ | .release _ _ | .object _ _ _ | .sale _ _ | .censusCall _ | .censusReply _ _ _ _ _ | .verify _
  | .redeem _ | .voucherState _ _ _ => s

/-- An entry whose removal was asked for leaves the queue unsent (R31). -/
def State.leaveUnsent (s : State) (e : Entry) : State := ((s.dropEntry e).removedUnsent e).placeFreed

/-- The outcome of an aborted notice by its class (R41): a RENEW stays with class RENEW-demand, a SALE stays, and every
other notice leaves the queue and meets its owner. -/
def State.abortOutcome (s : State) (e : Entry) : State :=
  match e.notice with
  | .renew _ _ _ =>
    s.modLink fun k => (k.modEntry e.id fun x => { x.takeKept with cls := .renewDemand }).idle
  | .sale _ _ => s.modLink Link.idle
  | .hold _ _ _ | .release _ _ | .object _ _ _ | .censusCall _ | .censusReply _ _ _ _ _ | .verify _ | .redeem _
  | .voucherState _ _ _ => ((s.dropEntry e).noticeLost e.notice e.lane e.tag).placeFreed

/-- One more consecutive abort; the third makes an ACTIVE link DEGRADED, with a report (R23). -/
def State.countAbort (s : State) : State :=
  let counted := s.modLink fun k => { k with aborts := min Config.abortLimit (k.aborts + 1) }
  if counted.link.aborts = Config.abortLimit ∧ s.link.state = .active then
    (counted.modLink fun k => { k with state := .degraded }).raise (Report.of .linkDegraded .entered)
  else counted

/-- A backoff of k slots begins, or with k = 0 the notice defers at once; the kept content replaces the entry's (R26,
R38). -/
def State.backOff (s : State) (e : Entry) (draw : Nat) : State :=
  let slots := backoffSlots s.link.contention.collisions draw
  (s.modLink fun k => k.modEntry e.id Entry.takeKept).modContention fun c =>
    if slots = 0 then { c with phase := .deferring, backoff := none }
    else { c with phase := .backoff, backoff := some slots }

/-- The jam ends (R26, R28, R31). -/
def State.jamEnd (draw : Nat) (s : State) : State :=
  if s.link.contention.phase = .jamming then
    match s.link.current with
    | none => s
    | some e =>
      if e.leaving then s.leaveUnsent e
      else if Config.collisionLimit ≤ s.link.contention.collisions then s.countAbort.abortOutcome e
      else s.backOff e draw
  else s

/-- JAM COMPLETE. -/
def execJamComplete (draw : Nat) (s : State) : Host.Outcome State Fault Refusal := .next (s.acted (State.jamEnd draw))

/-! ### The transmit end (R29) -/

/-- A successful transmission: the abort count is 0, and a DEGRADED link is ACTIVE again, with a report (R23). -/
def State.clearAborts (s : State) : State :=
  let cleared := s.modLink fun k => { k with aborts := 0 }
  if s.link.state = .degraded then
    (cleared.modLink fun k => { k with state := .active }).raise (Report.of .linkDegraded .cleared)
  else cleared

/-- The transmit end of a RENEW moves the renewal base when its list, as it was on the pair, names every renewal seat of
the order (R57). -/
def State.renewTransmitted (s : State) (l : LaneIx) (tag : Option Nat) (seats : List SeatRef) (instant : Nat) : State :=
  if (s.lane l).order.tag = tag ∧ (s.lane l).renewal.isSome ∧ (s.renewalSeats l).all (fun r => seats.contains r) then
    s.modLane l fun x => { x with renewal := some ⟨⟨s.house.clock, instant⟩, 0⟩ }
  else s

/-- The transmit end of a SALE empties its order's renewal seats (R62). -/
def State.saleTransmitted (s : State) (l : LaneIx) (id : Nat) : State :=
  if (s.lane l).sale.map SalePending.entry = some id then (s.modLane l fun x => { x with sale := none }).renewalShrunk l
  else s

/-- The transmit end of a CENSUS-CALL starts the census window (R5). -/
def State.callTransmitted (s : State) (code : Nat) : State :=
  s.modScreening code fun x => { x with phase := .listening, censusTimer := some s.cfg.censusWindow }

/-- The transmit end is reported to the notice's owner (R29). -/
def State.transmitEnd (s : State) (e : Entry) (instant : Nat) : State :=
  match e.notice with
  | .hold _ _ _ =>
    match e.lane with
    | some l => s.holdTransmitted l instant
    | none => s
  | .renew _ _ seats =>
    match e.lane with
    | some l => s.renewTransmitted l e.tag seats instant
    | none => s
  | .sale _ _ =>
    match e.lane with
    | some l => s.saleTransmitted l e.id
    | none => s
  | .censusCall code => if e.leaving then s else s.callTransmitted code
  | .release _ _ | .object _ _ _ | .censusReply _ _ _ _ _ | .verify _ | .redeem _ | .voucherState _ _ _ => s

/-- Renewal content kept aside for a transmitted RENEW enters the queue as a new entry, the youngest, without the
admission count (R38). -/
def State.admitKept (s : State) (e : Entry) : State :=
  match e.kept with
  | some k => s.modLink fun q => q.enqueue k.notice k.cls e.lane e.tag
  | none => s

/-- The last bit of a notice is sent with no collision (R29). -/
def State.transmitted (instant : Nat) (s : State) : State :=
  if s.link.contention.phase = .sending then
    match s.link.current with
    | none => s
    | some e => ((((s.dropEntry e).clearAborts).transmitEnd e instant).admitKept e).placeFreed
  else s

/-- NOTICE TRANSMITTED. -/
def execNoticeTransmitted (instant : Nat) (s : State) : Host.Outcome State Fault Refusal :=
  .next (s.acted (State.transmitted instant))

/-! ### Jabber (R30) -/

/-- A LINK-FAULT report with the notice's screening, where it has one, and its kind (R30). -/
def jabberReport (n : Notice) : Report :=
  { Report.of .linkFault .jabber with screening := n.screening?, figures := [n.kindCode] }

/-- A transmission is cut off: the class outcome without the abort count, or the removal that was asked for; then the
report (R30, R31). -/
def State.jabber (s : State) : State :=
  if s.link.contention.phase = .sending then
    match s.link.current with
    | none => s
    | some e => (if e.leaving then s.leaveUnsent e else s.abortOutcome e).raise (jabberReport e.notice)
  else s

/-- JABBER CUT-OFF. -/
def execJabberCutoff (s : State) : Host.Outcome State Fault Refusal := .next (s.acted State.jabber)

end Sys2Proof.Machine
end

