-- ==== Sys2Proof/Machine/Requests.lean ====
section
/-! DEFINITION. The eight kinds of request: SETUP, LOAD-SCREENING, UNLOAD-SCREENING, LOAD-CATALOG, ORDER, INQUIRE, ABORT
and RESUME. Each command hands the oldest request taken from the ring to its owner. -/

namespace Sys2Proof.Machine

/-! ### SETUP (R180, R181) -/

/-- The terminal lines of the lanes below a lane count become IDLE (R108). -/
def openLines (count : Nat) (lanes : PerLane Lane) : PerLane Lane :=
  laneOrder.foldl
    (fun ls l =>
      if l.val < count then ls.set l { ls.get l with term := { (ls.get l).term with line := .idle } } else ls)
    lanes

/-- The setup record is taken: record, lock, clock, link, terminal lines and serial counters (R181). -/
def State.setRecord (s : State) (c : SetupRecord) : State :=
  { s with
    house := { s.house with record := some c, lock := true, clock := c.clockStart, counting := true }
    link := { s.link with station := some c.station, state := .active }
    lanes := openLines c.laneCount s.lanes
    vouchers := { s.vouchers with serial := c.firstVoucher }
    printing := { s.printing with serial := c.firstTicket } }

/-- The rings of the setup record come into use: cursors at 0 and every mark clear (R168). -/
def State.useRings (s : State) : State :=
  s.modRing fun r => { r with requestCursor := 0, reportCursor := 0, marks := [] }

/-- A SETUP that passes its checks (R181): the ports are enabled, the record is taken, the request completes DONE, and the
rings of the record come into use. -/
def State.applySetup (s : State) (t : TakenRequest) (c : SetupRecord) : State :=
  (((((s.enablePorts c.printerCount).setRecord c).complete t.ref (Status.plain .done).bytes).useRings).lookRing).flushReports

/-- SETUP at its owner (R180, R181). -/
def State.takeSetup (t : TakenRequest) (s : State) : State :=
  if s.house.lock then s.complete t.ref (Status.refusal .setupLocked).bytes
  else
    match readSetup t.block with
    | none => (s.complete t.ref (Status.refusal .format).bytes).lookRing
    | some c => s.applySetup t c

/-- SETUP. -/
def execSetup (s : State) : Host.Outcome State Fault Refusal := .next (s.acted fun s => s.serve .setup State.takeSetup)

/-! ### LOAD-SCREENING (R3, R4) -/

/-- A CENSUS-CALL for a loaded screening is offered: admitted, the census is CALLING; otherwise the census ends (R4, R5,
R20). -/
def State.callCensus (s : State) (code : Nat) : State :=
  match s.link.admission .censusCall with
  | .admitted =>
    (s.modScreening code fun x => { x with phase := .calling, censusTimer := none }).offer (.censusCall code) .censusCall none
      none
  | .evicting _ | .overflow | .refused => s.endCensus code

/-- The lowest-numbered free slot. -/
def State.freeSlot (s : State) : Option Nat := s.slots.findIdx? Option.isNone

/-- LOAD-SCREENING at its owner (R3, R4). -/
def State.takeLoad (t : TakenRequest) (s : State) : State :=
  match readScreening t.ref t.block with
  | none => s.complete t.ref (Status.refusal .format).bytes
  | some x =>
    if (s.screening x.code).isSome then s.complete t.ref (Status.refusal .screeningDuplicate).bytes
    else
      match s.freeSlot with
      | none => s.complete t.ref (Status.refusal .screeningNoSlot).bytes
      | some i =>
        if s.drainClear then { s with slots := s.slots.set i (some x) }.callCensus x.code
        else s.complete t.ref (Status.refusal .orderDraining).bytes

/-- LOAD-SCREENING. -/
def execLoadScreening (s : State) : Host.Outcome State Fault Refusal :=
  .next (s.acted fun s => s.serve .loadScreening State.takeLoad)

/-! ### UNLOAD-SCREENING (R6, R7, R68) -/

/-- Some lane's order, in any state but EMPTY, names the screening (R6). -/
def State.screeningInUse (s : State) (code : Nat) : Bool :=
  laneOrder.any fun l => (s.lane l).order.state ≠ .empty && (s.lane l).order.code = some code

/-- The slot of a screening is freed and its seat records are discarded (R7). -/
def State.freeScreening (s : State) (code : Nat) : State :=
  { s with slots := s.slots.map fun o => o.filter fun x => x.code ≠ code }

/-- A claim in flight ends with its slot: a QUEUED claim has its HOLD removed or waits for its attempt, a CONTEST claim is
released from its record, and the PICK is refused SCREENING/UNLOADED (R68; notes/assumptions/41.md). -/
def State.unloadClaim (s : State) (code : Nat) (l : LaneIx) : State :=
  let c := (s.lane l).claim
  if c.code ≠ code then s
  else
    let refusal : WordEnd := .refused .screeningUnloaded (seatsResidual c.seatRefs) []
    match c.state with
    | .queued => (s.giveUpClaim l).endPick l refusal
    | .contest => ((s.giveUpClaim l).offerRelease l c.tag code c.seatRefs).endPick l refusal
    | .none | .withdrawing | .confirmed => s

/-- The queued CENSUS-CALL of a screening. -/
def Link.callOf (k : Link) (code : Nat) : Option Entry :=
  k.queue.find? fun e => e.notice = .censusCall code && !e.leaving

/-- The CENSUS-CALL of a slot that is CALLING is removed from the queue (R7). -/
def State.removeCall (s : State) (x : Screening) : State :=
  if x.phase = .calling then
    match s.link.callOf x.code with
    | some e => s.removeEntry e.id
    | none => s
  else s

/-- A claim that is QUEUED ends with its slot (R68). -/
def State.unloadQueued (s : State) (code : Nat) (l : LaneIx) : State :=
  if (s.lane l).claim.state = .queued then s.unloadClaim code l else s

/-- An UNLOAD-SCREENING that passes its checks (R7, R68). The CENSUS-CALL is removed first, and the claims in flight end after
it: those that are QUEUED before those in CONTEST, so that no RELEASE of one evicts the HOLD of another, each by ascending lane
(DESIGN CHOICE, notes/assumptions/47.md). -/
def State.applyUnload (s : State) (t : TakenRequest) (x : Screening) : State :=
  let called := (s.freeScreening x.code).removeCall x
  let unheld := laneOrder.foldl (fun s l => s.unloadQueued x.code l) called
  (laneOrder.foldl (fun s l => s.unloadClaim x.code l) unheld).complete t.ref (Status.plain .done).bytes

/-- UNLOAD-SCREENING at its owner (R6, R7). -/
def State.takeUnload (t : TakenRequest) (s : State) : State :=
  match readUnload t.block with
  | none => s.complete t.ref (Status.refusal .format).bytes
  | some code =>
    match s.screening code with
    | none => s.complete t.ref (Status.refusal .screeningUnknown).bytes
    | some x =>
      if x.sync ≠ .ready then s.complete t.ref (Status.refusal .screeningSyncing).bytes
      else if s.screeningInUse code then s.complete t.ref (Status.refusal .screeningInUse).bytes
      else s.applyUnload t x

/-- UNLOAD-SCREENING. -/
def execUnloadScreening (s : State) : Host.Outcome State Fault Refusal :=
  .next (s.acted fun s => s.serve .unloadScreening State.takeUnload)

/-! ### LOAD-CATALOG (R129, R130) -/

/-- Some lane's order record holds a voucher line (R129). -/
def State.anyVoucherLine (s : State) : Bool := laneOrder.any fun l => !(s.lane l).order.voucherLines.isEmpty

/-- LOAD-CATALOG at its owner (R129, R130). -/
def State.takeCatalog (t : TakenRequest) (s : State) : State :=
  match readCatalog t.block with
  | none => s.complete t.ref (Status.refusal .format).bytes
  | some (expiry, items) =>
    if s.anyVoucherLine then s.complete t.ref (Status.refusal .catalogInUse).bytes
    else if s.drainClear then
      { s with vouchers := { s.vouchers with catalog := items, expiry := some expiry } }.complete t.ref
        (Status.plain .done).bytes
    else s.complete t.ref (Status.refusal .orderDraining).bytes

/-- LOAD-CATALOG. -/
def execLoadCatalog (s : State) : Host.Outcome State Fault Refusal :=
  .next (s.acted fun s => s.serve .loadCatalog State.takeCatalog)

/-! ### Requests of a lane (R69) -/

/-- The lane that a request names, when it lies below the lane count (R69). -/
def State.requestLane (s : State) (n : Nat) : Option LaneIx :=
  if n < s.cfg.laneCount then (if h : n < 4 then some ⟨n, h⟩ else none) else none

/-! ### ORDER (R69–R73) -/

/-- A block becomes the block in progress of a lane. -/
def State.setBlock (s : State) (l : LaneIx) (b : Block) : State := s.modLane l fun x => { x with block := some b }

/-- A malformed block under the policy of the setup record (R72). -/
def State.malformed (s : State) (l : LaneIx) (t : TakenRequest) (offset : Option Nat) (code : Code) : State :=
  let write := fun (s : State) => s.complete t.ref (s.orderStatus l .malformed offset (some code) none []).bytes
  match s.cfg.policy with
  | .lenient => write s
  | .strict =>
    match (s.lane l).order.state with
    | .empty | .committing | .sold | .printing | .complete | .unresolved => write s
    | .opened | .quoted => write (s.cancelOrder l)
    | .short | .paying | .unwinding => (s.setBlock l ⟨t.ref, 0, [], .strictWait offset code⟩).cancelOrder l

/-- A well-formed block meets the tag check, and its first word becomes the running word (R73, R74). -/
def State.beginBlock (s : State) (l : LaneIx) (t : TakenRequest) (tag : Nat) (words : List OrderWord) : State :=
  let o := (s.lane l).order
  if o.state = .empty then
    (s.modOrder l fun o => { o with tag := some tag }).setBlock l ⟨t.ref, tag, words, .running 0 .fresh⟩
  else if o.tag = some tag then s.setBlock l ⟨t.ref, tag, words, .running 0 .fresh⟩
  else s.complete t.ref (s.orderStatus l .refused none (some .orderTagMismatch) none []).bytes

/-- An ORDER on a lane within the lane count (R70–R73). -/
def State.orderOn (s : State) (l : LaneIx) (t : TakenRequest) : State :=
  match (s.lane l).block with
  | some _ => s.complete t.ref (s.orderStatus l .refused none (some .orderLaneBusy) none []).bytes
  | none =>
    match readOrderBlock t.block with
    | .malformed offset code => s.malformed l t offset code
    | .block tag words => s.beginBlock l t tag words

/-- ORDER at its owner: the attendance timer restarts, whether the request is then taken or refused (R69). -/
def State.takeOrder (t : TakenRequest) (s : State) : State :=
  match s.requestLane t.lane with
  | none => s.complete t.ref (Status.refusal .orderNoLane).bytes
  | some l => (s.restartAttendance l).orderOn l t

/-- ORDER. -/
def execOrder (s : State) : Host.Outcome State Fault Refusal := .next (s.acted fun s => s.serve .order State.takeOrder)

/-! ### INQUIRE (R85) -/

/-- The word offset of a lane's running word. -/
def State.runningOffset (s : State) (l : LaneIx) : Option Nat :=
  match (s.lane l).block with
  | some b =>
    match b.mode with
    | .running i _ => some i
    | .strictWait _ _ => none
  | none => none

/-- The claim is in flight: QUEUED, CONTEST or WITHDRAWING. -/
def ClaimState.inFlight : ClaimState → Bool
  | .queued | .contest | .withdrawing => true
  | .none | .confirmed => false

/-- The seats of a claim in flight. -/
def Claim.flightSeats (c : Claim) : List SeatRef := if c.state.inFlight then c.seatRefs else []

/-- The bits of the byte at offset 19 of a snapshot. -/
def State.snapshotBits (s : State) (l : LaneIx) : Nat :=
  let x := s.lane l
  bit x.order.lapseHeld + 2 * bit x.order.cancelPending + 4 * bit x.order.quoteCurrent + 8 * bit x.term.exchange.isSome
    + 16 * bit ((x.order.quote.map Quote.clamped).getD false) + 32 * bit x.block.isSome + 64 * bit x.order.quote.isSome

/-- The print position of a lane's job: its code, the jobs ahead or the port, and the first item not DONE (R153). With no job
in the print queue, so also after a failed one, all three are 0 (DESIGN CHOICE, notes/assumptions/51.md). -/
def State.printPosition (s : State) (l : LaneIx) : Nat × Nat × Nat :=
  match s.jobOf l with
  | none => (0, 0, 0)
  | some j =>
    let ahead := s.jobOrder.findIdx fun x => x.lane = l
    let first := j.nextItem.getD 0
    match j.place with
    | .waiting => (1, ahead, first)
    | .returned => (2, ahead, first)
    | .onPrinter p => (3, p.val, first)

/-- The attendance time left, all ones when the timer is stopped. -/
def State.attendanceLeft (s : State) (l : LaneIx) : Nat :=
  match (s.lane l).attendance with
  | some d => d - s.house.clock
  | none => 0xFFFFFFFF

/-- A quote in 32 bytes; zeros when absent. -/
def quoteBytes : Option Quote → List Byte
  | none => List.replicate 32 0
  | some q =>
    [q.ticketPart, q.voucherSum, q.totalDiscount, q.concessionPart, q.total, q.ticketTax, q.concessionTax,
      q.taxTotal].flatMap (leBytes 4)

/-- A seat line in six bytes. -/
def seatLineBytes (v : SeatLine) : List Byte :=
  seatBytes v.seat ++ [Byte.ofNat v.type, Byte.ofNat (bit v.lost)] ++ leBytes 2 (v.price.getD 0)

/-- A voucher line in twelve bytes. -/
def voucherLineBytes (v : VoucherLine) : List Byte :=
  leBytes 2 v.item ++ [Byte.ofNat (bit v.paired), 0] ++ leBytes 2 (v.price.getD 0) ++ leBytes 2 (v.discount.getD 0)
    ++ padTo 4 ((v.code.map vcodeRecordBytes).getD [])

/-- The header of an INQUIRE's status (R85; notes/assumptions/20.md). -/
def State.snapshotHeader (s : State) (l : LaneIx) : List Byte :=
  Status.header 284 (s.orderStatus l .done (s.runningOffset l) none none [])

/-- The INQUIRE snapshot from offset 16 on (11_record_layouts.md). -/
def State.snapshot (s : State) (l : LaneIx) : List Byte :=
  let x := s.lane l
  let o := x.order
  let pos := s.printPosition l
  [Byte.ofNat x.claim.state.number, Byte.ofNat x.claim.flightSeats.length, Byte.ofNat o.summaries.length,
    Byte.ofNat (s.snapshotBits l)]
  ++ leBytes 2 (o.tag.getD 0) ++ leBytes 2 (o.code.getD 0)
  ++ [Byte.ofNat ((o.screening.map ScreeningRef.slot).getD 0), Byte.ofNat o.seatLines.length,
      Byte.ofNat o.voucherLines.length, Byte.ofNat pos.1, Byte.ofNat pos.2.1, Byte.ofNat pos.2.2, 0, 0]
  ++ leBytes 4 (s.attendanceLeft l) ++ quoteBytes o.quote
  ++ padTo 60 (o.seatLines.flatMap seatLineBytes)
  ++ padTo 96 (o.voucherLines.flatMap voucherLineBytes)
  ++ padTo 40 (o.summaries.flatMap TenderSummary.bytes)
  ++ padTo 20 (seatsBytes x.claim.flightSeats)

/-- INQUIRE at its owner (R69, R85; the order of restart and snapshot is notes/assumptions/21.md). -/
def State.takeInquire (t : TakenRequest) (s : State) : State :=
  match s.requestLane t.lane with
  | none => s.complete t.ref (Status.refusal .orderNoLane).bytes
  | some l =>
    let s := s.restartAttendance l
    s.complete t.ref (s.snapshotHeader l ++ s.snapshot l)

/-- INQUIRE. -/
def execInquire (s : State) : Host.Outcome State Fault Refusal := .next (s.acted fun s => s.serve .inquire State.takeInquire)

/-! ### ABORT (R86, R87) -/

/-- A block is ended by ABORT: it is no longer in progress, the order meets the effect of R87, and the block's status is
written with the order state reached (R86). -/
def State.abortBlock (s : State) (l : LaneIx) (b : Block) : State :=
  let offset := s.runningOffset l
  let ended := (s.modLane l fun x => { x with block := none }).cancelOrder l
  ended.complete b.ref (ended.orderStatus l .aborted offset none none []).bytes

/-- ABORT at its owner (R69, R86). -/
def State.takeAbort (t : TakenRequest) (s : State) : State :=
  match s.requestLane t.lane with
  | none => s.complete t.ref (Status.refusal .orderNoLane).bytes
  | some l =>
    match (s.lane l).block with
    | none => s.complete t.ref (Status.refusal .orderNoBlock).bytes
    | some b => (s.abortBlock l b).complete t.ref (Status.plain .done).bytes

/-- ABORT. -/
def execAbort (s : State) : Host.Outcome State Fault Refusal := .next (s.acted fun s => s.serve .abort State.takeAbort)

/-! ### RESUME (R189) -/

/-- RESUME at its owner. -/
def State.takeResume (t : TakenRequest) (s : State) : State :=
  if !t.block.isEmpty then s.complete t.ref (Status.refusal .format).bytes
  else if s.pins.supply then s.complete t.ref (Status.refusal .supplyLow).bytes
  else { s with house := { s.house with drain := .clear } }.complete t.ref (Status.plain .done).bytes

/-- RESUME. -/
def execResume (s : State) : Host.Outcome State Fault Refusal := .next (s.acted fun s => s.serve .resume State.takeResume)

end Sys2Proof.Machine
end

