-- ==== Sys2Proof/Machine/Receive.lean ====
section
/-! DEFINITION. Notices received: the checks of R32 and R33, the receive filter of R34, and what each kind does to seats,
claims, orders, censuses and vouchers (R9–R21, R47–R56, R142–R144). -/

namespace Sys2Proof.Machine

/-! ### HOLD and RENEW (R9, R49, R50) -/

/-- The named seats that a lane has HELD, or CLAIMING in a CONTEST claim, in the notice's list order. -/
def State.standingSeats (s : State) (l : LaneIx) (code : Nat) (seats : List SeatRef) : List SeatRef :=
  seats.filter fun r =>
    s.seatHeld code l r || ((s.lane l).claim.state = .contest && (s.lane l).claim.code = code && s.seatClaimed code l r)

/-- The named seats that a lane has HELD, in the notice's list order. -/
def State.heldSeats (s : State) (l : LaneIx) (code : Nat) (seats : List SeatRef) : List SeatRef :=
  seats.filter (s.seatHeld code l)

/-- A lane's claim is in a state on a screening, with at least one of the named seats (R47). -/
def State.claimHit (s : State) (l : LaneIx) (st : ClaimState) (code : Nat) (seats : List SeatRef) : Bool :=
  (s.lane l).claim.state = st && (s.lane l).claim.code = code && !(s.claimNamed l seats).isEmpty

/-- The order tag that reports and notices of a lane carry. -/
def State.laneTag (s : State) (l : LaneIx) : Option Nat := (s.lane l).order.tag.or (s.lane l).claim.tag

/-- A HOLD or RENEW against a lane: a QUEUED claim it names loses, and the lane's standing seats are objected for (R49,
R50). Of one notice that does both, the claim loses first and the OBJECT is offered after it (DESIGN CHOICE,
notes/assumptions/48.md). -/
def State.holdAgainst (s : State) (sender code life : Nat) (seats : List SeatRef) (l : LaneIx) : State :=
  let objected := s.standingSeats l code seats
  let met :=
    if s.claimHit l .queued code seats then s.claimLoses l seats (.peerHeld sender (s.house.clock + life)) else s
  if objected.isEmpty then met else met.offer (.object code sender objected) .object (some l) (s.laneTag l)

/-- A seat under a HOLD or RENEW from a station (R9). -/
def SeatState.hold (sender expiry : Nat) : SeatState → SeatState
  | .free => .peerHeld sender expiry
  | .peerHeld o e => if o = sender then .peerHeld sender expiry else .peerHeld o e
  | .blocked => .blocked
  | .claiming l => .claiming l
  | .held l => .held l
  | .sold o => .sold o

/-- A kept HOLD or RENEW (R9, R47–R50). -/
def State.hold (s : State) (sender code life : Nat) (seats : List SeatRef) : State :=
  (laneOrder.foldl (fun s l => s.holdAgainst sender code life seats l) s).mapSeats code seats
    (SeatState.hold sender (s.house.clock + life))

/-! ### RELEASE (R10) -/

/-- A seat under a RELEASE from a station (R10). -/
def SeatState.release (sender : Nat) : SeatState → SeatState
  | .peerHeld o e => if o = sender then .free else .peerHeld o e
  | .free => .free
  | .blocked => .blocked
  | .claiming l => .claiming l
  | .held l => .held l
  | .sold o => .sold o

/-- A kept RELEASE (R10). -/
def State.peerRelease (s : State) (sender code : Nat) (seats : List SeatRef) : State :=
  s.mapSeats code seats (SeatState.release sender)

/-! ### OBJECT (R11, R49, R51, R53, R55, R56) -/

/-- A CONFLICT report about named seats of a lane, in plan order (R55, R56). -/
def State.conflict (s : State) (q : ReportQual) (l : LaneIx) (code : Nat) (seats : List SeatRef) : State :=
  if seats.isEmpty then s else s.raise (s.seatReport .conflict q l code (planOrder seats))

/-- HELD seats of a lane that an OBJECT naming this station, or a SALE, names: lost by an order not yet committing,
reported for one that is (R53, R55). -/
def State.takeHeld (s : State) (l : LaneIx) (code : Nat) (seats : List SeatRef) (dest : SeatState) (lost double : ReportQual) :
    State :=
  let held := s.heldSeats l code seats
  if held.isEmpty then s
  else if (s.lane l).order.state.committingOrLater then s.conflict double l code held
  else s.seatsTaken l code held dest lost

/-- An OBJECT against a lane: a QUEUED claim loses; one naming this station withdraws a CONTEST claim and takes HELD seats;
one naming another station is a divergence (R49, R51, R53, R55, R56). Of one notice that does both, the claim ends before the
HELD seats are taken (DESIGN CHOICE, notes/assumptions/49.md). -/
def State.objectAgainst (s : State) (sender code claimant : Nat) (seats : List SeatRef) (l : LaneIx) : State :=
  let dest : SeatState := .peerHeld sender (s.house.clock + s.cfg.holdLifetime)
  let met := if s.claimHit l .queued code seats then s.claimLoses l seats dest else s
  if s.link.station = some claimant then
    (if met.claimHit l .contest code seats then met.claimWithdrawn l seats dest else met).takeHeld l code seats dest .objected
      .doubleClaim
  else met.conflict .holdDivergence l code (met.standingSeats l code seats)

/-- A seat under an OBJECT from a station (R11). -/
def SeatState.object (sender expiry : Nat) : SeatState → SeatState
  | .free => .peerHeld sender expiry
  | .peerHeld _ _ => .peerHeld sender expiry
  | .blocked => .blocked
  | .claiming l => .claiming l
  | .held l => .held l
  | .sold o => .sold o

/-- A kept OBJECT (R11, R47–R56). -/
def State.object (s : State) (sender code claimant : Nat) (seats : List SeatRef) : State :=
  (laneOrder.foldl (fun s l => s.objectAgainst sender code claimant seats l) s).mapSeats code seats
    (SeatState.object sender (s.house.clock + s.cfg.holdLifetime))

/-! ### SALE (R12, R49, R51, R53, R55) -/

/-- The named seats that a PRINTING order of a lane has sold, in the notice's list order: those of its lines that are SOLD
by this station (R119, R164). -/
def State.printedSeats (s : State) (l : LaneIx) (code : Nat) (seats : List SeatRef) : List SeatRef :=
  let o := (s.lane l).order
  if o.state = .printing ∧ o.code = some code then
    seats.filter fun r => o.liveSeats.contains r && s.seat code r = some (.sold s.cfg.station)
  else []

/-- A SALE meets the seats of a lane's order: HELD seats are lost or reported (R53, R55), and the seats that a PRINTING order
has sold are reported with those it holds (R164; notes/assumptions/46.md). -/
def State.saleMeetsOrder (s : State) (sender code : Nat) (seats : List SeatRef) (l : LaneIx) : State :=
  if (s.lane l).order.state = .printing then
    s.conflict .doubleSale l code (s.heldSeats l code seats ++ s.printedSeats l code seats)
  else s.takeHeld l code seats (.sold sender) .peerSale .doubleSale

/-- A SALE against a lane: a QUEUED claim loses, a CONTEST claim is withdrawn, and the order's seats meet it (R49, R51, R53,
R55, R164). The claim meets the notice before the order's seats (DESIGN CHOICE, notes/assumptions/49.md). -/
def State.saleAgainst (s : State) (sender code : Nat) (seats : List SeatRef) (l : LaneIx) : State :=
  let met := if s.claimHit l .queued code seats then s.claimLoses l seats (.sold sender) else s
  (if met.claimHit l .contest code seats then met.claimWithdrawn l seats (.sold sender) else met).saleMeetsOrder sender code
    seats l

/-- A seat under a SALE from a station (R12). -/
def SeatState.sale (sender : Nat) : SeatState → SeatState
  | .free => .sold sender
  | .peerHeld _ _ => .sold sender
  | .blocked => .blocked
  | .claiming l => .claiming l
  | .held l => .held l
  | .sold o => .sold o

/-- A kept SALE (R12, R47–R55). -/
def State.peerSale (s : State) (sender code : Nat) (seats : List SeatRef) : State :=
  (laneOrder.foldl (fun s l => s.saleAgainst sender code seats l) s).mapSeats code seats (SeatState.sale sender)

/-! ### Census (R15–R21) -/

/-- The seats of a screening that a test picks, in plan order. -/
def Screening.seatsWhere (x : Screening) (p : SeatState → Bool) : List SeatRef :=
  (x.seats.filter fun e => p e.2).map Prod.fst

/-- The whole seconds left to a lane's own-hold deadline (R16). -/
def State.holdLeft (s : State) (l : LaneIx) : Nat :=
  match (s.lane l).renewal with
  | some r => r.base.clock + s.cfg.holdLifetime - s.house.clock
  | none => 0

/-- The HELD section of a lane for a screening, when it has a HELD seat there (R16). -/
def State.heldSection (s : State) (x : Screening) (l : LaneIx) : List Notice :=
  let seats := x.seatsWhere fun st => st.heldBy l
  if seats.isEmpty then [] else [.censusReply x.code .held s.cfg.station (s.holdLeft l) seats]

/-- The owner of a SOLD seat. -/
def SeatState.soldOwner : SeatState → Option Nat
  | .sold o => some o
  | .free | .blocked | .claiming _ | .held _ | .peerHeld _ _ => none

/-- A number put into a rising list that holds it once. -/
def insertNat (n : Nat) : List Nat → List Nat
  | [] => [n]
  | x :: xs => if n < x then n :: x :: xs else if n = x then x :: xs else x :: insertNat n xs

/-- The owners of the SOLD seats of a screening, ascending. -/
def Screening.owners (x : Screening) : List Nat :=
  (x.seats.filterMap fun e => e.2.soldOwner).foldl (fun os o => insertNat o os) []

/-- A list split into consecutive runs of at most 16, `n` of them at most. -/
def seatRuns : Nat → List SeatRef → List (List SeatRef)
  | 0, _ => []
  | n + 1, rs =>
    if rs.isEmpty then [] else rs.take Config.sectionSeats :: seatRuns n (rs.drop Config.sectionSeats)

/-- The SOLD sections of a screening: owners ascending, plan order, at most 16 seats each (R17). -/
def Screening.soldSections (x : Screening) : List Notice :=
  x.owners.flatMap fun o =>
    let seats := x.seatsWhere fun st => st.soldOwner = some o
    (seatRuns seats.length seats).map fun run => .censusReply x.code .sold o 0 run

/-- The answer to a CENSUS-CALL: HELD sections by lane, then SOLD sections (R15–R17). -/
def State.censusAnswer (s : State) (x : Screening) : List Notice :=
  laneOrder.flatMap (s.heldSection x) ++ x.soldSections

/-- A kept CENSUS-CALL: each section of the answer is offered in turn (R15). -/
def State.answerCall (s : State) (code : Nat) : State :=
  match s.screening code with
  | none => s
  | some x => (s.censusAnswer x).foldl (fun s n => s.offer n .censusReply none none) s

/-- A seat under a HELD section (R18). -/
def SeatState.censusHeld (owner clock remaining : Nat) : SeatState → SeatState
  | .free => if remaining = 0 then .free else .peerHeld owner (clock + remaining)
  | .peerHeld o e => if o = owner then .peerHeld owner (clock + remaining) else .peerHeld o e
  | .blocked => .blocked
  | .claiming l => .claiming l
  | .held l => .held l
  | .sold o => .sold o

/-- The named seats that a lane has CLAIMING or HELD, in list order (R19). -/
def State.localSeats (s : State) (l : LaneIx) (code : Nat) (seats : List SeatRef) : List SeatRef :=
  seats.filter fun r => s.seatHeld code l r || s.seatClaimed code l r

/-- The report of a census reply that contradicts seats of a lane (R19). -/
def State.divergence (s : State) (code : Nat) (seats : List SeatRef) (l : LaneIx) : State :=
  let local' := s.localSeats l code seats
  if local'.isEmpty then s else s.raise (s.seatReport .conflict .holdDivergence l code local')

/-- A kept CENSUS-REPLY (R18, R19). -/
def State.censusReply (s : State) (code : Nat) (sect : Section) (owner remaining : Nat) (seats : List SeatRef) : State :=
  match sect with
  | .held =>
    if s.link.station = some owner then s
    else
      (laneOrder.foldl (fun s l => s.divergence code seats l) s).mapSeats code seats
        (SeatState.censusHeld owner s.house.clock remaining)
  | .sold => (laneOrder.foldl (fun s l => s.divergence code seats l) s).mapSeats code seats (SeatState.sale owner)

/-- A re-census: each loaded slot that is READY and IDLE calls a census, in slot order (R20). -/
def State.recensus (s : State) : State :=
  (s.slots.filterMap id).foldl
    (fun s x => if x.sync = .ready ∧ x.phase = .idle then s.callCensus x.code else s) s

/-- One more receive error; the eighth starts a re-census (R20, R32). -/
def State.receiveError (s : State) : State :=
  if Config.receiveErrorLimit ≤ s.link.receiveErrors + 1 then
    (s.modLink fun k => { k with receiveErrors := 0 }).recensus
  else s.modLink fun k => { k with receiveErrors := k.receiveErrors + 1 }

/-! ### Duplicate station (R33) -/

/-- What the entry into MUTE does to the owner of a removed entry (R33). -/
def State.muteLoss (s : State) (e : Entry) : State :=
  match e.notice with
  | .hold _ _ _ =>
    match e.lane with
    | some l => s.claimFails l .linkMute
    | none => s
  | .censusCall code => s.endCensus code
  | .renew _ _ _ | .release _ _ | .object _ _ _ | .sale _ _ | .censusReply _ _ _ _ _ | .verify _ | .redeem _
  | .voucherState _ _ _ => s

/-- The link becomes MUTE, as one change: contention ends, every entry but SALEs is removed and meets its owner, the owed
marks are cleared, and the overflow SALE takes a freed place (R33, R37). -/
def State.mute (s : State) : State :=
  let gone := s.link.queue.filter fun e => !e.notice.isSale
  let muted :=
    s.modLink fun k =>
      { k.idle with
        state := .mute, queue := k.queue.filter fun e => e.notice.isSale, owed := ⟨false, false, false, false⟩ }
  ((gone.foldl State.muteLoss muted).modLink Link.takeOverflow)

/-- A DUPLICATE-STATION report (R33). -/
def duplicateReport (station : Nat) : Report := { Report.of .duplicateStation .none with figures := [station] }

/-- A notice with this station's own number as sender: a duplicate-station fault (R33), which counts as a receive error
(R32; notes/assumptions/30.md). -/
def State.duplicateStation (s : State) (sender : Nat) : State :=
  if s.link.state = .active ∨ s.link.state = .degraded then (s.mute.raise (duplicateReport sender)).receiveError
  else s.receiveError

/-! ### The receive filter (R34) -/

/-- The screening a notice names is loaded here. -/
def State.isLoaded (s : State) (code : Nat) : Bool := (s.screening code).isSome

/-- A notice that has passed the checks of R32 meets the receive filter, and is acted on when it is kept (R34). -/
def State.keep (s : State) (sender : Nat) : Notice → State
  | .hold code life seats => if s.isLoaded code then s.hold sender code life seats else s
  | .renew code life seats => if s.isLoaded code then s.hold sender code life seats else s
  | .release code seats => if s.isLoaded code then s.peerRelease sender code seats else s
  | .object code claimant seats => if s.isLoaded code then s.object sender code claimant seats else s
  | .sale code seats => if s.isLoaded code then s.peerSale sender code seats else s
  | .censusCall code => s.answerCall code
  | .censusReply code sect owner remaining seats =>
    if s.isLoaded code then s.censusReply code sect owner remaining seats else s
  | .verify v => if s.link.station = some v.station then s.verify v else s
  | .redeem v => if s.link.station = some v.station then s.redeem sender v else s
  | .voucherState _ _ _ => s

/-- A notice received with a good CRC: the sender, duplicate-station and form checks, in order (R32, R33). -/
def State.receive (sender : Nat) (n : Option Notice) (s : State) : State :=
  if s.link.deaf then s
  else if !stationOk sender then s.receiveError
  else if s.link.station = some sender then s.duplicateStation sender
  else
    match n.filter Notice.ok with
    | some n => s.keep sender n
    | none => s.receiveError

/-- A run of bytes received from the pair: a runt is discarded silently, a bad CRC is a receive error (R32, R191). -/
def State.receiveBytes (bytes : List Byte) (s : State) : State :=
  match readReception bytes with
  | .runt => s
  | .badCrc => if s.link.deaf then s else s.receiveError
  | .notice sender body => s.receive sender body

/-! ### The commands -/

/-- HOLD received. -/
def execHoldReceived (sender code life : Nat) (seats : List SeatRef) (s : State) : Host.Outcome State Fault Refusal :=
  .next (s.acted (State.receive sender (some (.hold code life seats))))

/-- RENEW received. -/
def execRenewReceived (sender code life : Nat) (seats : List SeatRef) (s : State) : Host.Outcome State Fault Refusal :=
  .next (s.acted (State.receive sender (some (.renew code life seats))))

/-- RELEASE received. -/
def execReleaseReceived (sender code : Nat) (seats : List SeatRef) (s : State) : Host.Outcome State Fault Refusal :=
  .next (s.acted (State.receive sender (some (.release code seats))))

/-- OBJECT received. -/
def execObjectReceived (sender code claimant : Nat) (seats : List SeatRef) (s : State) :
    Host.Outcome State Fault Refusal :=
  .next (s.acted (State.receive sender (some (.object code claimant seats))))

/-- SALE received. -/
def execSaleReceived (sender code : Nat) (seats : List SeatRef) (s : State) : Host.Outcome State Fault Refusal :=
  .next (s.acted (State.receive sender (some (.sale code seats))))

/-- CENSUS-CALL received. -/
def execCensusCallReceived (sender code : Nat) (s : State) : Host.Outcome State Fault Refusal :=
  .next (s.acted (State.receive sender (some (.censusCall code))))

/-- CENSUS-REPLY received. -/
def execCensusReplyReceived (sender code : Nat) (sect : Section) (owner remaining : Nat) (seats : List SeatRef) (s : State) :
    Host.Outcome State Fault Refusal :=
  .next (s.acted (State.receive sender (some (.censusReply code sect owner remaining seats))))

/-- VERIFY received. -/
def execVerifyReceived (sender : Nat) (voucher : VCode) (s : State) : Host.Outcome State Fault Refusal :=
  .next (s.acted (State.receive sender (some (.verify voucher))))

/-- REDEEM received. -/
def execRedeemReceived (sender : Nat) (voucher : VCode) (s : State) : Host.Outcome State Fault Refusal :=
  .next (s.acted (State.receive sender (some (.redeem voucher))))

/-- VOUCHER-STATE received. -/
def execVoucherStateReceived (sender : Nat) (voucher : VCode) (item : Nat) (answer : Answer) (s : State) :
    Host.Outcome State Fault Refusal :=
  .next (s.acted (State.receive sender (some (.voucherState voucher item answer))))

/-- A reception shorter than 8 bytes; bytes that form a notice after all are taken as one (notes/assumptions/34.md). -/
def execRuntReceived (bytes : List Byte) (s : State) : Host.Outcome State Fault Refusal :=
  .next (s.acted (State.receiveBytes bytes))

/-- A reception that fails a check of R32; bytes that pass after all are taken as a notice (notes/assumptions/34.md). -/
def execNoticeCheckFailed (bytes : List Byte) (s : State) : Host.Outcome State Fault Refusal :=
  .next (s.acted (State.receiveBytes bytes))

end Sys2Proof.Machine
end

