-- ==== Sys2Proof/Machine/Registers.lean ====
section
/-! DEFINITION. The register writes (R167–R169, R174). Each carries what the processor stored in its memory before the write
(notes/assumptions/2.md); the store reaches the memory even while the reset input holds the part, and the write has no
effect then (R184). -/

namespace Sys2Proof.Machine

/-- A write to REQUEST-KICK: before setup it sets the boot base, where the value 0 sets none and nothing is read; then the
ring in use is looked at (R168, R169; notes/assumptions/24.md). -/
def State.kick (value : BitVec 64) (s : State) : State :=
  if s.house.lock then s.lookRing
  else (s.modRing fun r => { r with bootBase := if value = 0 then none else some value.toNat }).lookRing

/-- REQUEST-KICK. -/
def execRequestKick (value : BitVec 64) (mem : List HostOp) (s : State) : Host.Outcome State Fault Refusal :=
  .next ((s.hostOps mem).acted (State.kick value))

/-- REPORT-KICK: any value makes the report ring be looked at again (R174). -/
def execReportKick (_value : BitVec 32) (mem : List HostOp) (s : State) : Host.Outcome State Fault Refusal :=
  .next ((s.hostOps mem).acted State.flushReports)

/-- A write to CAUSE (R167). -/
def State.writeCause (value : BitVec 32) (s : State) : State :=
  s.modRing fun r => { r with cause := r.cause.acknowledge value }

/-- CAUSE written. -/
def execCauseWrite (value : BitVec 32) (mem : List HostOp) (s : State) : Host.Outcome State Fault Refusal :=
  .next ((s.hostOps mem).acted (State.writeCause value))

/-- A write to MASK (R167). -/
def State.writeMask (value : BitVec 32) (s : State) : State := s.modRing fun r => { r with mask := Causes.ofValue value }

/-- MASK written. -/
def execMaskWrite (value : BitVec 32) (mem : List HostOp) (s : State) : Host.Outcome State Fault Refusal :=
  .next ((s.hostOps mem).acted (State.writeMask value))

/-- A write at any other offset of the window has no effect (R167). -/
def execOtherRegisterWrite (_offset : Nat) (_value : BitVec 32) (mem : List HostOp) (s : State) :
    Host.Outcome State Fault Refusal :=
  .next (s.hostOps mem)

end Sys2Proof.Machine
end

