-- ==== Sys2Proof/Machine/Words.lean ====
section
/-! DEFINITION. The ten order words (R44–R46, R74–R84, R93, R94, R112, R132, R133, R152). Each command runs the running word
of the lane's block when it is a word of that action that has not been run yet. -/

namespace Sys2Proof.Machine

/-- The running word of a lane, not yet run. -/
def State.freshWord (s : State) (l : LaneIx) : Option OrderWord :=
  match s.runningWord l with
  | some (w, .fresh) => some w
  | _ => none

/-- A word is refused with no residual and no offending seats (R75). -/
def State.refuseWord (s : State) (l : LaneIx) (c : Code) : State := s.endWord l (.refused c none [])

/-- The order is OPEN or QUOTED. -/
def State.openOrQuoted (s : State) (l : LaneIx) : Bool :=
  (s.lane l).order.state = .opened || (s.lane l).order.state = .quoted

/-! ### PICK (R44–R46) -/

/-- PICK. -/
def State.pickWord (l : LaneIx) (s : State) : State :=
  match s.freshWord l with
  | some (.pick code entries) => s.runPick l code entries
  | _ => s

/-- PICK. -/
def execPick (l : LaneIx) (s : State) : Host.Outcome State Fault Refusal := .next (s.acted (State.pickWord l))

/-! ### DROP (R66, R81) -/

/-- The seats that are not the seat of one of the order's lines, in the order named. -/
def Order.notInOrder (o : Order) (seats : List SeatRef) : List SeatRef :=
  seats.filter fun r => !(o.seatLines.map SeatLine.seat).contains r

/-- Check 1 of DROP. -/
def dropFormOk (seats : List SeatRef) : Bool :=
  1 ≤ seats.length && seats.length ≤ 10 && seats.all seatInRange && seatsDistinct seats

/-- A DROP that passes its checks: its seats are released in one RELEASE and their lines removed (R66, R81). -/
def State.applyDrop (s : State) (l : LaneIx) (seats : List SeatRef) : State :=
  ((((s.release l seats false).modOrder l fun o =>
    { o with seatLines := o.seatLines.filter fun v => !seats.contains v.seat }).linesChanged l).endWord l .done)

/-- A DROP is run (R81). -/
def State.runDrop (s : State) (l : LaneIx) (seats : List SeatRef) : State :=
  let o := (s.lane l).order
  if !dropFormOk seats then s.endWord l (.refused .format (seatsResidual seats) [])
  else if !s.openOrQuoted l then s.endWord l (.refused .orderWrongState (seatsResidual seats) [])
  else if (o.notInOrder seats).isEmpty then s.applyDrop l seats
  else s.endWord l (.refused .orderNotInOrder (seatsResidual seats) (o.notInOrder seats))

/-- The DROP word of a lane. -/
def State.dropWord (l : LaneIx) (s : State) : State :=
  match s.freshWord l with
  | some (.drop seats) => s.runDrop l seats
  | _ => s

/-- DROP. -/
def execDrop (l : LaneIx) (s : State) : Host.Outcome State Fault Refusal := .next (s.acted (State.dropWord l))

/-! ### SET-TYPE (R82) -/

/-- A ticket type is offered for the screening an order names. -/
def State.orderOffers (s : State) (o : Order) (type : Nat) : Bool :=
  match o.code.bind s.screening with
  | some x => x.offers type
  | none => false

/-- The line of a seat takes a new type, and its quoted price is cleared (R82). -/
def SeatLine.retype (seat : SeatRef) (type : Nat) (v : SeatLine) : SeatLine :=
  if v.seat = seat then { v with type := type, price := none } else v

/-- A SET-TYPE is run (R82). -/
def State.runSetType (s : State) (l : LaneIx) (seat : SeatRef) (type : Nat) : State :=
  let o := (s.lane l).order
  if !(seatInRange seat && type ≤ 5) then s.refuseWord l .format
  else if !s.openOrQuoted l then s.refuseWord l .orderWrongState
  else
    match o.seatLines.find? fun v => v.seat = seat with
    | none => s.endWord l (.refused .orderNotInOrder none [seat])
    | some v =>
      if !s.orderOffers o type then s.endWord l (.refused .seatTypeNotOffered none [seat])
      else if v.type = type then s.endWord l .done
      else
        (((s.modOrder l fun o => { o with seatLines := o.seatLines.map (SeatLine.retype seat type) }).linesChanged l).endWord
          l .done)

/-- The SET-TYPE word of a lane. -/
def State.setTypeWord (l : LaneIx) (s : State) : State :=
  match s.freshWord l with
  | some (.setType seat type) => s.runSetType l seat type
  | _ => s

/-- SET-TYPE. -/
def execSetType (l : LaneIx) (s : State) : Host.Outcome State Fault Refusal := .next (s.acted (State.setTypeWord l))

/-! ### ADD-VOUCHER and REMOVE-VOUCHER (R132, R133) -/

/-- Check 1 of the voucher words: item code 1–65535 and count 1–8. -/
def voucherFormOk (item count : Nat) : Bool := codeOk item && within 1 8 count

/-- A voucher line as ADD-VOUCHER adds it (R106, R132). -/
def VoucherLine.fresh (item : Nat) : VoucherLine := ⟨item, false, none, none, none⟩

/-- The first check of ADD-VOUCHER that fails (R132). -/
def State.addRefusal (s : State) (l : LaneIx) (item count : Nat) : Option Code :=
  let o := (s.lane l).order
  if !voucherFormOk item count then some .format
  else if o.state ≠ .empty ∧ s.openOrQuoted l = false then some .orderWrongState
  else if !s.drainClear then some .orderDraining
  else
    match s.item item with
    | none => some .voucherUnknown
    | some i =>
      if Config.maxVoucherLines < o.voucherLines.length + count then some .voucherLineLimit
      else if i.allotment < i.issued + i.reserved + count then some .voucherExhausted
      else none

/-- An ADD-VOUCHER that passes its checks: the count is reserved, and that many lines are appended (R132). -/
def State.applyAdd (s : State) (l : LaneIx) (item count : Nat) : State :=
  ((((s.modItem item fun i => { i with reserved := i.reserved + count }).modOrder l fun o =>
    { o with voucherLines := o.voucherLines ++ List.replicate count (VoucherLine.fresh item) }).linesChanged l).endWord l
    .done)

/-- An ADD-VOUCHER is run (R132). -/
def State.runAdd (s : State) (l : LaneIx) (item count : Nat) : State :=
  match s.addRefusal l item count with
  | some c => s.endWord l (.refused c (some (.number count)) [])
  | none => s.applyAdd l item count

/-- The ADD-VOUCHER word of a lane. -/
def State.addVoucherWord (l : LaneIx) (s : State) : State :=
  match s.freshWord l with
  | some (.addVoucher item count) => s.runAdd l item count
  | _ => s

/-- ADD-VOUCHER. -/
def execAddVoucher (l : LaneIx) (s : State) : Host.Outcome State Fault Refusal := .next (s.acted (State.addVoucherWord l))

/-- The first `n` lines of an item split off a list: those removed, and those that remain. -/
def splitLines (item : Nat) : Nat → List VoucherLine → List VoucherLine × List VoucherLine
  | _, [] => ([], [])
  | 0, vs => ([], vs)
  | n + 1, v :: vs =>
    if v.item = item then
      let (gone, left) := splitLines item n vs
      (v :: gone, left)
    else
      let (gone, left) := splitLines item (n + 1) vs
      (gone, v :: left)

/-- A REMOVE-VOUCHER that passes its checks: the most recently added lines of the item leave, and their reservations return
(R133, R134). -/
def State.applyRemove (s : State) (l : LaneIx) (item count : Nat) : State :=
  let (gone, left) := splitLines item count (s.lane l).order.voucherLines.reverse
  ((((s.returnLines gone).modOrder l fun o => { o with voucherLines := left.reverse }).linesChanged l).endWord l .done)

/-- A REMOVE-VOUCHER is run (R133). -/
def State.runRemove (s : State) (l : LaneIx) (item count : Nat) : State :=
  if !voucherFormOk item count then s.refuseWord l .format
  else if !s.openOrQuoted l then s.refuseWord l .orderWrongState
  else if (s.lane l).order.voucherLines.countP (fun v => v.item = item) < count then s.refuseWord l .orderNotInOrder
  else s.applyRemove l item count

/-- The REMOVE-VOUCHER word of a lane. -/
def State.removeVoucherWord (l : LaneIx) (s : State) : State :=
  match s.freshWord l with
  | some (.removeVoucher item count) => s.runRemove l item count
  | _ => s

/-- REMOVE-VOUCHER. -/
def execRemoveVoucher (l : LaneIx) (s : State) : Host.Outcome State Fault Refusal :=
  .next (s.acted (State.removeVoucherWord l))

/-! ### QUOTE (R93, R94) -/

/-- A QUOTE is run (R93, R94, R102, R105). -/
def State.runQuote (s : State) (l : LaneIx) : State :=
  let o := (s.lane l).order
  if !s.openOrQuoted l then s.refuseWord l .orderWrongState
  else if o.seatLines.isEmpty ∧ o.voucherLines.isEmpty then s.refuseWord l .quoteNoLines
  else if Config.maxTotal < (s.priced l).quote.total then s.refuseWord l .quoteOverLimit
  else (s.modOrder l (Order.writeQuote (s.priced l))).endWord l .done

/-- The QUOTE word of a lane. -/
def State.quoteWord (l : LaneIx) (s : State) : State :=
  match s.freshWord l with
  | some .quote => s.runQuote l
  | _ => s

/-- QUOTE. -/
def execQuote (l : LaneIx) (s : State) : Host.Outcome State Fault Refusal := .next (s.acted (State.quoteWord l))

/-! ### PAY (R112) -/

/-- The PAY word of a lane. -/
def State.payWord (l : LaneIx) (s : State) : State :=
  match s.freshWord l with
  | some (.pay cap) => s.runPay l cap
  | _ => s

/-- PAY. -/
def execPay (l : LaneIx) (s : State) : Host.Outcome State Fault Refusal := .next (s.acted (State.payWord l))

/-! ### PRINT (R152) -/

/-- A PRINT is run (R152). -/
def State.runPrint (s : State) (l : LaneIx) : State :=
  if (s.lane l).order.state = .sold then (s.setPhase l .taken).buildJob l else s.refuseWord l .orderWrongState

/-- The PRINT word of a lane. -/
def State.printWord (l : LaneIx) (s : State) : State :=
  match s.freshWord l with
  | some .print => s.runPrint l
  | _ => s

/-- PRINT. -/
def execPrint (l : LaneIx) (s : State) : Host.Outcome State Fault Refusal := .next (s.acted (State.printWord l))

/-! ### FINISH (R83) -/

/-- A FINISH is run (R83). -/
def State.runFinish (s : State) (l : LaneIx) : State :=
  match (s.lane l).order.state with
  | .complete => (s.returnToEmpty l).endWord l .done
  | .empty => s.endWord l .done
  | .opened | .quoted | .paying | .short | .committing | .sold | .printing | .unwinding | .unresolved =>
    s.refuseWord l .orderWrongState

/-- The FINISH word of a lane. -/
def State.finishWord (l : LaneIx) (s : State) : State :=
  match s.freshWord l with
  | some .finish => s.runFinish l
  | _ => s

/-- FINISH. -/
def execFinish (l : LaneIx) (s : State) : Host.Outcome State Fault Refusal := .next (s.acted (State.finishWord l))

/-! ### CANCEL (R84) -/

/-- A CANCEL is run (R84). -/
def State.runCancel (s : State) (l : LaneIx) : State :=
  match (s.lane l).order.state with
  | .empty => s.endWord l .done
  | .opened | .quoted => (s.cancelOrder l).endWord l .done
  | .short | .paying | .unwinding => (s.setPhase l .taken).cancelOrder l
  | .unresolved => (s.endUnresolved l .cancelled).endWord l .done
  | .committing | .sold | .printing | .complete => s.refuseWord l .orderWrongState

/-- The CANCEL word of a lane. -/
def State.cancelWord (l : LaneIx) (s : State) : State :=
  match s.freshWord l with
  | some .cancel => s.runCancel l
  | _ => s

/-- CANCEL. -/
def execCancel (l : LaneIx) (s : State) : Host.Outcome State Fault Refusal := .next (s.acted (State.cancelWord l))

end Sys2Proof.Machine
end

