-- ==== Sys2Proof/Machine/Dispatch.lean ====
section
/-! DEFINITION. The meaning of every command: one arm for each constructor of Instr, each one direct call. -/

namespace Sys2Proof.Machine

/-- The effect of a command on everything but the queue of waiting commands. -/
def exec (i : Instr) (s : State) : Host.Outcome State Fault Refusal :=
  match i with
  | .setup => Sys2Proof.Machine.execSetup s
  | .loadScreening => Sys2Proof.Machine.execLoadScreening s
  | .unloadScreening => Sys2Proof.Machine.execUnloadScreening s
  | .loadCatalog => Sys2Proof.Machine.execLoadCatalog s
  | .order => Sys2Proof.Machine.execOrder s
  | .inquire => Sys2Proof.Machine.execInquire s
  | .abort => Sys2Proof.Machine.execAbort s
  | .resume => Sys2Proof.Machine.execResume s
  | .pick lane => Sys2Proof.Machine.execPick lane s
  | .drop lane => Sys2Proof.Machine.execDrop lane s
  | .setType lane => Sys2Proof.Machine.execSetType lane s
  | .addVoucher lane => Sys2Proof.Machine.execAddVoucher lane s
  | .removeVoucher lane => Sys2Proof.Machine.execRemoveVoucher lane s
  | .quote lane => Sys2Proof.Machine.execQuote lane s
  | .pay lane => Sys2Proof.Machine.execPay lane s
  | .print lane => Sys2Proof.Machine.execPrint lane s
  | .finish lane => Sys2Proof.Machine.execFinish lane s
  | .cancel lane => Sys2Proof.Machine.execCancel lane s
  | .requestKick value mem => Sys2Proof.Machine.execRequestKick value mem s
  | .reportKick value mem => Sys2Proof.Machine.execReportKick value mem s
  | .causeWrite value mem => Sys2Proof.Machine.execCauseWrite value mem s
  | .maskWrite value mem => Sys2Proof.Machine.execMaskWrite value mem s
  | .otherRegisterWrite offset value mem => Sys2Proof.Machine.execOtherRegisterWrite offset value mem s
  | .holdReceived sender code life seats => Sys2Proof.Machine.execHoldReceived sender code life seats s
  | .renewReceived sender code life seats => Sys2Proof.Machine.execRenewReceived sender code life seats s
  | .releaseReceived sender code seats => Sys2Proof.Machine.execReleaseReceived sender code seats s
  | .objectReceived sender code claimant seats => Sys2Proof.Machine.execObjectReceived sender code claimant seats s
  | .saleReceived sender code seats => Sys2Proof.Machine.execSaleReceived sender code seats s
  | .censusCallReceived sender code => Sys2Proof.Machine.execCensusCallReceived sender code s
  | .censusReplyReceived sender code sect owner remaining seats => Sys2Proof.Machine.execCensusReplyReceived sender code sect owner remaining seats s
  | .verifyReceived sender voucher => Sys2Proof.Machine.execVerifyReceived sender voucher s
  | .redeemReceived sender voucher => Sys2Proof.Machine.execRedeemReceived sender voucher s
  | .voucherStateReceived sender voucher item answer => Sys2Proof.Machine.execVoucherStateReceived sender voucher item answer s
  | .runtReceived bytes => Sys2Proof.Machine.execRuntReceived bytes s
  | .noticeCheckFailed bytes => Sys2Proof.Machine.execNoticeCheckFailed bytes s
  | .gapComplete => Sys2Proof.Machine.execGapComplete s
  | .collisionDetected => Sys2Proof.Machine.execCollisionDetected s
  | .jamComplete draw => Sys2Proof.Machine.execJamComplete draw s
  | .backoffExpiry => Sys2Proof.Machine.execBackoffExpiry s
  | .noticeTransmitted instant => Sys2Proof.Machine.execNoticeTransmitted instant s
  | .jabberCutoff => Sys2Proof.Machine.execJabberCutoff s
  | .censusWindowEnd slot => Sys2Proof.Machine.execCensusWindowEnd slot s
  | .peerHeldExpiry slot seat => Sys2Proof.Machine.execPeerHeldExpiry slot seat s
  | .contestTimerExpiry lane => Sys2Proof.Machine.execContestTimerExpiry lane s
  | .dueMark lane instant => Sys2Proof.Machine.execDueMark lane instant s
  | .demandMark lane instant => Sys2Proof.Machine.execDemandMark lane instant s
  | .expiryMark lane instant => Sys2Proof.Machine.execExpiryMark lane instant s
  | .attendanceLapse lane => Sys2Proof.Machine.execAttendanceLapse lane s
  | .resultReceived lane tag index outcome approved auth => Sys2Proof.Machine.execResultReceived lane tag index outcome approved auth s
  | .capturedReceived lane tag index => Sys2Proof.Machine.execCapturedReceived lane tag index s
  | .voidedReceived lane tag index => Sys2Proof.Machine.execVoidedReceived lane tag index s
  | .terminalFrameDiscarded lane bytes => Sys2Proof.Machine.execTerminalFrameDiscarded lane bytes s
  | .terminalByteGapTimeout lane => Sys2Proof.Machine.execTerminalByteGapTimeout lane s
  | .terminalFrameSent lane => Sys2Proof.Machine.execTerminalFrameSent lane s
  | .authTimeout lane => Sys2Proof.Machine.execAuthTimeout lane s
  | .captureTimeout lane => Sys2Proof.Machine.execCaptureTimeout lane s
  | .voidTimeout lane => Sys2Proof.Machine.execVoidTimeout lane s
  | .pinDeadline lane => Sys2Proof.Machine.execPinDeadline lane s
  | .voucherExpiry index => Sys2Proof.Machine.execVoucherExpiry index s
  | .presentReceived port => Sys2Proof.Machine.execPresentReceived port s
  | .doneReceived port tag => Sys2Proof.Machine.execDoneReceived port tag s
  | .faultReceived port tag cause => Sys2Proof.Machine.execFaultReceived port tag cause s
  | .printerFrameDiscarded port bytes => Sys2Proof.Machine.execPrinterFrameDiscarded port bytes s
  | .printerByteGapTimeout port => Sys2Proof.Machine.execPrinterByteGapTimeout port s
  | .printerFrameSent port => Sys2Proof.Machine.execPrinterFrameSent port s
  | .itemTimeout port => Sys2Proof.Machine.execItemTimeout port s
  | .probeTimeout port => Sys2Proof.Machine.execProbeTimeout port s
  | .probeIntervalEnd port => Sys2Proof.Machine.execProbeIntervalEnd port s
  | .faultLineAsserted port line => Sys2Proof.Machine.execFaultLineAsserted port line s
  | .faultLineReleased port line => Sys2Proof.Machine.execFaultLineReleased port line s
  | .paperLowAsserted port => Sys2Proof.Machine.execPaperLowAsserted port s
  | .paperLowReleased port => Sys2Proof.Machine.execPaperLowReleased port s
  | .supplyWarningAsserted => Sys2Proof.Machine.execSupplyWarningAsserted s
  | .supplyWarningReleased => Sys2Proof.Machine.execSupplyWarningReleased s
  | .resetAsserted => Sys2Proof.Machine.execResetAsserted s
  | .resetReleased => Sys2Proof.Machine.execResetReleased s
  | .houseClockAdvance => Sys2Proof.Machine.execHouseClockAdvance s
  | .mitigationTimerExpiry cause => Sys2Proof.Machine.execMitigationTimerExpiry cause s

end Sys2Proof.Machine
end

