-- ==== Sys2Proof/Safety.lean ====
section
/-! DEFINITION. What the claims mean by a good state, a good step and an untouched part of the state. -/

namespace Sys2Proof.Machine

/-! ### Steps -/

/-- A command completes with this state. -/
abbrev Completes (c : Instr) (s t : State) : Prop := exec c s = .next t

/-- The part runs: its reset input does not hold it. -/
abbrev Live (s : State) : Prop := s.pins.reset = false

/-! ### What a step keeps of the screenings (R1, R2, R12) -/

/-- A seat is BLOCKED after a step exactly if it was before, and a SOLD seat keeps its owner. -/
def SeatKept (a b : SeatState) : Prop := (b = .blocked ↔ a = .blocked) ∧ ∀ o, a = .sold o → b = .sold o

/-- A loaded screening keeps the fields given at load, the seats of its plan in their order, and what SeatKept says of each
seat. -/
structure ScreeningKept (x y : Screening) : Prop where
  code : y.code = x.code
  start : y.start = x.start
  lateOffset : y.lateOffset = x.lateOffset
  surcharge : y.surcharge = x.surcharge
  band : y.band = x.band
  tiers : y.tiers = x.tiers
  types : y.types = x.types
  plan : y.plan = x.plan
  seats : List.Forall₂ (fun p q => q.1 = p.1 ∧ SeatKept p.2 q.2) x.seats y.seats

/-- A slot that is loaded before and after keeps its screening. -/
def SlotKept (a b : Option Screening) : Prop := ∀ x y, a = some x → b = some y → ScreeningKept x y

/-! ### Capacities (R20, R23, R26, R35, R38, R138, R174, R175, R182) -/

/-- The entries of the transmit queue and of the SALE overflow slot. -/
def Link.entries (k : Link) : List Entry := k.queue ++ k.overflow.toList

/-- The link keeps its capacities: 32 entries, an abort count to 3, a receive-error count below 8, a collision count to 16
that has reached 16 only in the jam that follows. Each entry has an id of its own, and only a RENEW has content kept
aside. -/
structure LinkCapacity (k : Link) : Prop where
  queue : k.queue.length ≤ Config.queueSize
  ids : (k.entries.map Entry.id).Nodup
  fresh : ∀ e ∈ k.entries, e.id < k.nextId
  kept : ∀ e ∈ k.entries, e.kept.isSome = true → e.notice.isRenew = true
  aborts : k.aborts ≤ Config.abortLimit
  receiveErrors : k.receiveErrors < Config.receiveErrorLimit
  collisions : k.contention.collisions ≤ Config.collisionLimit
  jam : k.contention.phase ≠ .jamming → k.contention.collisions < Config.collisionLimit

/-- The waiting queue holds at most 16 reports, and the dropped count stops at 65535. -/
structure RingCapacity (r : Ring) : Prop where
  waiting : r.waiting.length ≤ Config.waitingSize
  dropped : r.dropped ≤ Config.maxDropped

/-- Every queue, table and counter lies within its capacity. -/
structure Capacities (s : State) : Prop where
  link : LinkCapacity s.link
  ring : RingCapacity s.io.ring
  table : s.vouchers.table.length ≤ Config.voucherTableSize
  slots : s.slots.length = Config.slotCount
  clock : s.house.clock < Config.clockModulus

/-- From setup on, both serial counters hold a serial that may be drawn (R135, R157, R180). -/
def SerialsInRange (s : State) : Prop :=
  s.house.lock = true →
    (1 ≤ s.vouchers.serial ∧ s.vouchers.serial ≤ Config.lastVoucherSerial)
      ∧ (1 ≤ s.printing.serial ∧ s.printing.serial ≤ Config.lastTicketSerial)

/-! ### The catalog's counts (R131, R134) -/

/-- The voucher lines of an item among these that carry no voucher code. -/
def unissuedOf (lines : List VoucherLine) (item : Nat) : Nat := lines.countP fun v => v.item = item ∧ v.code = none

/-- The voucher lines of an item, across all lanes, that carry no voucher code. -/
def State.unissued (s : State) (item : Nat) : Nat :=
  (laneOrder.map fun l => unissuedOf (s.lane l).order.voucherLines item).sum

/-- The catalog's counts as R131 states them: no item twice, of each item no more issued and reserved than its allotment, and
as many reserved as all lanes hold lines of it without a code. -/
structure VoucherCounts (s : State) : Prop where
  codes : (s.vouchers.catalog.map CatalogItem.code).Nodup
  room : ∀ i ∈ s.vouchers.catalog, i.issued + i.reserved ≤ i.allotment
  reserved : ∀ i ∈ s.vouchers.catalog, i.reserved = s.unissued i.code

/-- The vouchers once these lines have left an order: each line without a code has returned its reservation (R134). -/
def Vouchers.returned (v : Vouchers) (lines : List VoucherLine) : Vouchers :=
  { v with catalog := v.catalog.map fun i => { i with reserved := i.reserved - unissuedOf lines i.code } }

/-! ### What a lane's step keeps of the other lanes (R63) -/

/-- A seat HELD by a lane other than `k` stays HELD by it. -/
def HeldKept (k : LaneIx) (a b : SeatState) : Prop := ∀ m, m ≠ k → a = .held m → b = .held m

/-- What an event of lane `k` leaves of every other lane: its order record, attendance timer, renewal timer, pending SALE
and Tender Controller, and the seats it holds. -/
structure OthersKept (k : LaneIx) (s t : State) : Prop where
  order : ∀ m, m ≠ k → (t.lane m).order = (s.lane m).order
  attendance : ∀ m, m ≠ k → (t.lane m).attendance = (s.lane m).attendance
  renewal : ∀ m, m ≠ k → (t.lane m).renewal = (s.lane m).renewal
  sale : ∀ m, m ≠ k → (t.lane m).sale = (s.lane m).sale
  term : ∀ m, m ≠ k → (t.lane m).term = (s.lane m).term
  seats : List.Forall₂
    (fun o o' => ∀ x, o = some x → ∃ y, o' = some y ∧ y.code = x.code
      ∧ List.Forall₂ (fun p q => q.1 = p.1 ∧ HeldKept k p.2 q.2) x.seats y.seats) s.slots t.slots

end Sys2Proof.Machine

namespace Sys2Proof

/-- The events of one lane: its order words, the timers of its claim, order and attendance, and its terminal line. -/
def Instr.ofLane (k : LaneIx) : Instr → Prop
  | .pick l | .drop l | .setType l | .addVoucher l | .removeVoucher l | .quote l | .pay l | .print l | .finish l | .cancel l
  | .contestTimerExpiry l | .dueMark l _ | .demandMark l _ | .expiryMark l _ | .attendanceLapse l
  | .resultReceived l _ _ _ _ _ | .capturedReceived l _ _ | .voidedReceived l _ _ | .terminalFrameDiscarded l _
  | .terminalByteGapTimeout l | .terminalFrameSent l | .authTimeout l | .captureTimeout l | .voidTimeout l
  | .pinDeadline l => l = k
  | _ => False

/-- The levels of the inputs after a command that is no change of the reset input (R147, R148, R185). -/
def Instr.levels (c : Instr) (p : Machine.Pins) : Machine.Pins :=
  match c with
  | .supplyWarningAsserted => { p with supply := true }
  | .supplyWarningReleased => { p with supply := false }
  | .faultLineAsserted i .paperOut => { p with ports := p.ports.set i { p.ports.get i with paperOut := true } }
  | .faultLineAsserted i .coverOpen => { p with ports := p.ports.set i { p.ports.get i with coverOpen := true } }
  | .faultLineReleased i .paperOut => { p with ports := p.ports.set i { p.ports.get i with paperOut := false } }
  | .faultLineReleased i .coverOpen => { p with ports := p.ports.set i { p.ports.get i with coverOpen := false } }
  | .paperLowAsserted i => { p with ports := p.ports.set i { p.ports.get i with paperLow := true } }
  | .paperLowReleased i => { p with ports := p.ports.set i { p.ports.get i with paperLow := false } }
  | _ => p

end Sys2Proof

namespace Sys2Proof.Machine

/-- The commands complete one after another, from `s` to `t`. -/
def RunsTo : List Instr → State → State → Prop
  | [], s, t => t = s
  | c :: cs, s, t => ∃ u, Completes c s u ∧ RunsTo cs u t

/-! ### The close of a step -/

/-- Nothing but what closes a step has changed from `m` to `t`: the notice in contention may have been chosen (R24), and
with drain latched the DRAINED report may have been raised (R188). -/
structure ClosedFrom (m t : State) : Prop where
  slots : t.slots = m.slots
  lanes : t.lanes = m.lanes
  vouchers : t.vouchers = m.vouchers
  printing : t.printing = m.printing
  pins : t.pins = m.pins
  pending : t.pending = m.pending
  link : t.link = { m.link with contention := t.link.contention }
  contention : m.link.contention.phase ≠ .idle → t.link.contention = m.link.contention
  house : t.house = { m.house with drain := t.house.drain }
  io : m.house.drain ≠ .draining → t.io = m.io ∧ t.house.drain = m.house.drain

/-- A command completes, and its own effect is the change from `s` to `m`: the state after it is `m` with the step closed, the
next notice chosen and the DRAINED condition tested (settle), which leaves the rest of `m` as it is. -/
def Effects (c : Instr) (s m : State) : Prop := ∃ t, Completes c s t ∧ t = settle s m ∧ ClosedFrom m t

/-! ### Order words (R77) -/

/-- The order states in which an action is taken (R77, the table). -/
def OrderWord.takenIn : OrderWord → List OrderState
  | .pick _ _ => [.empty, .opened, .quoted]
  | .drop _ | .setType _ _ | .removeVoucher _ _ => [.opened, .quoted]
  | .addVoucher _ _ => [.empty, .opened, .quoted]
  | .quote => [.opened, .quoted]
  | .pay _ => [.quoted, .short]
  | .print => [.sold]
  | .finish => [.empty, .complete]
  | .cancel => [.empty, .opened, .quoted, .paying, .short, .unwinding, .unresolved]

/-- The format check that comes before a word's state check (R44, R81, R82, R112, R132, R133). -/
def OrderWord.formOk : OrderWord → Bool
  | .pick code entries =>
    codeOk code && 1 ≤ entries.length && entries.length ≤ 10 && entries.all (fun e => seatInRange e.seat && e.type ≤ 5)
      && seatsDistinct (entries.map ClaimSeat.seat)
  | .drop seats => 1 ≤ seats.length && seats.length ≤ 10 && seats.all seatInRange && seatsDistinct seats
  | .setType seat type => seatInRange seat && type ≤ 5
  | .addVoucher item count | .removeVoucher item count => codeOk item && 1 ≤ count && count ≤ 8
  | .pay (some cap) => 1 ≤ cap && cap ≤ 999999
  | .pay none | .quote | .print | .finish | .cancel => true

/-- The residual of a word refused by its format or state check: the seats of PICK and DROP, the count of ADD-VOUCHER, and
for PAY the amount due or the total of a stale quote (R44, R81, R112, R132). -/
def OrderWord.residual (o : Order) : OrderWord → Option Residual
  | .pick _ entries => seatsResidual (entries.map ClaimSeat.seat)
  | .drop seats => seatsResidual seats
  | .addVoucher _ count => some (.number count)
  | .pay _ => o.quote.map fun q => .number (if o.quoteCurrent then q.total - o.authorized else q.total)
  | .setType _ _ | .removeVoucher _ _ | .quote | .print | .finish | .cancel => none

/-- The command that runs a word on a lane. -/
def OrderWord.command (l : LaneIx) : OrderWord → Instr
  | .pick _ _ => .pick l
  | .drop _ => .drop l
  | .setType _ _ => .setType l
  | .addVoucher _ _ => .addVoucher l
  | .removeVoucher _ _ => .removeVoucher l
  | .quote => .quote l
  | .pay _ => .pay l
  | .print => .print l
  | .finish => .finish l
  | .cancel => .cancel l

/-- A PICK completes by being refused with a code and its offending seats, every seat of it the residual (R44). -/
def PickRefusedWith (s : State) (l : LaneIx) (entries : List ClaimSeat) (c : Code) (bad : List SeatRef) : Prop :=
  Effects (.pick l) s (s.endWord l (.refused c (seatsResidual (entries.map ClaimSeat.seat)) bad))

/-! ### Notices received (R32, R34) -/

/-- The part hears a notice from this sender: it is not OFF, SENDING or JAMMING, and the sender is another station (R32,
R33). -/
structure Hears (s : State) (sender : Nat) : Prop where
  on : s.link.state ≠ .off
  sending : s.link.contention.phase ≠ .sending
  jamming : s.link.contention.phase ≠ .jamming
  range : 1 ≤ sender ∧ sender ≤ 250
  other : s.link.station ≠ some sender

/-- None of the named seats is CLAIMING or HELD here. -/
def NoLocalSeat (s : State) (code : Nat) (seats : List SeatRef) : Prop :=
  ∀ r ∈ seats, ∀ l, s.seat code r ≠ some (.claiming l) ∧ s.seat code r ≠ some (.held l)

/-- The screening with each of the named seats given by `f`, every other field and seat record as it was. -/
def Screening.withSeats (x : Screening) (seats : List SeatRef) (f : SeatState → SeatState) : Screening :=
  { x with seats := x.seats.map fun p => (p.1, if p.1 ∈ seats then f p.2 else p.2) }

/-- The state with each of the named seats of the loaded screening of a code given by `f`, and nothing else changed. -/
def State.withSeats (s : State) (code : Nat) (seats : List SeatRef) (f : SeatState → SeatState) : State :=
  { s with
    slots :=
      s.slots.map fun (o : Option Screening) => o.map fun (x : Screening) =>
        if x.code = code then x.withSeats seats f else x }

/-- Nothing has changed from `s` to `m` but the named seats of a screening, each of which has become what `f` gives: `m` is
`s` with those seats replaced, every other field of every slot among what is kept; and what that says of each seat that is
looked up. -/
structure SeatsBecome (s m : State) (code : Nat) (seats : List SeatRef) (f : SeatState → SeatState) : Prop where
  rest : m = s.withSeats code seats f
  seats : ∀ r, m.seat code r = (s.seat code r).map fun st => if r ∈ seats then f st else st
  others : ∀ c r, c ≠ code → m.seat c r = s.seat c r

/-- Every named seat is HELD by the lane. -/
def AllHeld (s : State) (l : LaneIx) (code : Nat) (seats : List SeatRef) : Prop := ∀ r ∈ seats, s.seat code r = some (.held l)

/-- Every slot keeps all but its seat records: what was loaded, the sync state, the census and the request. -/
def SlotsKept (s m : State) : Prop :=
  m.slots.map (fun (o : Option Screening) => o.map fun x => { x with seats := [] })
    = s.slots.map fun (o : Option Screening) => o.map fun x => { x with seats := [] }

/-- Every seat of every loaded screening is as it was, and so is all else that a slot holds. -/
def SeatsAlike (s m : State) : Prop := SlotsKept s m ∧ ∀ c r, m.seat c r = s.seat c r

/-- A new entry of the transmit queue, its youngest. -/
def Link.withEntry (k : Link) (n : Notice) (cls : Class) (l : Option LaneIx) (tag : Option Nat) : Link :=
  { k with queue := k.queue ++ [⟨k.nextId, n, cls, l, tag, false, none⟩], nextId := k.nextId + 1 }

/-- The link without an entry, and with contention ended where that entry was the notice in contention (R31). -/
def Link.without (k : Link) (id : Nat) : Link :=
  { k with
    queue := k.queue.filter fun x => x.id ≠ id
    contention := if k.contention.entry = some id then Contention.none else k.contention }

/-- An entry that a newcomer of a class may evict: it ranks below the newcomer, and is neither a SALE nor the notice in
contention (R36). -/
def Evictable (k : Link) (cls : Class) (x : Entry) : Prop :=
  cls.rank < x.cls.rank ∧ x.cls ≠ .sale ∧ k.contention.entry ≠ some x.id

/-- Every named seat is CLAIMING by the lane's CONTEST claim. -/
def InContest (s : State) (l : LaneIx) (code : Nat) (seats : List SeatRef) : Prop :=
  (s.lane l).claim.state = .contest ∧ (s.lane l).claim.code = code ∧ ∀ r ∈ seats, s.seat code r = some (.claiming l)

/-- No PRINTING order's line names one of the seats. -/
def NoPrintingSeat (s : State) (seats : List SeatRef) : Prop :=
  ∀ k, (s.lane k).order.state = .printing → ∀ v ∈ (s.lane k).order.seatLines, v.seat ∉ seats

/-- The queue takes an entry of any class without an eviction: the link is ACTIVE or DEGRADED, with fewer than 24 entries
queued (R35). -/
def QueueOpen (k : Link) : Prop := (k.state = .active ∨ k.state = .degraded) ∧ k.queue.length < 24

/-- The seats that a SOLD section of one owner names. -/
def soldSeatsOf (owner : Nat) : Notice → List SeatRef
  | .censusReply _ .sold o _ seats => if o = owner then seats else []
  | _ => []

/-- No place of the transmit queue is waited for: no SALE in the overflow slot and no renewal owed (R37, R39). -/
def NothingOwed (k : Link) : Prop := k.overflow = none ∧ ∀ l, k.owed.get l = false

/-- No printer is ready for a job (R154). -/
def NoneReady (s : State) : Prop := ∀ p, (s.printer p).enabled = false ∨ (s.printer p).state ≠ .ready

/-! ### The end of a payment step (R90, R119, R122, R186) -/

/-- The lowest-indexed tender of the order in a state is this one (R118, R121). -/
def Order.lowest (o : Order) (st : TenderState) (i : TenderIx) : Prop :=
  (o.tender i).state = st ∧ (i = .two → o.tender1.state ≠ st)

/-- Lane `l`'s order offers the SALE of its seats in plan order, and keeps the entry and the seats of it until its transmit end;
an order without a seat line offers none (R62, R119). -/
def State.withSale (s : State) (l : LaneIx) (seats : List SeatRef) : State :=
  if seats = [] then s
  else
    (s.modLane l fun x => { x with sale := some ⟨s.link.nextId, planOrder seats⟩ }).offer
      (.sale ((s.lane l).order.code.getD 0) (planOrder seats)) .sale (some l) (s.lane l).order.tag

/-- Lane `l`'s order has become SOLD, in the steps of R119: its state; each seat of its lines that it held, SOLD by the own
station; its SALE; its voucher lines issued; and the PAY word that runs ended DONE. A held lapse is then cleared (R90). -/
def SoldTo (s : State) (l : LaneIx) (m : State) : Prop :=
  ∃ (u issued : State) (seats : List SeatRef), seats = (s.lane l).order.seatLines.map SeatLine.seat
    ∧ SeatsBecome (s.modLane l fun y => { y with order := { y.order with state := .sold } }) u
      ((s.lane l).order.code.getD 0) seats (fun st => if st = .held l then .sold s.cfg.station else st)
    ∧ issued = (u.withSale l seats).issueVouchers l
    ∧ ∀ cleared : State → State, cleared = (fun v => v.modLane l fun y => { y with order := { y.order with lapseHeld := false } }) →
      (∀ cap, s.runningWord l = some (.pay cap, .taken) → m = cleared (issued.endWord l .done))
        ∧ ((∀ cap, s.runningWord l ≠ some (.pay cap, .taken)) → m = cleared issued)

/-- The PAYMENT-UNRESOLVED report of lane `l`'s order as it stands, with each tender it has used (R124, R125). -/
def State.unresolvedAs (s : State) (l : LaneIx) (q : ReportQual) : Report :=
  ⟨.paymentUnresolved, q, some l, (s.lane l).order.tag, (s.lane l).order.code, none, none, [], none,
    ([⟨.one, (s.lane l).order.tender1⟩, ⟨.two, (s.lane l).order.tender2⟩] : List TenderSummary).filter fun t =>
      t.tender.state ≠ .none, []⟩

/-- The fields of an order that is UNWINDING from SHORT because it is cancelled (R80). -/
def Order.cancelledShort (o : Order) : Order :=
  { o.voidFrom .authorized with state := .unwinding, cancelPending := true, lapseHeld := false }

/-- What follows when a payment step has left lane `l`'s order as `o`, in SHORT, QUOTED or OPEN, and its PAY has been refused in
`told`: with no lapse held and the drain latch clear nothing does. A held lapse is reported (R90, R92) and cancels the order, and
so does the drain latch (R186): from SHORT it is UNWINDING with VOID sent for its lowest tender to be voided, and from QUOTED and
OPEN it is EMPTY, its HELD seats FREE and its reservations returned (R80). -/
def StepEnds (c : Instr) (s told : State) (l : LaneIx) (o : Order) : Prop :=
  ∀ (rep : Report) (after : State),
    rep = ⟨.attendanceLapsed, .cancelled, some l, o.tag, o.code, some o.state, none, [], none, [], []⟩ →
    after = (if o.lapseHeld then told.raise rep else told) →
      (o.lapseHeld = false → s.house.drain = .clear → Effects c s told)
        ∧ (o.lapseHeld = true ∨ s.house.drain ≠ .clear →
          (∀ i, o.state = .short → o.cancelledShort.lowest .voiding i →
            Effects c s
              (after.modLane l fun y =>
                { y with
                  order := o.cancelledShort
                  term := { y.term with sending := some ⟨.void, o.tag.getD 0, i, 0⟩ } }))
          ∧ (o.state = .quoted ∨ o.state = .opened → QueueOpen s.link →
            ∃ m : State, Effects c s m ∧ (m.lane l).order = Order.blank ∧ (m.lane l).attendance = none
              ∧ (m.lane l).renewal = none ∧ (m.lane l).block = none ∧ m.io = after.io
              ∧ m.vouchers = s.vouchers.returned o.voucherLines
              ∧ ∀ a r, o.code = some a → r ∈ o.liveSeats → s.seat a r = some (.held l) → m.seat a r = some .free))

end Sys2Proof.Machine
end

