-- ==== Sys2Proof/WellFormed.lean ====
section
/-! DEFINITION. Well-formed commands: the ranges that the spec gives the operands of a command, so that a command that is
not well-formed names something the part cannot be given. -/

namespace Sys2Proof

open Machine

/-- The processor's memory has 2^64 bytes (notes/assumptions/4.md). -/
def HostOp.wf : HostOp → Bool
  | .store a bs => a + bs.length ≤ Config.addressModulus
  | .failRead a => a < Config.addressModulus
  | .healRead a => a < Config.addressModulus

/-- What the processor did before a register write is well-formed. -/
def hostOpsWf (ops : List HostOp) : Bool := ops.all HostOp.wf

/-- A register of the table of R167 starts at this offset. -/
def registerOffset (n : Nat) : Bool :=
  [Config.requestKickOffset, Config.reportKickOffset, Config.causeOffset, Config.maskOffset].contains n

/-- A notice that passes the checks of R32, from a sender 1–250. -/
def noticeWf (sender : Nat) (n : Notice) : Bool := stationOk sender && n.ok

/-- An item tag of a job of R152: a lane, one of at most 19 items, and a spoil count below the third spoil. -/
def ItemTag.wf (t : ItemTag) : Bool := t.lane ≤ 3 && t.index ≤ 18 && t.spoils < Config.spoilLimit

/-- The notice and its sender, for a command that is a notice received. -/
def Instr.notice : Instr → Option (Nat × Notice)
  | .holdReceived sender code life seats => some (sender, .hold code life seats)
  | .renewReceived sender code life seats => some (sender, .renew code life seats)
  | .releaseReceived sender code seats => some (sender, .release code seats)
  | .objectReceived sender code claimant seats => some (sender, .object code claimant seats)
  | .saleReceived sender code seats => some (sender, .sale code seats)
  | .censusCallReceived sender code => some (sender, .censusCall code)
  | .censusReplyReceived sender code sect owner remaining seats => some (sender, .censusReply code sect owner remaining seats)
  | .verifyReceived sender voucher => some (sender, .verify voucher)
  | .redeemReceived sender voucher => some (sender, .redeem voucher)
  | .voucherStateReceived sender voucher item answer => some (sender, .voucherState voucher item answer)
  | _ => none

/-- What the processor did to its memory before a command that is a register write. -/
def Instr.stores : Instr → List HostOp
  | .requestKick _ mem | .reportKick _ mem | .causeWrite _ mem | .maskWrite _ mem | .otherRegisterWrite _ _ mem => mem
  | _ => []

/-- A command whose operands lie in the ranges that the spec gives them. -/
def Instr.wf : Instr → Bool
  | .setup | .loadScreening | .unloadScreening | .loadCatalog | .order | .inquire | .abort | .resume => true
  | .pick _ | .drop _ | .setType _ | .addVoucher _ | .removeVoucher _ | .quote _ | .pay _ | .print _ | .finish _
  | .cancel _ => true
  | .requestKick _ mem | .reportKick _ mem | .causeWrite _ mem | .maskWrite _ mem => hostOpsWf mem
  | .otherRegisterWrite offset _ mem => !registerOffset offset && hostOpsWf mem
  | .holdReceived sender code life seats => noticeWf sender (.hold code life seats)
  | .renewReceived sender code life seats => noticeWf sender (.renew code life seats)
  | .releaseReceived sender code seats => noticeWf sender (.release code seats)
  | .objectReceived sender code claimant seats => noticeWf sender (.object code claimant seats)
  | .saleReceived sender code seats => noticeWf sender (.sale code seats)
  | .censusCallReceived sender code => noticeWf sender (.censusCall code)
  | .censusReplyReceived sender code sect owner remaining seats =>
    noticeWf sender (.censusReply code sect owner remaining seats)
  | .verifyReceived sender voucher => noticeWf sender (.verify voucher)
  | .redeemReceived sender voucher => noticeWf sender (.redeem voucher)
  | .voucherStateReceived sender voucher item answer => noticeWf sender (.voucherState voucher item answer)
  | .runtReceived bytes => bytes.length < 8
  | .noticeCheckFailed bytes => 8 ≤ bytes.length
  | .gapComplete | .collisionDetected | .backoffExpiry | .jabberCutoff => true
  | .jamComplete draw => draw < 2 ^ Config.backoffDoublings
  | .noticeTransmitted _ => true
  | .censusWindowEnd slot => slot < Config.slotCount
  | .peerHeldExpiry slot seat => slot < Config.slotCount && seatInRange seat
  | .contestTimerExpiry _ | .dueMark _ _ | .demandMark _ _ | .expiryMark _ _ | .attendanceLapse _ => true
  | .resultReceived _ tag index outcome approved auth => (TerminalRx.result tag index outcome approved auth).ok
  | .capturedReceived _ tag index => (TerminalRx.captured tag index).ok
  | .voidedReceived _ tag index => (TerminalRx.voided tag index).ok
  | .terminalFrameDiscarded _ _ | .terminalByteGapTimeout _ | .terminalFrameSent _ => true
  | .authTimeout _ | .captureTimeout _ | .voidTimeout _ | .pinDeadline _ => true
  | .voucherExpiry index => index < Config.voucherTableSize
  | .presentReceived _ => true
  | .doneReceived _ tag => tag.wf
  | .faultReceived _ tag cause => cause ≤ 255 && (tag.map ItemTag.wf).getD true
  | .printerFrameDiscarded _ _ | .printerByteGapTimeout _ | .printerFrameSent _ => true
  | .itemTimeout _ | .probeTimeout _ | .probeIntervalEnd _ => true
  | .faultLineAsserted _ _ | .faultLineReleased _ _ | .paperLowAsserted _ | .paperLowReleased _ => true
  | .supplyWarningAsserted | .supplyWarningReleased | .resetAsserted | .resetReleased => true
  | .houseClockAdvance => true
  | .mitigationTimerExpiry _ => true

end Sys2Proof
end

