-- ==== Sys2Proof/Certificates/Slice0/Obligations.lean ====
section
/-! DEFINITION. The statements for the provers. Each docstring names the rules of spec/ that the statement formalises, and
the log entry of any choice of the model that it rests on. `Effects c s m` says that the command `c` completes on `s` and that
the state after it is `m` with the step closed, the next notice chosen and the DRAINED condition tested (settle), which leaves the
rest of `m` as it is (ClosedFrom): so each such statement is a completion, a result and a frame at once. -/

section

open Sys2Proof Sys2Proof.Machine

/-! ### The step -/

/-- A step takes the command at the front of the queue and runs it with the queue's rest; with none waiting it leaves the
state as it is; and no command changes the queue (the model's own queue, notes/assumptions/5.md). -/
def Obligations.StepRunsFrontCommand : Prop :=
  (∀ s : State, (s.pending = [] → step s = .next s)
      ∧ ∀ c cs, s.pending = c :: cs → step s = exec c { s with pending := cs })
  ∧ (∀ (c : Instr) (s t : State), exec c s = .next t → t.pending = s.pending)

/-! ### Invariants that every step keeps -/

/-- A step keeps every queue, table and counter within its capacity: the transmit queue (R35, R38), the abort, receive-error
and collision counts (R23, R32, R26), the waiting queue and the dropped count (R175), the voucher table (R138), the slots
(R1) and the house clock (R182). It keeps the processor's memory in its canonical form (the model's own,
notes/assumptions/2.md), and from setup on both serial counters within the serials that may be drawn (R135, R157, R180). It
keeps the counts of the catalog: of each item no more issued and reserved than its allotment, and as many reserved as all lanes
hold lines of it without a code (R131, R134, R136). -/
def Obligations.StepKeepsInvariants : Prop :=
  (∀ s t : State, Capacities s → step s = .next t → Capacities t)
  ∧ (∀ s t : State, s.io.host.wf = true → step s = .next t → t.io.host.wf = true)
  ∧ (∀ s t : State, SerialsInRange s → step s = .next t → SerialsInRange t)
  ∧ (∀ s t : State, VoucherCounts s → step s = .next t → VoucherCounts t)

/-- A screening that stays loaded through a step keeps the fields of its load and its plan; a BLOCKED seat stays BLOCKED, no
other seat becomes BLOCKED, and a SOLD seat stays SOLD with its owner (R1, R2, R12). The premise is one of the Capacities. -/
def Obligations.StepKeepsScreenings : Prop :=
  ∀ s t : State, s.slots.length = Config.slotCount → step s = .next t → List.Forall₂ SlotKept s.slots t.slots

/-- Once setup has been taken, every command but a hardware reset leaves the setup record and the lock as they are (R178). A
set drain latch is cleared by no command but RESUME and a hardware reset (R185). -/
def Obligations.SetupAndLatchHold : Prop :=
  (∀ (c : Instr) (s t : State), s.house.lock = true → c ≠ .resetAsserted → exec c s = .next t →
      t.house.record = s.house.record ∧ t.house.lock = true)
  ∧ (∀ (c : Instr) (s t : State), s.house.drain ≠ .clear → c ≠ .resume → c ≠ .resetAsserted → exec c s = .next t →
      t.house.drain ≠ .clear)

/-- The events of one lane - its order words, the timers of its claim, order and attendance, its terminal line - leave the
order record, the timers, the pending SALE, the Tender Controller and the HELD seats of every other lane as they were (R63,
R87, 06_card_payment.md). -/
def Obligations.LanesAreSeparate : Prop :=
  ∀ (k : LaneIx) (c : Instr) (s t : State), c.ofLane k → exec c s = .next t → OthersKept k s t

/-! ### Reset, registers and inputs -/

/-- The machine right after reset, block by block (R1, R22, R43, R69, R108, R128, R145, R157, R167, R172, R175, R178). The
capacities, the canonical form of the memory, the range of the serial counters and the counts of the catalog hold then. -/
def Obligations.ResetState : Prop :=
  ((∀ o ∈ State.reset.slots, o = none) ∧ State.reset.slots.length = 16
      ∧ State.reset.link.state = .off ∧ State.reset.link.queue = [] ∧ State.reset.link.overflow = none
      ∧ State.reset.link.contention.entry = none ∧ State.reset.link.aborts = 0 ∧ State.reset.link.receiveErrors = 0
      ∧ (∀ l, State.reset.link.owed.get l = false)
      ∧ (∀ l, (State.reset.lane l).block = none ∧ (State.reset.lane l).order = Order.blank
          ∧ (State.reset.lane l).attendance = none ∧ (State.reset.lane l).claim.state = .none
          ∧ (State.reset.lane l).renewal = none ∧ (State.reset.lane l).term.line = .off
          ∧ (State.reset.lane l).term.exchange = none ∧ (State.reset.lane l).term.cause = none
          ∧ (State.reset.lane l).term.pinDeadline = none)
      ∧ State.reset.vouchers.catalog = [] ∧ State.reset.vouchers.expiry = none ∧ State.reset.vouchers.table = []
      ∧ State.reset.vouchers.serial = 0 ∧ State.reset.printing.serial = 0 ∧ State.reset.printing.jobs = []
      ∧ (∀ p, State.reset.printer p = ⟨false, .offline, false, none, none, none, none, false, none⟩)
      ∧ State.reset.io.ring.bootBase = none ∧ State.reset.io.ring.bootCursor = 0 ∧ State.reset.io.ring.requestCursor = 0
      ∧ State.reset.io.ring.reportCursor = 0 ∧ State.reset.io.ring.marks = [] ∧ State.reset.io.ring.waiting = []
      ∧ State.reset.io.ring.dropped = 0 ∧ State.reset.io.ring.cause = ⟨false, false, false⟩
      ∧ State.reset.io.ring.mask = ⟨false, false, false⟩
      ∧ State.reset.house = ⟨none, false, 0, false, .clear⟩)
  ∧ (Capacities State.reset ∧ State.reset.io.host.wf = true ∧ SerialsInRange State.reset ∧ VoucherCounts State.reset)

/-- The reset input asserted holds every block in its reset state, from any state (R172, R184); that the processor's memory,
the other input levels and the waiting commands are kept, as not the part's, is the model's choice (notes/assumptions/2.md,
33.md, 5.md). When the reset input is released the part begins from its reset state; with the supply warning asserted, drain is
latched at that moment (R178, R184). -/
def Obligations.ResetInput : Prop :=
  (∀ s : State, Completes .resetAsserted s
      { State.reset with io := ⟨Ring.reset, s.io.host⟩, pins := { s.pins with reset := true }, pending := s.pending })
  ∧ (∀ s : State, s.pins.reset = true →
      (s.pins.supply = false → Completes .resetReleased s { s with pins := { s.pins with reset := false } })
        ∧ (s.pins.supply = true → s.lanes = State.reset.lanes → s.slots = State.reset.slots → s.link = State.reset.link →
            Completes .resetReleased s
              { s with pins := { s.pins with reset := false }, house := { s.house with drain := .draining } }))

/-- While the reset input is asserted every other command completes with nothing of the part changed: register writes have no
effect, reads return 0, the interrupt is deasserted, received bytes and notices are discarded, and nothing is sent on the pair,
the terminal lines and the printer lines. The processor's own stores of a register write reach its memory
(notes/assumptions/2.md), and of the input levels the one that the command names moves (R184). -/
def Obligations.HeldInReset : Prop :=
  ∀ (c : Instr) (s : State), s.pins.reset = true → c ≠ .resetAsserted → c ≠ .resetReleased →
    Completes c s { s with io := ⟨s.io.ring, (s.hostOps c.stores).io.host⟩, pins := c.levels s.pins }
      ∧ (∀ offset, s.readRegister offset = 0) ∧ s.interrupt = false ∧ s.pairOutput = .quiet
      ∧ (∀ l, s.terminalOutput l = none) ∧ ∀ p, s.printerOutput p = none

/-- The supply warning: released, it changes nothing but the level; asserted, it changes nothing but the level while the
drain latch is set, and latches drain while the phase is CLEAR (R185). What drain does to the orders when it is latched:
those in PAYING, COMMITTING, SOLD, PRINTING, COMPLETE, UNWINDING and UNRESOLVED run on, those in OPEN and QUOTED reach EMPTY
at once, and a SHORT order is UNWINDING with cancel pending or EMPTY (R186). A claim in flight of an order in EMPTY, OPEN or
QUOTED, QUEUED with its HOLD off the pair or in CONTEST, is released: its seats are FREE and its PICK is refused ORDER/DRAINING
with every seat of it as residual, after the order's own cancellation (R65, R186; notes/assumptions/15.md), whatever the orders of
the other lanes, and at a full queue too, where no CENSUS-CALL or OBJECT can be evicted with a status or report of its own: every
QUEUED HOLD goes before a RELEASE is offered (the model's choice, notes/assumptions/54.md). -/
def Obligations.DrainLatched : Prop :=
  (∀ s : State, Completes .supplyWarningReleased s { s with pins := { s.pins with supply := false } }
      ∧ (Live s → s.house.drain ≠ .clear →
          Effects .supplyWarningAsserted s { s with pins := { s.pins with supply := true } })
      ∧ (Live s → s.house.drain = .clear →
          ∃ t, Completes .supplyWarningAsserted s t ∧ t.pins = { s.pins with supply := true } ∧ t.house.drain ≠ .clear
            ∧ t.house = { s.house with drain := t.house.drain } ∧ t.printing = s.printing))
  ∧ (∀ s : State, Live s → s.house.drain = .clear →
      ∃ t, Completes .supplyWarningAsserted s t ∧ ∀ l,
        (((s.lane l).order.state = .empty ∨ (s.lane l).order.state = .paying ∨ (s.lane l).order.state = .committing
            ∨ (s.lane l).order.state = .sold ∨ (s.lane l).order.state = .printing ∨ (s.lane l).order.state = .complete
            ∨ (s.lane l).order.state = .unwinding ∨ (s.lane l).order.state = .unresolved) →
          (t.lane l).order = (s.lane l).order)
        ∧ ((s.lane l).order.state = .opened ∨ (s.lane l).order.state = .quoted → (t.lane l).order = Order.blank)
        ∧ ((s.lane l).order.state = .short →
            ((t.lane l).order.state = .unwinding ∧ (t.lane l).order.cancelPending = true) ∨ (t.lane l).order = Order.blank))
  ∧ (∀ (s : State) (l : LaneIx) (b : Block) (i : Nat) (a : Nat) (es : List ClaimSeat) (c : Claim) (refs : List SeatRef), Live s →
      s.house.drain = .clear → c = (s.lane l).claim → refs = c.seats.map ClaimSeat.seat → refs ≠ [] →
      (c.state = .queued ∨ c.state = .contest) → (∀ e, s.link.holdOf l = some e → s.link.onPair e.id = false) →
      (s.lane l).order.state ∈ ([.empty, .opened, .quoted] : List OrderState) →
      ((s.lane l).order.code = none ∨ (s.lane l).order.code = some c.code) →
      (s.lane l).block = some b → b.mode = .running i .taken → b.words[i]? = some (.pick a es) →
      (∀ k, k ≠ l → (s.lane k).claim.state = .none ∧ (s.lane k).block = none) →
      (QueueOpen s.link ∨ ∀ e ∈ s.link.queue, (∀ x, e.notice ≠ .censusCall x) ∧ ∀ x y z, e.notice ≠ .object x y z) →
        ∃ m : State, Effects .supplyWarningAsserted s m ∧ m.house.drain = .draining ∧ (m.lane l).claim = Claim.blank
          ∧ (m.lane l).block = none
          ∧ ((s.lane l).order.state = .empty → (m.lane l).order = (s.lane l).order)
          ∧ ((s.lane l).order.state ≠ .empty → (m.lane l).order = Order.blank ∧ (m.lane l).attendance = none)
          ∧ (∀ r ∈ refs, s.seat c.code r = some (.claiming l) → m.seat c.code r = some .free)
          ∧ m.io
              = (s.complete b.ref
                  (Status.bytes ⟨.refused, some i, some .orderDraining, some (.seats refs), some .empty,
                    if (s.lane l).order.state = .empty then (s.lane l).order.currentTotal else none, []⟩)).io)

/-- The house clock advances by one while it counts, wraps at 2^32, and is stopped before setup (R182). Every event timed to a
value that the clock has then reached happens at that advance (R182, R183): the advance is the clock's step, then the timed
events whose rows wait next in the queue, then every event that is still due. An event is due when its value has been
reached: the expiry of a PEER-HELD seat of a slot (R14), an attendance timer (R88), the deadline of an AUTH, CAPTURE or VOID
exchange (R110), a pin deadline (R125), the expiry of an ISSUED voucher record (R139), the deadline of an item or a PROBE and
the end of a probe interval (R150, R160). With nothing due only the clock changes. That the rows which wait next give the order
among several due events is the model's choice (notes/assumptions/7.md). -/
def Obligations.HouseClockAdvances : Prop :=
  (∀ (s u : State) (first : List TimedEvent) (rest : List Instr), Live s →
      s.pending = first.map TimedEvent.command ++ rest → (∀ (e : TimedEvent) cs, rest ≠ e.command :: cs) →
      u = { s with house := { s.house with clock := (s.house.clock + 1) % 2 ^ 32 } } →
        (s.house.counting = false → Completes .houseClockAdvance s s)
          ∧ (s.house.counting = true →
            (first = [] → u.dueEvents = [] → Effects .houseClockAdvance s u)
              ∧ ∃ v w t, Completes .houseClockAdvance s t ∧ v = settle s u ∧ ClosedFrom u v
                ∧ RunsTo (first.map TimedEvent.command) v w ∧ RunsTo (w.dueEvents.map TimedEvent.command) w t))
  ∧ (∀ (s : State) (clock : Nat), clock = s.house.clock →
      (∀ i r, .peerHeld i r ∈ s.dueEvents ↔
          i < 16 ∧ ∃ x o e, s.slots[i]? = some (some x) ∧ (r, .peerHeld o e) ∈ x.seats ∧ e ≤ clock)
        ∧ (∀ i, .voucher i ∈ s.dueEvents ↔ ∃ r, s.vouchers.table[i]? = some r ∧ r.status = .issued ∧ r.expiry ≤ clock)
        ∧ (∀ l, (.attendance l ∈ s.dueEvents ↔ ∃ d, (s.lane l).attendance = some d ∧ d ≤ clock)
          ∧ (.pin l ∈ s.dueEvents ↔ ∃ d, (s.lane l).term.pinDeadline = some d ∧ d ≤ clock)
          ∧ ∀ e k, (e, k) ∈ ([(.auth l, .auth), (.capture l, .capture), (.void l, .void)] : List (TimedEvent × ExchangeKind)) →
            (e ∈ s.dueEvents ↔ ∃ x, (s.lane l).term.exchange = some x ∧ x.msg.kind = k ∧ x.deadline ≤ clock))
        ∧ (∀ p, (.item p ∈ s.dueEvents ↔ ∃ tag content d, (s.printer p).outstanding = some ⟨.item tag content, d⟩ ∧ d ≤ clock)
          ∧ (.probe p ∈ s.dueEvents ↔ ∃ d, (s.printer p).outstanding = some ⟨.probe, d⟩ ∧ d ≤ clock)
          ∧ (.interval p ∈ s.dueEvents ↔ ∃ d, (s.printer p).interval = some d ∧ d ≤ clock)))

/-- The mitigation timer of a cause that runs sets the cause, returns the pending count to 0 and stops; one that does not
run changes nothing (R177). One completion under a mitigation count and time: it sets its cause, and empties the pending
count, when the count is reached or the time is 0; otherwise it is pending, and the first of them starts the timer (R177). -/
def Obligations.MitigationTimers : Prop :=
  (∀ s : State, Live s →
      (s.io.ring.mitRequest.timer.isSome = true →
          Effects (.mitigationTimerExpiry .requestDone) s
            (s.modRing fun r => { r with mitRequest := ⟨0, none⟩, cause := { r.cause with requestDone := true } }))
        ∧ (s.io.ring.mitReport.timer.isSome = true →
          Effects (.mitigationTimerExpiry .report) s
            (s.modRing fun r => { r with mitReport := ⟨0, none⟩, cause := { r.cause with report := true } }))
        ∧ (s.io.ring.mitRequest.timer = none → Effects (.mitigationTimerExpiry .requestDone) s s)
        ∧ (s.io.ring.mitReport.timer = none → Effects (.mitigationTimerExpiry .report) s s))
  ∧ (∀ (count time : Nat) (m : Mitigation),
      (count ≤ m.pending + 1 ∨ time = 0 → m.complete count time = (⟨0, none⟩, true))
        ∧ (m.pending + 1 < count → time ≠ 0 → m.pending = 0 → m.complete count time = (⟨1, some time⟩, false))
        ∧ (m.pending + 1 < count → time ≠ 0 → m.pending ≠ 0 → m.complete count time = (⟨m.pending + 1, m.timer⟩, false)))

/-- A write to CAUSE clears each bit written as 1 and leaves each bit written as 0; a write to MASK replaces the three mask
bits; a write at any other offset has no effect. The processor's own stores reach its memory first
(notes/assumptions/2.md). What a read returns, when the interrupt is asserted, and that no bit is held after reset
(R167). -/
def Obligations.CauseAndMask : Prop :=
  (State.reset.io.ring.cause = ⟨false, false, false⟩ ∧ State.reset.io.ring.mask = ⟨false, false, false⟩)
  ∧ ∀ (s : State) (v : BitVec 32) (mem : List HostOp), Live s →
    Effects (.causeWrite v mem) s
        ((s.hostOps mem).modRing fun r =>
          { r with
            cause :=
              ⟨r.cause.requestDone && !v.getLsbD 0, r.cause.report && !v.getLsbD 1, r.cause.ringStall && !v.getLsbD 2⟩ })
      ∧ Effects (.maskWrite v mem) s
        ((s.hostOps mem).modRing fun r => { r with mask := ⟨v.getLsbD 0, v.getLsbD 1, v.getLsbD 2⟩ })
      ∧ (∀ offset, offset ∉ ([0x00, 0x08, 0x10, 0x14] : List Nat) →
          Completes (.otherRegisterWrite offset v mem) s (s.hostOps mem))
      ∧ (∀ offset c, (offset = 0x10 ∧ c = s.io.ring.cause ∨ offset = 0x14 ∧ c = s.io.ring.mask) →
          s.readRegister offset < 8 ∧ (s.readRegister offset).testBit 0 = c.requestDone
            ∧ (s.readRegister offset).testBit 1 = c.report ∧ (s.readRegister offset).testBit 2 = c.ringStall)
      ∧ (∀ offset, offset ≠ 0x10 → offset ≠ 0x14 → s.readRegister offset = 0)
      ∧ (s.interrupt = true ↔
          (s.io.ring.cause.requestDone = true ∧ s.io.ring.mask.requestDone = false)
            ∨ (s.io.ring.cause.report = true ∧ s.io.ring.mask.report = false)
            ∨ (s.io.ring.cause.ringStall = true ∧ s.io.ring.mask.ringStall = false))

/-! ### Requests handed back, reports, kicks -/

/-- A request handed back changes nothing but the Ring Interface and the processor's memory. In memory: as much of the status
block as its area takes lies in the area, the owner flag reads PROCESSOR, and every byte outside the two is as before. The
mark is cleared, and the cursors, the waiting reports and the dropped count stand (R171, R192). The completion is counted once
for REQUEST-DONE under the mitigation count and time of the setup record (R177), and a descriptor of the boot ring under a
count of 1 and a time of 0 (notes/assumptions/23.md). -/
def Obligations.HandBack : Prop :=
  ∀ (s : State) (ref : RequestRef) (status : List Byte), s.io.host.wf = true → ref.descAddr < 2 ^ 64 →
    ref.statusAddr + ref.statusLen < 2 ^ 64 →
    (ref.descAddr < ref.statusAddr ∨ ref.statusAddr + ref.statusLen ≤ ref.descAddr) →
      (s.complete ref status).io.host.get ref.descAddr = 0
      ∧ (∀ i, i < ref.statusLen → ∀ b, status[i]? = some b → (s.complete ref status).io.host.get (ref.statusAddr + i) = b)
      ∧ (∀ a, a < 2 ^ 64 → a ≠ ref.descAddr →
          (a < ref.statusAddr ∨ ref.statusAddr + ref.statusLen ≤ a ∨ ref.statusAddr + status.length ≤ a) →
          (s.complete ref status).io.host.get a = s.io.host.get a)
      ∧ (s.complete ref status).io.ring.marks = s.io.ring.marks.erase ref.index
      ∧ ∀ count time m,
          (ref.ring = .boot ∧ count = 1 ∧ time = 0 ∨ ref.ring = .request ∧ count = s.cfg.mitCount ∧ time = s.cfg.mitTime) →
          m = s.io.ring.mitRequest.complete count time →
            s.complete ref status
              = { s with
                  io :=
                    ⟨{ s.io.ring with
                        marks := s.io.ring.marks.erase ref.index
                        mitRequest := m.1
                        cause := { s.io.ring.cause with requestDone := s.io.ring.cause.requestDone || m.2 } },
                      (s.complete ref status).io.host⟩ }

/-- Where a raised report goes. With none waiting and the descriptor at the cursor the K4's, it is written there: bytes 1 to
127, then the owner flag as PROCESSOR, with the dropped count it carries; every other byte of memory is as before, the cursor
moves on, and the report is counted once for REPORT under the mitigation count and time (R177). Otherwise it joins the waiting
queue as its youngest and RING-STALL is set; the oldest of sixteen is dropped and counted; nothing is counted for REPORT
(R173, R174, R175, R193). -/
def Obligations.ReportsRaised : Prop :=
  ∀ (s : State) (c : SetupRecord) (rep : Report), s.io.host.wf = true → s.house.record = some c →
    c.reportBase + 128 * (s.io.ring.reportCursor + 1) ≤ 2 ^ 64 →
      (rep.bytes s.io.ring.dropped).length = 127
      ∧ (s.io.ring.waiting = [] → s.io.host.read (c.reportBase + 128 * s.io.ring.reportCursor) 1 = some [1] →
        ((s.raise rep).io.host.get (c.reportBase + 128 * s.io.ring.reportCursor) = 0
          ∧ (∀ i b, (rep.bytes s.io.ring.dropped)[i]? = some b →
              (s.raise rep).io.host.get (c.reportBase + 128 * s.io.ring.reportCursor + 1 + i) = b)
          ∧ (∀ a, a < 2 ^ 64 →
              (a < c.reportBase + 128 * s.io.ring.reportCursor ∨ c.reportBase + 128 * s.io.ring.reportCursor + 128 ≤ a) →
              (s.raise rep).io.host.get a = s.io.host.get a)
          ∧ ∀ m, m = s.io.ring.mitReport.complete c.mitCount c.mitTime →
              (s.raise rep).io.ring
                = { s.io.ring with
                    dropped := 0
                    reportCursor := (s.io.ring.reportCursor + 1) % c.reportLength
                    mitReport := m.1
                    cause := { s.io.ring.cause with report := s.io.ring.cause.report || m.2 } }))
      ∧ (s.io.ring.waiting ≠ [] ∨ s.io.host.read (c.reportBase + 128 * s.io.ring.reportCursor) 1 ≠ some [1] →
        (s.raise rep).io.host = s.io.host
          ∧ (s.raise rep).io.ring
              = { s.io.ring with
                  waiting := (s.raise rep).io.ring.waiting
                  dropped := (s.raise rep).io.ring.dropped
                  cause := { s.io.ring.cause with ringStall := true } }
          ∧ (s.io.ring.waiting.length < 16 →
              (s.raise rep).io.ring.waiting = s.io.ring.waiting ++ [rep]
                ∧ (s.raise rep).io.ring.dropped = s.io.ring.dropped)
          ∧ (s.io.ring.waiting.length = 16 →
              (s.raise rep).io.ring.waiting = s.io.ring.waiting.tail ++ [rep]
                ∧ (s.raise rep).io.ring.dropped = min 65535 (s.io.ring.dropped + 1)))
      ∧ s.raise rep = { s with io := (s.raise rep).io }

/-- REPORT-KICK: the waiting reports are written, oldest first, while the descriptor at the cursor is the K4's, as many as there
are, and the look stops at the first that is not; with none waiting, and before setup, nothing is read (R174). -/
def Obligations.ReportKick : Prop :=
  ∀ (s : State) (v : BitVec 32), Live s →
    (s.house.record = none → Effects (.reportKick v []) s s)
      ∧ (s.io.ring.waiting = [] → Effects (.reportKick v []) s s)
      ∧ (∀ c rep rest, s.house.record = some c → s.io.ring.waiting = rep :: rest →
          (reportFree (reportAddr c s.io.ring) s.io.host = false → Effects (.reportKick v []) s s)
            ∧ (reportFree (reportAddr c s.io.ring) s.io.host = true →
                ∀ io, io = writeReport c rep { s.io with ring := { s.io.ring with waiting := rest } } →
                (rest = [] ∨ reportFree (reportAddr c io.ring) io.host = false) →
                  Effects (.reportKick v []) s { s with io := io }))
      ∧ (∀ (c : SetupRecord) (n : Nat) (io : Nat → Io), s.house.record = some c → io 0 = s.io →
          (∀ i, i < n → reportFree (reportAddr c (io i).ring) (io i).host = true
            ∧ ∃ rep rest, (io i).ring.waiting = rep :: rest
              ∧ io (i + 1) = writeReport c rep { io i with ring := { (io i).ring with waiting := rest } }) →
          ((io n).ring.waiting = [] ∨ reportFree (reportAddr c (io n).ring) (io n).host = false) →
            Effects (.reportKick v []) s { s with io := io n })

/-- REQUEST-KICK. Before setup the value written becomes the boot base, 0 setting none; a descriptor that is not the K4's, or
that the bus answers with an error, stops the look, and a SETUP at the boot cursor is taken alone. From setup on the value is
ignored, and the look stops at once at a descriptor that is the processor's or whose mark is set; one that is the K4's is
taken, with its mark set and the cursor moved on, and the look stops at the next one that is not (R168, R169, R170; a value of
0 after another is notes/assumptions/24.md). What becomes of one descriptor taken: a known kind with a block that can be read,
of at most 4096 bytes, waits for its owner as the youngest request taken; the Ring Interface itself refuses the three other
cases, and a request of the boot ring that is no SETUP is refused SETUP/NOT-DONE when it is taken (R168, R170, R179;
notes/assumptions/40.md). That an ORDER or INQUIRE so refused restarts no attendance timer is the model's choice
(notes/assumptions/50.md). -/
def Obligations.RequestKick : Prop :=
  (∀ (s : State) (v : BitVec 64), Live s →
      (s.house.lock = false → v = 0 → Effects (.requestKick v []) s (s.modRing fun r => { r with bootBase := none }))
        ∧ (s.house.lock = false → v ≠ 0 →
            (∀ bytes, s.io.host.read (v.toNat + 32 * s.io.ring.bootCursor) 32 = some bytes →
              (readDescriptor bytes).ownedByK4 = false →
                Effects (.requestKick v []) s (s.modRing fun r => { r with bootBase := some v.toNat }))
              ∧ (s.io.host.read (v.toNat + 32 * s.io.ring.bootCursor) 32 = none →
                Effects (.requestKick v []) s (s.modRing fun r => { r with bootBase := some v.toNat }))
              ∧ (∀ bytes block d, s.io.ring.taken = [] → s.io.ring.bootCursor ∉ s.io.ring.marks →
                s.io.host.read (v.toNat + 32 * s.io.ring.bootCursor) 32 = some bytes → d = readDescriptor bytes →
                d.ownedByK4 = true → d.kind = 1 → d.blockLength ≤ 4096 →
                s.io.host.read d.blockAddr d.blockLength = some block →
                  Effects (.requestKick v []) s
                    (s.modRing fun r =>
                      { r with
                        bootBase := some v.toNat
                        bootCursor := (r.bootCursor + 1) % 4
                        marks := r.bootCursor :: r.marks
                        taken :=
                          [⟨⟨.boot, r.bootCursor, v.toNat + 32 * r.bootCursor, d.statusAddr, d.statusLen⟩, .setup, d.lane,
                            block⟩] })))
        ∧ (s.house.lock = true →
            (s.io.ring.requestCursor ∈ s.io.ring.marks → Effects (.requestKick v []) s s)
              ∧ (∀ bytes, s.io.host.read (s.cfg.requestBase + 32 * s.io.ring.requestCursor) 32 = some bytes →
                (readDescriptor bytes).ownedByK4 = false → Effects (.requestKick v []) s s)
              ∧ (∀ bytes block d k cursor next, cursor = s.io.ring.requestCursor → cursor ∉ s.io.ring.marks →
                next = (cursor + 1) % s.cfg.requestLength → 0 < s.cfg.requestLength →
                s.io.host.read (s.cfg.requestBase + 32 * cursor) 32 = some bytes → d = readDescriptor bytes →
                d.ownedByK4 = true → readKind d.kind = some k → d.blockLength ≤ 4096 →
                s.io.host.read d.blockAddr d.blockLength = some block →
                (next ∈ cursor :: s.io.ring.marks ∨ s.io.host.read (s.cfg.requestBase + 32 * next) 32 = none
                  ∨ ∃ other, s.io.host.read (s.cfg.requestBase + 32 * next) 32 = some other
                    ∧ (readDescriptor other).ownedByK4 = false) →
                  Effects (.requestKick v []) s
                    (s.modRing fun r =>
                      { r with
                        requestCursor := next
                        marks := cursor :: r.marks
                        taken :=
                          r.taken
                            ++ [⟨⟨.request, cursor, s.cfg.requestBase + 32 * cursor, d.statusAddr, d.statusLen⟩, k, d.lane,
                              block⟩] }))))
  ∧ (∀ (s : State) (ref : RequestRef) (d : Descriptor),
      ((d.kind < 1 ∨ 8 < d.kind) → s.startRequest ref d = s.complete ref (Status.refusal .formatKind).bytes)
        ∧ (∀ k, readKind d.kind = some k →
            (4096 < d.blockLength → s.startRequest ref d = s.complete ref (Status.refusal .formatBlockLength).bytes)
              ∧ (d.blockLength ≤ 4096 → s.io.host.read d.blockAddr d.blockLength = none →
                s.startRequest ref d = s.complete ref (Status.refusal .formatBusRead).bytes)
              ∧ (∀ block, d.blockLength ≤ 4096 → s.io.host.read d.blockAddr d.blockLength = some block →
                (ref.ring = .boot → k ≠ .setup → s.startRequest ref d = s.complete ref (Status.refusal .setupNotDone).bytes)
                  ∧ (ref.ring = .request ∨ k = .setup →
                    s.startRequest ref d
                      = s.modRing fun r => { r with taken := r.taken ++ [⟨ref, k, d.lane, block⟩] }))))

/-! ### Requests at their owners -/

/-- SETUP taken, with no job in the print queue (as before setup): the record is taken and the lock set, the house clock takes
its start and counts, the link is ACTIVE with the own station number, the terminal line of each lane below the lane count is
IDLE, the ports are enabled by the printer count, and both serial counters take their first serials. Orders, claims, slots,
catalog, voucher table, transmit queue and inputs stand (R22, R108, R145, R178, R181). -/
def Obligations.SetupTaken : Prop :=
  ∀ (s : State) (t : TakenRequest) (c : SetupRecord), Live s → s.nextTaken .setup = some t → s.house.lock = false →
    readSetup t.block = some c → s.printing.jobs = [] →
      ∃ u, Completes .setup s u
        ∧ u.house = ⟨some c, true, c.clockStart, true, u.house.drain⟩
        ∧ u.link = { s.link with station := some c.station, state := .active, contention := u.link.contention }
        ∧ (∀ l, u.lane l
            = if l.val < c.laneCount then { s.lane l with term := { (s.lane l).term with line := .idle } } else s.lane l)
        ∧ u.vouchers = { s.vouchers with serial := c.firstVoucher }
        ∧ u.printing.serial = c.firstTicket ∧ u.printing.jobs = []
        ∧ (u.printer 0).enabled = true ∧ ((u.printer 1).enabled = true ↔ (s.printer 1).enabled = true ∨ c.printerCount = 2)
        ∧ u.slots = s.slots ∧ u.pins = s.pins ∧ u.pending = s.pending

/-- SETUP refused: with the lock set SETUP/LOCKED, whatever its block holds; with the lock clear and a block that fails its
form check FORMAT, and the boot ring is looked at again. Nothing but the hand-back and that look happens (R168, R180).
Before setup every request but SETUP is refused SETUP/NOT-DONE, and nothing but its hand-back happens (R179). -/
def Obligations.SetupRefused : Prop :=
  (∀ (s : State) (t : TakenRequest), Live s → s.nextTaken .setup = some t →
      (s.house.lock = true → Effects .setup s (s.popTaken.complete t.ref (Status.refusal .setupLocked).bytes))
        ∧ (s.house.lock = false → readSetup t.block = none →
            Effects .setup s (s.popTaken.complete t.ref (Status.refusal .format).bytes).lookRing))
  ∧ (∀ (s : State) (t : TakenRequest), Live s → s.house.lock = false →
      ∀ c k, (c, k) ∈ ([(.loadScreening, .loadScreening), (.unloadScreening, .unloadScreening), (.loadCatalog, .loadCatalog),
          (.order, .order), (.inquire, .inquire), (.abort, .abort), (.resume, .resume)] : List (Instr × RequestKind)) →
        s.nextTaken k = some t → Effects c s (s.popTaken.complete t.ref (Status.refusal .setupNotDone).bytes))

/-- LOAD-SCREENING taken: the lowest free slot holds the screening of the block. With its CENSUS-CALL admitted the census is
CALLING and the request stays in progress; with the call not admitted the slot is READY at once and the request completes
DONE (R1, R3, R4, R5). LOAD-SCREENING refused by its first check that fails, in order: FORMAT, SCREENING/DUPLICATE,
SCREENING/NO-SLOT, ORDER/DRAINING; nothing but its hand-back happens (R3, R187). -/
def Obligations.LoadScreening : Prop :=
  (∀ (s : State) (t : TakenRequest) (x : Screening) (i : Nat), Live s → s.house.lock = true →
      s.nextTaken .loadScreening = some t → readScreening t.ref t.block = some x →
      (∀ y, some y ∈ s.slots → y.code ≠ x.code) → s.slots[i]? = some none → (∀ j, j < i → s.slots[j]? ≠ some none) →
      s.house.drain = .clear →
        (s.link.state = .active ∨ s.link.state = .degraded → s.link.queue.length < 24 →
          Effects .loadScreening s
            { s.popTaken with
              slots := s.slots.set i (some { x with phase := .calling })
              link :=
                { s.link with
                  queue := s.link.queue ++ [⟨s.link.nextId, .censusCall x.code, .censusCall, none, none, false, none⟩]
                  nextId := s.link.nextId + 1 } })
        ∧ (s.link.state = .mute ∨ 24 ≤ s.link.queue.length →
          Effects .loadScreening s
            ({ s.popTaken with slots := s.slots.set i (some { x with sync := .ready, request := none }) }.complete t.ref
              (Status.plain .done).bytes)))
  ∧ (∀ (s : State) (t : TakenRequest) (code : Code), Live s → s.house.lock = true → s.nextTaken .loadScreening = some t →
      ((readScreening t.ref t.block = none ∧ code = .format)
        ∨ (∃ x y, readScreening t.ref t.block = some x ∧ some y ∈ s.slots ∧ y.code = x.code ∧ code = .screeningDuplicate)
        ∨ (∃ x, readScreening t.ref t.block = some x ∧ (∀ y, some y ∈ s.slots → y.code ≠ x.code)
            ∧ none ∉ s.slots ∧ code = .screeningNoSlot)
        ∨ (∃ x, readScreening t.ref t.block = some x ∧ (∀ y, some y ∈ s.slots → y.code ≠ x.code)
            ∧ none ∈ s.slots ∧ s.house.drain ≠ .clear ∧ code = .orderDraining)) →
        Effects .loadScreening s (s.popTaken.complete t.ref (Status.refusal code).bytes))

/-- UNLOAD-SCREENING taken, of a READY slot that no lane's order names: every slot that holds the code is free, and the request
completes DONE (R7). While its census is CALLING the CENSUS-CALL leaves the queue, or is marked to leave after its attempt when
it is on the pair (R7, R31). A claim in flight that names it ends: QUEUED, its HOLD leaves the queue, or the claim is
WITHDRAWING when the HOLD is on the pair; CONTEST, a RELEASE of its seats in plan order is offered; and its PICK is refused
SCREENING/UNLOADED with every seat of the claim (R68; of several, notes/assumptions/47.md; that it is refused at the unload also
when its claim becomes WITHDRAWING is the model's choice, notes/assumptions/41.md). Refused by its first check that
fails, in order: FORMAT, SCREENING/UNKNOWN, SCREENING/SYNCING, SCREENING/IN-USE (R6). -/
def Obligations.UnloadScreening : Prop :=
  (∀ (s : State) (t : TakenRequest), Live s → s.house.lock = true → s.nextTaken .unloadScreening = some t →
    (readUnload t.block = none → Effects .unloadScreening s (s.popTaken.complete t.ref (Status.refusal .format).bytes))
      ∧ ∀ code, readUnload t.block = some code →
        (s.screening code = none →
            Effects .unloadScreening s (s.popTaken.complete t.ref (Status.refusal .screeningUnknown).bytes))
          ∧ ∀ x, s.screening code = some x →
            (x.sync = .syncing →
                Effects .unloadScreening s (s.popTaken.complete t.ref (Status.refusal .screeningSyncing).bytes))
              ∧ (x.sync = .ready → (∃ l, (s.lane l).order.state ≠ .empty ∧ (s.lane l).order.code = some code) →
                Effects .unloadScreening s (s.popTaken.complete t.ref (Status.refusal .screeningInUse).bytes))
              ∧ (x.sync = .ready → x.phase ≠ .calling →
                (∀ l, (s.lane l).order.state ≠ .empty → (s.lane l).order.code ≠ some code) →
                (∀ l, (s.lane l).claim.state = .queued ∨ (s.lane l).claim.state = .contest → (s.lane l).claim.code ≠ code) →
                  Effects .unloadScreening s
                    ({ s.popTaken with
                        slots := s.slots.map fun (o : Option Screening) => o.filter fun y => y.code ≠ code }.complete t.ref
                      (Status.plain .done).bytes)))
  ∧ (∀ (s u : State) (t : TakenRequest) (code : Nat) (x : Screening), Live s → s.house.lock = true →
      s.nextTaken .unloadScreening = some t → readUnload t.block = some code → s.screening code = some x → x.sync = .ready →
      (∀ l, (s.lane l).order.state ≠ .empty → (s.lane l).order.code ≠ some code) → NothingOwed s.link →
      u = { s.popTaken with slots := s.slots.map fun (o : Option Screening) => o.filter fun y => y.code ≠ code } →
        (∀ e, x.phase = .calling →
          (∀ l, (s.lane l).claim.state = .queued ∨ (s.lane l).claim.state = .contest → (s.lane l).claim.code ≠ code) →
          s.link.callOf code = some e →
            (s.link.onPair e.id = false →
                Effects .unloadScreening s
                  ({ u with link := s.link.without e.id }.complete t.ref (Status.plain .done).bytes))
              ∧ (s.link.onPair e.id = true →
                Effects .unloadScreening s
                  ({ u with link := s.link.modEntry e.id fun y => { y with leaving := true, kept := none } }.complete t.ref
                    (Status.plain .done).bytes)))
        ∧ (∀ l b i a es refs (ended : Claim → Link → State), x.phase ≠ .calling → (s.lane l).claim.code = code →
          (∀ k, k ≠ l → (s.lane k).claim.state = .queued ∨ (s.lane k).claim.state = .contest → (s.lane k).claim.code ≠ code) →
          (s.lane l).block = some b → b.mode = .running i .taken → b.words[i]? = some (.pick a es) →
          refs = (s.lane l).claim.seats.map ClaimSeat.seat → refs ≠ [] →
          ended = (fun c k =>
            ((({ u with link := k }.modLane l fun y => { y with claim := c, block := none }).complete b.ref
              (Status.bytes ⟨.refused, some i, some .screeningUnloaded, some (.seats refs), some (s.lane l).order.state,
                (s.lane l).order.currentTotal, []⟩)).complete t.ref (Status.plain .done).bytes)) →
            (∀ e, (s.lane l).claim.state = .queued → s.link.holdOf l = some e →
              (s.link.onPair e.id = false → Effects .unloadScreening s (ended Claim.blank (s.link.without e.id)))
                ∧ (s.link.onPair e.id = true →
                  Effects .unloadScreening s
                    (ended { (s.lane l).claim with state := .withdrawing }
                      (s.link.modEntry e.id fun y => { y with leaving := true, kept := none }))))
              ∧ ((s.lane l).claim.state = .contest → QueueOpen s.link →
                Effects .unloadScreening s
                  (ended Claim.blank
                    (s.link.withEntry (.release code (planOrder refs)) .release (some l) (s.lane l).claim.tag)))))

/-- LOAD-CATALOG taken: the catalog takes the block's items with zero counts, and its expiry; the voucher table and the serial
counter stand. Refused by its first check that fails, in order: FORMAT, CATALOG/IN-USE, ORDER/DRAINING (R129, R130). -/
def Obligations.LoadCatalog : Prop :=
  ∀ (s : State) (t : TakenRequest), Live s → s.house.lock = true → s.nextTaken .loadCatalog = some t →
    (readCatalog t.block = none → Effects .loadCatalog s (s.popTaken.complete t.ref (Status.refusal .format).bytes))
      ∧ ∀ expiry items, readCatalog t.block = some (expiry, items) →
        (∀ i ∈ items, i.issued = 0 ∧ i.reserved = 0)
          ∧ ((∃ l, (s.lane l).order.voucherLines ≠ []) →
              Effects .loadCatalog s (s.popTaken.complete t.ref (Status.refusal .catalogInUse).bytes))
          ∧ ((∀ l, (s.lane l).order.voucherLines = []) →
              (s.house.drain ≠ .clear →
                Effects .loadCatalog s (s.popTaken.complete t.ref (Status.refusal .orderDraining).bytes))
              ∧ (s.house.drain = .clear →
                Effects .loadCatalog s
                  ({ s.popTaken with vouchers := { s.vouchers with catalog := items, expiry := some expiry } }.complete t.ref
                    (Status.plain .done).bytes)))

/-- ORDER on a lane within the lane count: with a block in progress refused ORDER/LANE-BUSY; with none, a well-formed block
becomes the block in progress with word 0 running, an EMPTY order taking its tag and an order in another state keeping its
own, or is refused ORDER/TAG-MISMATCH. The attendance timer of an order not EMPTY restarts, which clears a held lapse. On
any other lane refused ORDER/NO-LANE (R69, R70, R73, R74, R88). A malformed block on a lane with no block in progress ends
MALFORMED with the offset and qualifier of its first fault: under the lenient policy in every order state, and under STRICT
in EMPTY and in the states in which nothing is cancelled; the order goes on (R71, R72). Under STRICT it cancels an order in
OPEN or QUOTED first, its reservations returned (R134), and ends with the state EMPTY reached; in PAYING, SHORT and UNWINDING it is the block in progress while
the cancellation runs: cancel pending is set, in SHORT the tenders AUTHORIZED are VOIDING and VOID is sent for the lower one,
and in UNWINDING with its terminal busy they are VOIDING too (R72, R80; notes/assumptions/25.md, 52.md). -/
def Obligations.OrderRequest : Prop :=
  (∀ (s r : State) (t : TakenRequest), Live s → s.house.lock = true → s.nextTaken .order = some t →
      (s.cfg.laneCount ≤ t.lane →
          Effects .order s (s.popTaken.complete t.ref (Status.refusal .orderNoLane).bytes))
        ∧ ∀ l : LaneIx, t.lane = l.val → t.lane < s.cfg.laneCount →
          r = (if (s.lane l).order.state = .empty then s.popTaken
            else
              s.popTaken.modLane l fun x =>
                { x with
                  attendance := some (s.house.clock + s.cfg.attendanceTimeout)
                  order := { x.order with lapseHeld := false } }) →
          ((s.lane l).block ≠ none →
              Effects .order s (r.complete t.ref (r.orderStatus l .refused none (some .orderLaneBusy) none []).bytes))
            ∧ ((s.lane l).block = none → ∀ tag words, readOrderBlock t.block = .block tag words →
                ((s.lane l).order.state = .empty →
                    Effects .order s
                      (r.modLane l fun x =>
                        { x with
                          order := { x.order with tag := some tag }
                          block := some ⟨t.ref, tag, words, .running 0 .fresh⟩ }))
                  ∧ ((s.lane l).order.state ≠ .empty → (s.lane l).order.tag = some tag →
                    Effects .order s
                      (r.modLane l fun x => { x with block := some ⟨t.ref, tag, words, .running 0 .fresh⟩ }))
                  ∧ ((s.lane l).order.state ≠ .empty → (s.lane l).order.tag ≠ some tag →
                    Effects .order s
                      (r.complete t.ref (r.orderStatus l .refused none (some .orderTagMismatch) none []).bytes))))
  ∧ (∀ (s r : State) (l : LaneIx) (t : TakenRequest) (offset : Option Nat) (code : Code), Live s → s.house.lock = true →
      s.nextTaken .order = some t → t.lane = l.val → t.lane < s.cfg.laneCount → (s.lane l).block = none →
      readOrderBlock t.block = .malformed offset code →
      (s.cfg.policy = .lenient ∨ (s.lane l).order.state ∈
        ([.empty, .committing, .sold, .printing, .complete, .unresolved] : List OrderState)) →
      r = (if (s.lane l).order.state = .empty then s.popTaken
        else
          s.popTaken.modLane l fun x =>
            { x with
              attendance := some (s.house.clock + s.cfg.attendanceTimeout)
              order := { x.order with lapseHeld := false } }) →
        Effects .order s (r.complete t.ref (r.orderStatus l .malformed offset (some code) none []).bytes))
  ∧ (∀ (s r : State) (l : LaneIx) (t : TakenRequest) (offset : Option Nat) (code : Code) (waits : Block) (o o1 : Order), Live s →
      s.house.lock = true → s.nextTaken .order = some t → t.lane = l.val → t.lane < s.cfg.laneCount →
      (s.lane l).block = none → readOrderBlock t.block = .malformed offset code → s.cfg.policy = .strict →
      o = { (s.lane l).order with lapseHeld := false } → o1 = { o.voidFrom .authorized with cancelPending := true } →
      waits = ⟨t.ref, 0, [], .strictWait offset code⟩ →
      r = s.popTaken.modLane l (fun x =>
        { x with attendance := some (s.house.clock + s.cfg.attendanceTimeout), order := { x.order with lapseHeld := false } }) →
        (o.state = .opened ∨ o.state = .quoted →
          ∃ m : State, Effects .order s
              (m.complete t.ref (Status.bytes ⟨.malformed, offset, some code, none, some .empty, none, []⟩))
            ∧ (m.lane l).order = Order.blank ∧ (m.lane l).block = none ∧ (m.lane l).attendance = none
            ∧ (QueueOpen s.link → m.io = r.io) ∧ m.vouchers = s.vouchers.returned o.voucherLines
            ∧ ∀ a x, o.code = some a → x ∈ o.liveSeats → s.seat a x = some (.held l) → m.seat a x = some .free)
        ∧ (o.state = .paying →
          Effects .order s (r.modLane l fun y => { y with block := some waits, order := { o with cancelPending := true } }))
        ∧ (o.state = .short → (s.lane l).term.line = .idle → (s.lane l).term.sending = none → (s.lane l).term.exchange = none →
          ∀ i, (o1.tender1.state = .voiding ∧ i = .one
              ∨ o1.tender1.state ≠ .voiding ∧ o1.tender2.state = .voiding ∧ i = .two) →
            Effects .order s
              (r.modLane l fun y =>
                { y with
                  block := some waits
                  order := { o1 with state := .unwinding }
                  term := { y.term with sending := some ⟨.void, o.tag.getD 0, i, 0⟩ } }))
        ∧ (o.state = .unwinding → (s.lane l).term.exchange ≠ none ∨ (s.lane l).term.sending ≠ none →
          Effects .order s (r.modLane l fun y => { y with block := some waits, order := o1 })))

/-- INQUIRE on a lane within the lane count: its attendance timer restarts when the order is not EMPTY, and it completes DONE
with a status block of 284 bytes, whatever the order state and the block in progress. The snapshot, field by field: claim state,
counts and bits; tag, screening, slot and print position; attendance time left; the quote; each seat line, voucher line, tender
used and seat of a claim in flight (R85, 11_record_layouts.md). On any other lane refused ORDER/NO-LANE (R69). The order of
restart and snapshot is the model's (notes/assumptions/21.md), and so is the print position of a failed job (51.md). -/
def Obligations.InquireRequest : Prop :=
  ∀ (s r : State) (t : TakenRequest), Live s → s.house.lock = true → s.nextTaken .inquire = some t →
    (s.cfg.laneCount ≤ t.lane →
        Effects .inquire s (s.popTaken.complete t.ref (Status.refusal .orderNoLane).bytes))
      ∧ ∀ l : LaneIx, t.lane = l.val → t.lane < s.cfg.laneCount →
        r = (if (s.lane l).order.state = .empty then s.popTaken
          else
            s.popTaken.modLane l fun x =>
              { x with
                attendance := some (s.house.clock + s.cfg.attendanceTimeout)
                order := { x.order with lapseHeld := false } }) →
        Effects .inquire s (r.complete t.ref (r.snapshotHeader l ++ r.snapshot l))
          ∧ ((s.lane l).order.seatLines.length ≤ 10 → (s.lane l).order.voucherLines.length ≤ 8 →
              (s.lane l).claim.seats.length ≤ 10 → ∀ x o q pos, x = r.lane l → o = x.order → pos = r.printPosition l →
                q = r.snapshotHeader l ++ r.snapshot l →
                q.length = 284
                ∧ slice q 16 4
                    = [Byte.ofNat x.claim.state.number, Byte.ofNat x.claim.flightSeats.length, Byte.ofNat o.summaries.length,
                      Byte.ofNat (r.snapshotBits l)]
                ∧ slice q 20 2 = leBytes 2 (o.tag.getD 0) ∧ slice q 22 2 = leBytes 2 (o.code.getD 0)
                ∧ slice q 24 8
                    = [Byte.ofNat ((o.screening.map ScreeningRef.slot).getD 0), Byte.ofNat o.seatLines.length,
                      Byte.ofNat o.voucherLines.length, Byte.ofNat pos.1, Byte.ofNat pos.2.1, Byte.ofNat pos.2.2, 0, 0]
                ∧ slice q 32 4
                    = leBytes 4 (match x.attendance with | some d => d - s.house.clock | none => 0xFFFFFFFF)
                ∧ slice q 36 32
                    = (match o.quote with
                      | none => List.replicate 32 0
                      | some c =>
                        [c.ticketPart, c.voucherSum, c.totalDiscount, c.concessionPart, c.total, c.ticketTax, c.concessionTax,
                          c.taxTotal].flatMap (leBytes 4))
                ∧ (∀ (k : Nat) v, o.seatLines[k]? = some v →
                    slice q (68 + 6 * k) 6
                      = [Byte.ofNat v.seat.row, Byte.ofNat v.seat.num, Byte.ofNat v.type, Byte.ofNat (bit v.lost)]
                        ++ leBytes 2 (v.price.getD 0))
                ∧ (∀ (k : Nat) v, o.voucherLines[k]? = some v →
                    slice q (128 + 12 * k) 12
                      = leBytes 2 v.item ++ [Byte.ofNat (bit v.paired), 0] ++ leBytes 2 (v.price.getD 0)
                        ++ leBytes 2 (v.discount.getD 0)
                        ++ (match v.code with | some c => vcodeRecordBytes c | none => [0, 0, 0, 0]))
                ∧ (∀ (k : Nat) v, o.summaries[k]? = some v → slice q (224 + 20 * k) 20 = v.bytes)
                ∧ ∀ (k : Nat) v, x.claim.flightSeats[k]? = some v →
                    slice q (264 + 2 * k) 2 = [Byte.ofNat v.row, Byte.ofNat v.num])

/-- ABORT: on a lane beyond the lane count refused ORDER/NO-LANE; with no block in progress refused ORDER/NO-BLOCK. With one,
the block ends ABORTED with the offset of its running word and the order state reached, and ABORT completes DONE: the order
runs on in COMMITTING, SOLD, PRINTING, COMPLETE and UNRESOLVED; PAYING has its cancel pending; OPEN and QUOTED return to EMPTY,
the HELD seats of their lines FREE and announced in a RELEASE, their reservations returned, and a claim in flight given up; SHORT is UNWINDING with its
tenders AUTHORIZED VOIDING and VOID sent for the lower one, and UNWINDING with its terminal busy has them VOIDING, both with
cancel pending; in EMPTY the order stands, and a claim in flight is given up: QUEUED with its HOLD off the pair, the HOLD
leaves the queue and its seats are FREE; CONTEST, its seats are FREE and announced in a RELEASE (R63, R69, R80, R86, R87,
R134; notes/assumptions/25.md, 52.md). -/
def Obligations.AbortRequest : Prop :=
  ∀ (s : State) (t : TakenRequest), Live s → s.house.lock = true → s.nextTaken .abort = some t →
    (s.cfg.laneCount ≤ t.lane →
        Effects .abort s (s.popTaken.complete t.ref (Status.refusal .orderNoLane).bytes))
      ∧ ∀ l : LaneIx, t.lane = l.val → t.lane < s.cfg.laneCount →
        ((s.lane l).block = none →
            Effects .abort s (s.popTaken.complete t.ref (Status.refusal .orderNoBlock).bytes))
          ∧ ∀ b, (s.lane l).block = some b →
            ((s.lane l).order.state = .committing ∨ (s.lane l).order.state = .sold ∨ (s.lane l).order.state = .printing
                ∨ (s.lane l).order.state = .complete ∨ (s.lane l).order.state = .unresolved →
              Effects .abort s
                (((s.popTaken.modLane l fun x => { x with block := none }).complete b.ref
                    (s.orderStatus l .aborted (s.runningOffset l) none none []).bytes).complete t.ref
                  (Status.plain .done).bytes))
              ∧ ((s.lane l).order.state = .paying →
                Effects .abort s
                  (((s.popTaken.modLane l fun x =>
                        { x with block := none, order := { x.order with cancelPending := true } }).complete b.ref
                      (s.orderStatus l .aborted (s.runningOffset l) none none []).bytes).complete t.ref
                    (Status.plain .done).bytes))
              ∧ (∀ o o1 (ended : State → State), o = (s.lane l).order → o1 = { o.voidFrom .authorized with cancelPending := true } →
                ended = (fun u =>
                  (u.complete b.ref (u.orderStatus l .aborted (s.runningOffset l) none none []).bytes).complete t.ref
                    (Status.plain .done).bytes) →
                  (∀ refs, o.state = .opened ∨ o.state = .quoted → refs = (s.lane l).claim.seats.map ClaimSeat.seat →
                    ∃ m : State, Effects .abort s (ended m) ∧ (m.lane l).order = Order.blank ∧ (m.lane l).block = none
                      ∧ (m.lane l).attendance = none ∧ (m.lane l).renewal = none
                      ∧ m.vouchers = s.vouchers.returned o.voucherLines
                      ∧ (QueueOpen s.link → m.io = s.popTaken.io ∧ ∀ k, k ≠ l → m.lane k = s.lane k)
                      ∧ ∀ code, o.code = some code →
                        (∀ x ∈ o.liveSeats, s.seat code x = some (.held l) → m.seat code x = some .free)
                        ∧ ((s.lane l).claim.state = .queued ∨ (s.lane l).claim.state = .contest → (s.lane l).claim.code = code →
                          (∀ e, s.link.holdOf l = some e → s.link.onPair e.id = false) →
                            (m.lane l).claim = Claim.blank
                            ∧ ∀ x ∈ refs, s.seat code x = some (.claiming l) → m.seat code x = some .free)
                        ∧ ((s.lane l).claim.state ≠ .queued → (s.lane l).claim.state ≠ .contest → QueueOpen s.link →
                          NothingOwed s.link → (s.lane l).sale = none → s.link.renewOf l o.tag = none → o.liveSeats ≠ [] →
                          (∀ x ∈ o.liveSeats, s.seat code x = some (.held l)) →
                            m.link
                              = s.link.withEntry (.release code (planOrder o.liveSeats)) .release (some l)
                                  (o.tag.or (s.lane l).claim.tag)))
                  ∧ (o.state = .short → (s.lane l).term.line = .idle → (s.lane l).term.sending = none →
                    (s.lane l).term.exchange = none →
                    ∀ i, (o1.tender1.state = .voiding ∧ i = .one
                        ∨ o1.tender1.state ≠ .voiding ∧ o1.tender2.state = .voiding ∧ i = .two) →
                      Effects .abort s
                        (ended
                          (s.popTaken.modLane l fun y =>
                            { y with
                              block := none
                              order := { o1 with state := .unwinding }
                              term := { y.term with sending := some ⟨.void, o.tag.getD 0, i, 0⟩ } })))
                  ∧ (o.state = .unwinding → (s.lane l).term.exchange ≠ none ∨ (s.lane l).term.sending ≠ none →
                    Effects .abort s (ended (s.popTaken.modLane l fun y => { y with block := none, order := o1 })))
                  ∧ (∀ refs code, o.state = .empty → o.screening = none → (s.lane l).sale = none → s.link.renewOf l o.tag = none →
                    NothingOwed s.link → QueueOpen s.link → refs = (s.lane l).claim.seats.map ClaimSeat.seat →
                    code = (s.lane l).claim.code →
                      ∃ m : State, Effects .abort s (ended m) ∧ (m.lane l).order = o ∧ (m.lane l).block = none
                        ∧ (∀ k, k ≠ l → m.lane k = s.lane k) ∧ m.io = s.popTaken.io
                        ∧ ((s.lane l).claim.state = .queued ∨ (s.lane l).claim.state = .contest →
                          (∀ e, s.link.holdOf l = some e → s.link.onPair e.id = false) →
                            (m.lane l).claim = Claim.blank
                            ∧ ∀ x ∈ refs, s.seat code x = some (.claiming l) → m.seat code x = some .free)
                        ∧ (∀ e, (s.lane l).claim.state = .queued → s.link.holdOf l = some e → s.link.onPair e.id = false →
                          m.link = s.link.without e.id)
                        ∧ ((s.lane l).claim.state = .contest → refs ≠ [] →
                          (∀ x ∈ refs, s.seat code x = some (.claiming l)) →
                            m.link
                              = s.link.withEntry (.release code (planOrder refs)) .release (some l)
                                  (o.tag.or (s.lane l).claim.tag))))

/-- RESUME: a block that is not empty is refused FORMAT, and with the supply warning asserted it is refused SUPPLY/LOW, the
drain phase standing; otherwise it completes DONE with the drain phase CLEAR and nothing else changed (R189). -/
def Obligations.ResumeRequest : Prop :=
  ∀ (s : State) (t : TakenRequest), Live s → s.house.lock = true → s.nextTaken .resume = some t →
    (t.block ≠ [] → Effects .resume s (s.popTaken.complete t.ref (Status.refusal .format).bytes))
      ∧ (t.block = [] → s.pins.supply = true →
          Effects .resume s (s.popTaken.complete t.ref (Status.refusal .supplyLow).bytes))
      ∧ (t.block = [] → s.pins.supply = false →
          Effects .resume s
            ({ s.popTaken with house := { s.house with drain := .clear } }.complete t.ref (Status.plain .done).bytes))

/-! ### Order words -/

/-- How a running word ends. DONE: the next word of the block becomes the running word, or after the last one the block
completes DONE with the order state and the total of a current quote alone. Refused: the block completes REFUSED with the
word's offset, the code, the residual and the offending seats. In both the block is then no longer in progress, and nothing
else of the lane changes (R74, R75, R76). -/
def Obligations.WordEnds : Prop :=
  ∀ (s : State) (l : LaneIx) (b : Block) (i : Nat) (ph : WordPhase), (s.lane l).block = some b → b.mode = .running i ph →
    (i + 1 < b.words.length →
        s.endWord l .done = s.modLane l fun x => { x with block := some { b with mode := .running (i + 1) .fresh } })
      ∧ (b.words.length ≤ i + 1 →
        s.endWord l .done
          = (s.modLane l fun x => { x with block := none }).complete b.ref
              (Status.bytes ⟨.done, none, none, none, some (s.lane l).order.state, (s.lane l).order.currentTotal, []⟩))
      ∧ ∀ code residual offending,
        s.endWord l (.refused code residual offending)
          = (s.modLane l fun x => { x with block := none }).complete b.ref
              (Status.bytes ⟨.refused, some i, some code, residual, some (s.lane l).order.state,
                (s.lane l).order.currentTotal, offending⟩)

/-- A word that fails its format check is refused FORMAT with the residual its refusal defines, in every order state, and
changes nothing else (R44, R81, R82, R112, R132, R133). An action reached in a state in which it is not taken, its format
check passed, is refused ORDER/WRONG-STATE with the residual its refusal defines, and changes nothing else. A PICK is
checked once no claim of its lane is WITHDRAWING (R46, R77). While the drain latch is set, PICK, ADD-VOUCHER and PAY that
pass their earlier checks are refused ORDER/DRAINING, and change nothing else (R187). -/
def Obligations.WordsRefusedAlike : Prop :=
  (∀ (s : State) (l : LaneIx) (w : OrderWord), Live s → s.freshWord l = some w → w.formOk = false →
      (s.lane l).claim.state ≠ .withdrawing →
        Effects (w.command l) s (s.endWord l (.refused .format (w.residual (s.lane l).order) [])))
  ∧ (∀ (s : State) (l : LaneIx) (w : OrderWord), Live s → s.freshWord l = some w → w.formOk = true →
      (s.lane l).claim.state ≠ .withdrawing → (s.lane l).order.state ∉ w.takenIn →
        Effects (w.command l) s (s.endWord l (.refused .orderWrongState (w.residual (s.lane l).order) [])))
  ∧ (∀ (s : State) (l : LaneIx) (w : OrderWord), Live s → s.freshWord l = some w → w.formOk = true →
      (s.lane l).claim.state ≠ .withdrawing → (s.lane l).order.state ∈ w.takenIn → s.house.drain ≠ .clear →
      ((∃ code entries, w = .pick code entries) ∨ (∃ item count, w = .addVoucher item count)
        ∨ (∃ cap, w = .pay cap ∧ (s.lane l).order.quoteCurrent = true)) →
        Effects (w.command l) s (s.endWord l (.refused .orderDraining (w.residual (s.lane l).order) [])))

/-- PICK taken, every check passed: with fewer than 24 entries queued the claim record is QUEUED with the PICK's seats and
types, its seats are CLAIMING by the lane and no other seat has changed, the word runs on, and the HOLD is the youngest entry
of the transmit queue (R44, R45). With 24 or more the HOLD is not admitted: the claim record is NONE, the seats are as they
were, and the PICK is refused LINK/BUSY with every seat of it (R35, R67). The tag of the claim and of the HOLD is the order's,
or the block's where an order that is EMPTY again holds none (the model's choice, notes/assumptions/17.md). -/
def Obligations.PickTaken : Prop :=
  ∀ (s : State) (l : LaneIx) (code : Nat) (entries : List ClaimSeat) (x : Screening), Live s →
    s.freshWord l = some (.pick code entries) → (OrderWord.pick code entries).formOk = true →
    (s.lane l).claim.state ≠ .withdrawing → (s.lane l).order.state ∈ (OrderWord.pick code entries).takenIn →
    s.house.drain = .clear → s.screening code = some x → x.sync = .ready → s.house.clock < x.start + x.lateOffset →
    ((s.lane l).order.screening = none ∨ (s.lane l).order.code = some code) → s.link.state = .active →
    (s.lane l).order.seatLines.length + entries.length ≤ 10 → (∀ e ∈ entries, x.seat e.seat = some .free) →
    (∀ e ∈ entries, x.offers e.type = true) →
      (24 ≤ s.link.queue.length →
        ∃ m : State, Effects (.pick l) s m ∧ SeatsAlike s m
          ∧ m
            = { (s.modLane l fun y => { y with claim := Claim.blank }).endWord l
                  (.refused .linkBusy (seatsResidual (entries.map ClaimSeat.seat)) []) with
                slots := m.slots })
      ∧ (s.link.queue.length < 24 →
      ∃ t, Completes (.pick l) s t
        ∧ (t.lane l).claim
            = ⟨.queued, (s.lane l).order.tag.or ((s.lane l).block.map Block.tag), s.slotOf code, code, entries, none, none⟩
        ∧ (t.lane l).order = (s.lane l).order ∧ (∀ k, k ≠ l → t.lane k = s.lane k)
        ∧ (∀ e ∈ entries, t.seat code e.seat = some (.claiming l))
        ∧ (∀ r, r ∉ entries.map ClaimSeat.seat → t.seat code r = s.seat code r)
        ∧ (∀ c r, c ≠ code → t.seat c r = s.seat c r)
        ∧ t.slots
            = (s.withSeats code (entries.map ClaimSeat.seat) fun st => if st = .free then .claiming l else st).slots
        ∧ t.runningWord l = some (.pick code entries, .taken)
        ∧ t.link.queue
            = s.link.queue ++ [⟨s.link.nextId, .hold code s.cfg.holdLifetime (entries.map ClaimSeat.seat), .hold, some l,
                (s.lane l).order.tag.or ((s.lane l).block.map Block.tag), false, none⟩])

/-- PICK refused by its first check that fails, after format, state and drain: SCREENING/UNKNOWN, SYNCING, LATE, MISMATCH;
LINK/DEGRADED, LINK/MUTE; ORDER/SEAT-LIMIT; SEAT/NOT-IN-PLAN, BLOCKED or TAKEN with the seats that are not FREE; and
SEAT/TYPE-NOT-OFFERED with the seats of a type not offered. The residual is every seat of the PICK, and nothing else changes.
While a claim of the lane is WITHDRAWING the PICK waits (R44, R46). -/
def Obligations.PickRefused : Prop :=
  ∀ (s : State) (l : LaneIx) (code : Nat) (entries : List ClaimSeat), Live s →
    s.freshWord l = some (.pick code entries) →
    ((s.lane l).claim.state = .withdrawing → Effects (.pick l) s (s.setPhase l .waiting))
      ∧ ((s.lane l).claim.state ≠ .withdrawing → (OrderWord.pick code entries).formOk = true →
        (s.lane l).order.state ∈ (OrderWord.pick code entries).takenIn → s.house.drain = .clear →
        (s.screening code = none → PickRefusedWith s l entries .screeningUnknown [])
          ∧ ∀ x, s.screening code = some x →
            (x.sync = .syncing → PickRefusedWith s l entries .screeningSyncing [])
              ∧ (x.sync = .ready → x.start + x.lateOffset ≤ s.house.clock → PickRefusedWith s l entries .screeningLate [])
              ∧ (x.sync = .ready → s.house.clock < x.start + x.lateOffset →
                ((s.lane l).order.screening ≠ none → (s.lane l).order.code ≠ some code →
                    PickRefusedWith s l entries .screeningMismatch [])
                  ∧ ((s.lane l).order.screening = none ∨ (s.lane l).order.code = some code →
                    (s.link.state = .degraded → PickRefusedWith s l entries .linkDegraded [])
                      ∧ (s.link.state = .mute → PickRefusedWith s l entries .linkMute [])
                      ∧ (s.link.state = .active → 10 < (s.lane l).order.seatLines.length + entries.length →
                        PickRefusedWith s l entries .orderSeatLimit [])
                      ∧ (s.link.state = .active → (s.lane l).order.seatLines.length + entries.length ≤ 10 →
                        ∀ bad,
                          (bad = (entries.map ClaimSeat.seat).filter (fun r => x.seat r ≠ some .free) → bad ≠ [] →
                            ((∃ r ∈ bad, x.seat r = none) → PickRefusedWith s l entries .seatNotInPlan bad)
                              ∧ ((∀ r ∈ bad, x.seat r ≠ none) → (∃ r ∈ bad, x.seat r = some .blocked) →
                                PickRefusedWith s l entries .seatBlocked bad)
                              ∧ ((∀ r ∈ bad, x.seat r ≠ none ∧ x.seat r ≠ some .blocked) →
                                PickRefusedWith s l entries .seatTaken bad))
                            ∧ ((∀ e ∈ entries, x.seat e.seat = some .free) →
                              bad = (entries.filter fun e => !x.offers e.type).map ClaimSeat.seat → bad ≠ [] →
                              PickRefusedWith s l entries .seatTypeNotOffered bad)))))

/-- SET-TYPE, in OPEN and QUOTED: a seat without a line is refused ORDER/NOT-IN-ORDER and a type not offered
SEAT/TYPE-NOT-OFFERED, each with the seat as its offending list; the type the line has already completes DONE with no change;
a new type is written, the line's quoted price is cleared, and the order is OPEN with its quote stale (R78, R82, R106). -/
def Obligations.SetTypeWord : Prop :=
  ∀ (s : State) (l : LaneIx) (seat : SeatRef) (type : Nat), Live s → s.freshWord l = some (.setType seat type) →
    (OrderWord.setType seat type).formOk = true → (s.lane l).order.state ∈ (OrderWord.setType seat type).takenIn →
    (s.lane l).order.tag.isSome = true →
      ((∀ v ∈ (s.lane l).order.seatLines, v.seat ≠ seat) →
          Effects (.setType l) s (s.endWord l (.refused .orderNotInOrder none [seat])))
      ∧ ∀ v, (s.lane l).order.seatLines.find? (fun (v : SeatLine) => v.seat = seat) = some v →
        ∀ x, (s.lane l).order.code.bind s.screening = some x →
          (x.offers type = false → Effects (.setType l) s (s.endWord l (.refused .seatTypeNotOffered none [seat])))
            ∧ (x.offers type = true → v.type = type → Effects (.setType l) s (s.endWord l .done))
            ∧ (x.offers type = true → v.type ≠ type →
              Effects (.setType l) s
                ((s.modLane l fun y =>
                  { y with
                    order :=
                      { y.order with
                        state := .opened
                        quoteCurrent := false
                        seatLines :=
                          y.order.seatLines.map fun v =>
                            if v.seat = seat then { v with type := type, price := none } else v } }).endWord l .done))

/-- ADD-VOUCHER taken, in EMPTY, OPEN and QUOTED: the count is reserved for the item, that many lines with no quoted field
and no code are appended, the order is OPEN with its quote stale, and the attendance timer of an EMPTY order starts. Refused
VOUCHER/UNKNOWN, VOUCHER/LINE-LIMIT and VOUCHER/EXHAUSTED with the count as residual (R78, R88, R132). REMOVE-VOUCHER, in
OPEN and QUOTED: with fewer lines of the item than the count refused ORDER/NOT-IN-ORDER. Otherwise, for every count 1 to 8,
the most recently added lines of the item leave, as many as the count (the lines are cut where the newer part holds just that
many), the other lines keep their places, each reservation is returned, and the order is OPEN with its quote stale (R78, R133,
R134). -/
def Obligations.VoucherWords : Prop :=
  (∀ (s : State) (l : LaneIx) (item count : Nat), Live s → s.freshWord l = some (.addVoucher item count) →
      (OrderWord.addVoucher item count).formOk = true →
      (s.lane l).order.state ∈ (OrderWord.addVoucher item count).takenIn → s.house.drain = .clear →
      (s.lane l).order.tag.isSome = true →
        ((∀ i ∈ s.vouchers.catalog, i.code ≠ item) →
            Effects (.addVoucher l) s (s.endWord l (.refused .voucherUnknown (some (.number count)) [])))
        ∧ ∀ i, s.vouchers.catalog.find? (fun (i : CatalogItem) => i.code = item) = some i →
          (8 < (s.lane l).order.voucherLines.length + count →
              Effects (.addVoucher l) s (s.endWord l (.refused .voucherLineLimit (some (.number count)) [])))
            ∧ ((s.lane l).order.voucherLines.length + count ≤ 8 → i.allotment < i.issued + i.reserved + count →
              Effects (.addVoucher l) s (s.endWord l (.refused .voucherExhausted (some (.number count)) [])))
            ∧ ((s.lane l).order.voucherLines.length + count ≤ 8 → i.issued + i.reserved + count ≤ i.allotment →
              Effects (.addVoucher l) s
                ((({ s with
                    vouchers :=
                      { s.vouchers with
                        catalog :=
                          s.vouchers.catalog.map fun (i : CatalogItem) =>
                            if i.code = item then { i with reserved := i.reserved + count } else i } } : State).modLane l fun y =>
                  { y with
                    attendance :=
                      if y.order.state = .empty then some (s.house.clock + s.cfg.attendanceTimeout) else y.attendance
                    order :=
                      { y.order with
                        state := .opened
                        quoteCurrent := false
                        voucherLines :=
                          y.order.voucherLines ++ List.replicate count ⟨item, false, none, none, none⟩ } }).endWord l .done)))
  ∧ (∀ (s : State) (l : LaneIx) (item count : Nat), Live s → s.freshWord l = some (.removeVoucher item count) →
      (OrderWord.removeVoucher item count).formOk = true →
      (s.lane l).order.state ∈ (OrderWord.removeVoucher item count).takenIn → (s.lane l).order.tag.isSome = true →
        ((s.lane l).order.voucherLines.countP (fun v => v.item = item) < count →
            Effects (.removeVoucher l) s (s.endWord l (.refused .orderNotInOrder none [])))
        ∧ ∀ older newer, (s.lane l).order.voucherLines = older ++ newer → newer.countP (fun v => v.item = item) = count →
          (∀ v ∈ newer, v.item = item → v.code = none) →
            Effects (.removeVoucher l) s
              ((({ s with
                  vouchers :=
                    { s.vouchers with
                      catalog :=
                        s.vouchers.catalog.map fun i =>
                          if i.code = item then { i with reserved := i.reserved - count } else i } } : State).modLane l fun y =>
                { y with
                  order :=
                    { y.order with
                      state := .opened
                      quoteCurrent := false
                      voucherLines := older ++ newer.filter fun v => v.item ≠ item } }).endWord l .done))

/-- QUOTE, in OPEN and QUOTED: an order with no line is refused QUOTE/NO-LINES; a total over 999,999 is refused
QUOTE/OVER-LIMIT and changes nothing; otherwise the quote, the line prices, the paired flags and the line discounts are
written as one change, the quote is current and the order QUOTED (R93, R94, R102, R105). -/
def Obligations.QuoteWord : Prop :=
  ∀ (s : State) (l : LaneIx) (p : Priced), Live s → s.freshWord l = some .quote →
    (s.lane l).order.state ∈ OrderWord.quote.takenIn →
    p = priceOrder ((s.lane l).order.code.bind s.screening) s.vouchers.catalog s.cfg (s.lane l).order.seatLines
      (s.lane l).order.voucherLines →
      ((s.lane l).order.seatLines = [] → (s.lane l).order.voucherLines = [] →
          Effects (.quote l) s (s.endWord l (.refused .quoteNoLines none [])))
      ∧ ((s.lane l).order.seatLines ≠ [] ∨ (s.lane l).order.voucherLines ≠ [] →
        (999999 < p.quote.total → Effects (.quote l) s (s.endWord l (.refused .quoteOverLimit none [])))
          ∧ (p.quote.total ≤ 999999 →
            Effects (.quote l) s
              ((s.modLane l fun y =>
                { y with
                  order :=
                    { y.order with
                      state := .quoted
                      seatLines := (y.order.seatLines.zip p.seatPrices).map fun q => { q.1 with price := some q.2 }
                      voucherLines :=
                        (y.order.voucherLines.zip p.voucherFigures).map fun q =>
                          { q.1 with price := some q.2.1, paired := q.2.2.1, discount := some q.2.2.2 }
                      quote := some p.quote
                      quoteCurrent := true } }).endWord l .done)))

/-- DROP, in OPEN and QUOTED: a seat that has no line refuses it ORDER/NOT-IN-ORDER. Taken, its lines leave, each of its seats
that was HELD is FREE, the order is OPEN with its quote stale, the word is DONE, and the seats are announced in one RELEASE
when the queue has room (R42, R63, R66, R78, R81). -/
def Obligations.DropWord : Prop :=
  ∀ (s : State) (l : LaneIx) (seats : List SeatRef) (code : Nat), Live s → s.freshWord l = some (.drop seats) →
    (OrderWord.drop seats).formOk = true → (s.lane l).order.state ∈ (OrderWord.drop seats).takenIn →
    (s.lane l).order.code = some code → (s.lane l).order.tag.isSome = true →
      ((∃ r ∈ seats, r ∉ (s.lane l).order.seatLines.map SeatLine.seat) →
          Effects (.drop l) s
            (s.endWord l (.refused .orderNotInOrder (seatsResidual seats)
              (seats.filter fun r => r ∉ (s.lane l).order.seatLines.map SeatLine.seat))))
      ∧ ((∀ r ∈ seats, r ∈ (s.lane l).order.seatLines.map SeatLine.seat) →
        ∃ v : State, Effects (.drop l) s (v.endWord l .done) ∧ (v.lane l).block = (s.lane l).block
          ∧ (v.lane l).order
              = { (s.lane l).order with
                  state := .opened
                  quoteCurrent := false
                  seatLines := (s.lane l).order.seatLines.filter fun x => x.seat ∉ seats }
          ∧ (∀ r ∈ seats, s.seat code r = some (.held l) → v.seat code r = some .free)
          ∧ (∀ r, r ∉ seats → s.seat code r = some (.held l) → v.seat code r = some (.held l))
          ∧ (LinkCapacity s.link → s.link.state = .active ∨ s.link.state = .degraded → s.link.queue.length < 32 →
              (∀ r ∈ seats, s.seat code r = some (.held l)) →
              ∃ e ∈ v.link.queue, e.notice = .release code (planOrder seats) ∧ e.lane = some l))

/-- PAY, its format and state checks passed: a stale quote refuses it QUOTE/STALE. With an amount to pay and no line lost, the
lowest free tender slot is taken for the amount due, or the cap where that is smaller, the order is PAYING and AUTH is sent.
With a quote total of 0, every line HELD and no tender AUTHORIZED, the order is SOLD at once, in the steps of R119 (SoldTo): its
seats, its SALE, its vouchers and the PAY word. With a quote total of 0 or a line lost, and lines that fail the hold check -
lost, or not HELD by the lane - no AUTH is sent: with a tender AUTHORIZED each is VOIDING, the order UNWINDING with cause
SEATS-LOST, VOID sent for the lowest, and the PAY runs on; with none the order is OPEN without those lines, its quote stale, and
the PAY refused PAY/SEATS-LOST with the quote total as residual and their seats as offending list (R111, R112, R116, R117, R119;
that the frame being sent is state of its own is notes/assumptions/25.md). -/
def Obligations.PayWord : Prop :=
  ∀ (s : State) (l : LaneIx) (cap : Option Nat), Live s → s.freshWord l = some (.pay cap) →
    (OrderWord.pay cap).formOk = true → (s.lane l).order.state ∈ (OrderWord.pay cap).takenIn →
      ((s.lane l).order.quoteCurrent = false →
          Effects (.pay l) s (s.endWord l (.refused .quoteStale ((OrderWord.pay cap).residual (s.lane l).order) [])))
      ∧ ∀ q, (s.lane l).order.quoteCurrent = true → (s.lane l).order.quote = some q → s.house.drain = .clear →
        (∀ i amount, 0 < q.total → (∀ v ∈ (s.lane l).order.seatLines, v.lost = false) →
          i = (if (s.lane l).order.tender1.isFree then TenderIx.one else .two) →
          amount = (match cap with
            | none => q.total - (s.lane l).order.authorized
            | some c => min (q.total - (s.lane l).order.authorized) c) →
            Effects (.pay l) s
              ((s.setPhase l .taken).modLane l fun y =>
                { y with
                  order := { y.order.modTender i fun _ => ⟨.authorizing, amount, none, 0, none⟩ with state := .paying }
                  term := { y.term with sending := some ⟨.auth, y.order.tag.getD 0, i, amount⟩ } }))
          ∧ (∀ code, q.total = 0 → code = (s.lane l).order.code.getD 0 →
            (∀ v ∈ (s.lane l).order.seatLines, v.lost = false ∧ s.seat code v.seat = some (.held l)) →
            (s.lane l).order.tender1.state ≠ .authorized → (s.lane l).order.tender2.state ≠ .authorized →
              ∃ m : State, Effects (.pay l) s m ∧ SoldTo (s.setPhase l .taken) l m ∧ (m.lane l).order.state = .sold
                ∧ ∀ v ∈ (s.lane l).order.seatLines, m.seat code v.seat = some (.sold s.cfg.station))
          ∧ (∀ (o o1 : Order) (failing : List SeatRef), o = (s.lane l).order →
            failing = (o.seatLines.filter fun v => v.lost = true ∨ s.seat (o.code.getD 0) v.seat ≠ some (.held l)).map SeatLine.seat →
            failing ≠ [] → (q.total = 0 ∨ ∃ v ∈ o.seatLines, v.lost = true) →
              (∀ i, o.tender1.state ≠ .voiding → o.tender2.state ≠ .voiding → o.lowest .authorized i →
                (s.lane l).term.line = .idle → (s.lane l).term.sending = none → (s.lane l).term.exchange = none →
                o1 = { o.voidFrom .authorized with state := .unwinding } →
                  Effects (.pay l) s
                    ((s.setPhase l .taken).modLane l fun y =>
                      { y with
                        order := o1
                        term := { y.term with cause := some .seatsLost, sending := some ⟨.void, o.tag.getD 0, i, 0⟩ } }))
              ∧ (o.tender1.state ≠ .authorized → o.tender2.state ≠ .authorized →
                o1 = { o with
                        state := .opened, quoteCurrent := false, seatLines := o.seatLines.filter fun v => v.seat ∉ failing } →
                  StepEnds (.pay l) s
                    (((s.setPhase l .taken).modLane l fun y => { y with order := o1 }).endWord l
                      (.refused .paySeatsLost (some (.number q.total)) failing)) l o1))

/-- PRINT in SOLD: the order is PRINTING, the word runs on, and a job of its tickets, its stubs and one receipt, or of the
items of its failed job that are not DONE, waits as the youngest of the print queue while no printer is READY. With printer 0
alone READY and no other job, printer 0 is BUSY with it and its first item is being sent (R152, R153, R154, R163;
notes/assumptions/25.md), with its content: a TICKET with screening, start time, seat, type, price and a serial drawn from the
counter, a STUB with the code, item, expiry, price and discount of its voucher, a RECEIPT with the lines, the quote and the
tenders captured (R156, R157; the tenders are notes/assumptions/22.md, the record of a STUB's code, of several the youngest, is
notes/assumptions/53.md). With both printers READY it is printer 0, or printer 1 where only printer 0's PAPER-LOW is asserted
(R154). -/
def Obligations.PrintWord : Prop :=
  ∀ (s : State) (l : LaneIx) (o : Order) (items : List Item), Live s → s.freshWord l = some .print → o = (s.lane l).order →
    o.state = .sold →
    (o.progress = none
        ∧ items = ((List.range o.seatLines.length).map fun i => ⟨.ticket, some i, .pending, 0, none⟩)
          ++ ((List.range o.voucherLines.length).map fun i => ⟨.stub, some i, .pending, 0, none⟩)
          ++ [⟨.receipt, none, .pending, 0, none⟩]
      ∨ ∃ old, o.progress = some (.failed old)
        ∧ items = (old.filter fun i => i.state ≠ .done).map fun i => ⟨i.kind, i.line, .pending, 0, none⟩) →
      (NoneReady s →
          Effects (.print l) s
            { (s.setPhase l .taken).modOrder l fun y => { y with state := .printing, progress := some .inQueue } with
              printing :=
                { s.printing with
                  jobs :=
                    s.printing.jobs
                      ++ [⟨l, o.tag.getD 0, o.code.map fun c => (c, ((s.screening c).map Screening.start).getD 0), items,
                        .waiting, none⟩] } })
      ∧ ((s.printer 0).enabled = true → (s.printer 0).state = .ready → (s.printer 1).state ≠ .ready →
          s.printing.jobs = [] → items ≠ [] →
            ∃ t, Completes (.print l) s t ∧ (t.lane l).order.state = .printing ∧ (t.printer 0).state = .busy
              ∧ (t.printer 0).job = some l ∧ t.printer 1 = s.printer 1
              ∧ (∃ content, (t.printer 0).sending = some (.item ⟨l.val, 0, 0⟩ content))
              ∧ (∃ j, t.printing.jobs = [j] ∧ j.lane = l ∧ j.place = .onPrinter 0)
              ∧ (items.head?.map Item.kind = some .ticket → t.printing.serial = nextSerial 16777215 s.printing.serial)
              ∧ (∀ n v x code, items.head? = some ⟨.ticket, some n, .pending, 0, none⟩ → o.seatLines[n]? = some v →
                o.code = some code → s.screening code = some x →
                  (t.printer 0).sending
                    = some (.item ⟨l.val, 0, 0⟩
                        (.ticket code x.start v.seat v.type (v.price.getD 0) s.cfg.station s.printing.serial)))
              ∧ (∀ n w code older r newer, items.head? = some ⟨.stub, some n, .pending, 0, none⟩ → o.voucherLines[n]? = some w →
                w.code = some code → s.vouchers.table = older ++ r :: newer → r.code = code → (∀ y ∈ newer, y.code ≠ code) →
                  (t.printer 0).sending
                    = some (.item ⟨l.val, 0, 0⟩ (.stub code w.item r.expiry (w.price.getD 0) (w.discount.getD 0))))
              ∧ (∀ q, items.head? = some ⟨.receipt, none, .pending, 0, none⟩ → o.quote = some q →
                  (t.printer 0).sending
                    = some (.item ⟨l.val, 0, 0⟩
                        (.receipt (o.tag.getD 0) s.cfg.station (o.seatLines.map fun v => ⟨v.seat, v.price.getD 0⟩)
                          (o.voucherLines.map fun v => ⟨v.item, v.price.getD 0, v.discount.getD 0⟩) q.ticketPart
                          q.concessionPart q.total q.ticketTax q.concessionTax q.taxTotal
                          ((([⟨.one, o.tender1⟩, ⟨.two, o.tender2⟩] : List TenderSummary).filter fun y =>
                            y.tender.state = .captured).map fun y => ⟨y.index, y.tender.captured, y.tender.auth⟩)))))
      ∧ (∀ p : PortIx, (∀ q, (s.printer q).enabled = true ∧ (s.printer q).state = .ready) → s.printing.jobs = [] → items ≠ [] →
          p = (if (s.pins.ports.get 0).paperLow = true ∧ (s.pins.ports.get 1).paperLow = false then 1 else 0) →
            ∃ t, Completes (.print l) s t ∧ (t.printer p).job = some l ∧ (t.printer p).state = .busy
              ∧ t.printer (1 - p) = s.printer (1 - p))

/-- FINISH: in COMPLETE the order returns to EMPTY, its issued voucher lines changing no count, and the word completes DONE with
that state; in EMPTY it completes DONE with nothing changed. CANCEL: in EMPTY it completes DONE with nothing changed; in OPEN and
QUOTED the order returns to EMPTY, its HELD seats that are not lost are FREE, its reservations are returned, and it completes
DONE; in PAYING cancel pending is set and the word runs on; in SHORT the
order is UNWINDING with cancel pending, its tenders AUTHORIZED are VOIDING and VOID is sent for the lower one; in UNWINDING with
its terminal busy cancel pending is set and every AUTHORIZED tender is VOIDING; in UNRESOLVED the order's HELD seats are FREE, its
reservations are returned, the second PAYMENT-UNRESOLVED report is raised, CANCELLED, the order returns to EMPTY and it completes
DONE (R79, R80, R83, R84, R121, R124, R125, R134; notes/assumptions/25.md, 52.md). -/
def Obligations.FinishAndCancel : Prop :=
  ∀ (s : State) (l : LaneIx), Live s →
    (s.freshWord l = some .finish →
      ((s.lane l).order.state = .complete →
          ∃ v : State, Effects (.finish l) s (v.endWord l .done) ∧ (v.lane l).order = Order.blank
            ∧ (v.lane l).attendance = none ∧ (v.lane l).renewal = none ∧ (v.lane l).block = (s.lane l).block
            ∧ (QueueOpen s.link → v.io = s.io)
            ∧ v.vouchers = s.vouchers.returned (s.lane l).order.voucherLines
            ∧ ((∀ w ∈ (s.lane l).order.voucherLines, w.code ≠ none) → v.vouchers = s.vouchers))
        ∧ ((s.lane l).order.state = .empty → Effects (.finish l) s (s.endWord l .done)))
      ∧ (s.freshWord l = some .cancel →
        ((s.lane l).order.state = .empty → Effects (.cancel l) s (s.endWord l .done))
          ∧ ((s.lane l).order.state = .opened ∨ (s.lane l).order.state = .quoted →
            ∃ v : State, Effects (.cancel l) s (v.endWord l .done) ∧ (v.lane l).order = Order.blank
              ∧ (v.lane l).block = (s.lane l).block ∧ v.vouchers = s.vouchers.returned (s.lane l).order.voucherLines
              ∧ ∀ code r, (s.lane l).order.code = some code → r ∈ (s.lane l).order.liveSeats →
                s.seat code r = some (.held l) → v.seat code r = some .free)
          ∧ ((s.lane l).order.state = .paying →
            Effects (.cancel l) s
              ((s.setPhase l .taken).modOrder l fun y => { y with cancelPending := true }))
          ∧ (∀ i o1, (s.lane l).order.state = .short → (s.lane l).term.line = .idle → (s.lane l).term.sending = none →
            (s.lane l).term.exchange = none →
            o1 = { (s.lane l).order.voidFrom .authorized with state := .unwinding, cancelPending := true } →
            (o1.tender1.state = .voiding ∧ i = .one
              ∨ o1.tender1.state ≠ .voiding ∧ o1.tender2.state = .voiding ∧ i = .two) →
              Effects (.cancel l) s
                ((s.setPhase l .taken).modLane l fun y =>
                  { y with
                    order := o1
                    term := { y.term with sending := some ⟨.void, o1.tag.getD 0, i, 0⟩ } }))
          ∧ ((s.lane l).order.state = .unwinding → (s.lane l).term.exchange ≠ none ∨ (s.lane l).term.sending ≠ none →
            Effects (.cancel l) s
              ((s.setPhase l .taken).modOrder l fun y =>
                { y.voidFrom .authorized with cancelPending := true }))
          ∧ ((s.lane l).order.state = .unresolved →
            ∃ v : State, Effects (.cancel l) s (v.endWord l .done) ∧ (v.lane l).order = Order.blank
              ∧ (v.lane l).term.pinDeadline = none ∧ (v.lane l).block = (s.lane l).block
              ∧ v.vouchers = s.vouchers.returned (s.lane l).order.voucherLines
              ∧ (QueueOpen s.link → v.io = (s.raise (s.unresolvedAs l .cancelled)).io)
              ∧ ∀ code r, (s.lane l).order.code = some code → r ∈ (s.lane l).order.liveSeats →
                s.seat code r = some (.held l) → v.seat code r = some .free))

/-! ### Prices (05_price_computation.md) -/

/-- Pairing and discounts of a quote. The number of pairings is the smaller of the seat lines and the combo-eligible voucher
lines; a line is paired exactly if it is combo-eligible and fewer than that many combo-eligible lines stand before it; the
discounts sum to the smaller of the discount cap and their sum before the cap, none is raised by the cap, a line that it
lowers has every later line at 0, and none exceeds its line's price (R98, R99, R100). -/
def Obligations.Discounts : Prop :=
  ∀ (x : Option Screening) (catalog : List CatalogItem) (c : SetupRecord) (lines : List SeatLine)
    (vlines : List VoucherLine) (p : Priced) (find : VoucherLine → Option CatalogItem) (combo : VoucherLine → Bool)
    (before : List Nat),
    p = priceOrder x catalog c lines vlines → find = (fun v => catalog.find? fun i => i.code = v.item) →
    combo = (fun v => ((find v).map CatalogItem.combo).getD false) →
    before = ((List.range vlines.length).zip vlines).map (fun e =>
      if combo e.2 ∧ (vlines.take e.1).countP combo < p.quote.pairings then
        min (((find e.2).map CatalogItem.comboDiscount).getD 0) (((find e.2).map CatalogItem.price).getD 0) else 0) →
      p.quote.pairings = min lines.length (vlines.countP combo)
        ∧ p.voucherFigures.length = vlines.length
        ∧ (∀ (k : Nat) v f, vlines[k]? = some v → p.voucherFigures[k]? = some f →
            (f.2.1 = true ↔ combo v = true ∧ (vlines.take k).countP combo < p.quote.pairings)
              ∧ f.1 = ((find v).map CatalogItem.price).getD 0 ∧ f.2.2 ≤ f.1
              ∧ ∀ d, before[k]? = some d → f.2.2 ≤ d ∧ (before.sum ≤ c.discountCap → f.2.2 = d)
                ∧ (f.2.2 < d → ∀ j, k < j → ∀ g, p.voucherFigures[j]? = some g → g.2.2 = 0))
        ∧ p.quote.totalDiscount = min c.discountCap before.sum
        ∧ p.quote.totalDiscount = (p.voucherFigures.map fun f => f.2.2).sum

/-- The cap takes from the last line back towards the first: no line is raised, and a line that is lowered has every later line
at 0; so the lines before a line that is not 0 and the lines that the excess does not reach are unchanged (R100). -/
def Obligations.CapFromTheLast : Prop :=
  ∀ (excess : Nat) (ds out : List Nat) (left : Nat), capDiscounts excess ds = (out, left) →
    out.length = ds.length ∧ out.sum + excess = ds.sum + left ∧ left = excess - ds.sum
      ∧ ∀ (k : Nat) a b, ds[k]? = some a → out[k]? = some b →
          b ≤ a ∧ (b < a → ∀ j, k < j → ∀ z, out[j]? = some z → z = 0)
            ∧ (b ≠ 0 → ∀ j, j < k → out[j]? = ds[j]?)

/-- The amounts of a quote. A seat-line price is the product of base price, type factor and band factor over 1,000,000 rounded
half up, plus the surcharge, held at 65535, and a held price sets CLAMPED; the parts are the sums of their lines, the total
the sum of the parts; each tax is its part times its rate over 10,000 plus the rate, rounded half to even, and is at most its
part (R96, R97, R101, R103, R104). -/
def Obligations.PricesAndTaxes : Prop :=
  ∀ (x : Screening) (catalog : List CatalogItem) (c : SetupRecord) (lines : List SeatLine) (vlines : List VoucherLine)
    (p : Priced) (raw : SeatLine → Nat), p = priceOrder (some x) catalog c lines vlines →
    raw = (fun v =>
      (x.basePrice v.seat * x.factor v.type * x.band + 500000) / 1000000 + x.surcharge) →
      p.seatPrices = lines.map (fun v => min 65535 (raw v))
        ∧ (p.quote.clamped = true ↔ ∃ v ∈ lines, 65535 < raw v)
        ∧ p.quote.ticketPart = p.seatPrices.sum
        ∧ p.quote.voucherSum = (p.voucherFigures.map Prod.fst).sum
        ∧ p.quote.concessionPart + p.quote.totalDiscount = p.quote.voucherSum
        ∧ p.quote.total = p.quote.ticketPart + p.quote.concessionPart
        ∧ p.quote.taxTotal = p.quote.ticketTax + p.quote.concessionTax
        ∧ (∀ part rate tax, (part = p.quote.ticketPart ∧ rate = c.ticketTax ∧ tax = p.quote.ticketTax
              ∨ part = p.quote.concessionPart ∧ rate = c.concessionTax ∧ tax = p.quote.concessionTax) →
            2 * (part * rate) ≤ (2 * tax + 1) * (10000 + rate) ∧ (2 * tax) * (10000 + rate) ≤ 2 * (part * rate) + (10000 + rate)
              ∧ (2 * (part * rate) = (2 * tax + 1) * (10000 + rate)
                  ∨ (2 * tax) * (10000 + rate) = 2 * (part * rate) + (10000 + rate) → tax % 2 = 0)
              ∧ (rate ≤ 5000 → tax ≤ part))

/-! ### Notices received (R32, R34) -/

/-- RELEASE received for a loaded screening: each named seat that is PEER-HELD by its sender is FREE, and nothing else changes
(R10). SALE received: each named seat that is FREE or PEER-HELD by any station is SOLD to its sender, a SOLD seat keeps its
owner and a BLOCKED seat stands (R12); and where it names no seat that this station holds and none that a PRINTING order prints,
nothing else changes (R12, R55, R164; notes/assumptions/46.md). -/
def Obligations.PeerReleaseAndSale : Prop :=
  (∀ (s : State) (sender code : Nat) (seats : List SeatRef), Live s → Hears s sender →
      (Notice.release code seats).ok = true → s.screening code ≠ none →
        ∃ m : State, Effects (.releaseReceived sender code seats) s m
          ∧ SeatsBecome s m code seats fun st =>
              match st with
              | .peerHeld o e => if o = sender then .free else .peerHeld o e
              | st => st)
  ∧ (∀ (s : State) (sender code : Nat) (seats : List SeatRef), Live s → Hears s sender →
      (Notice.sale code seats).ok = true → s.screening code ≠ none →
        ∃ m : State, Effects (.saleReceived sender code seats) s m
          ∧ (∀ r ∈ seats,
              (s.seat code r = some .free → m.seat code r = some (.sold sender))
                ∧ (∀ o e, s.seat code r = some (.peerHeld o e) → m.seat code r = some (.sold sender))
                ∧ (∀ o, s.seat code r = some (.sold o) → m.seat code r = some (.sold o))
                ∧ (s.seat code r = some .blocked → m.seat code r = some .blocked))
          ∧ (NoLocalSeat s code seats → NoPrintingSeat s seats →
              SeatsBecome s m code seats fun st =>
                match st with
                | .free => .sold sender
                | .peerHeld _ _ => .sold sender
                | st => st))

/-- HOLD and RENEW received for a loaded screening, naming no seat of this station's own: each named seat that is FREE, or
PEER-HELD by the sender, is PEER-HELD by the sender until the arrival plus the notice's lifetime (R9). OBJECT: each that is
FREE or PEER-HELD is PEER-HELD by the sender for this station's own hold lifetime (R11). CENSUS-REPLY: a HELD section of
another owner places and refreshes that owner's holds, a FREE seat with no lifetime left staying FREE, one of this station
changes nothing, and a SOLD section sells FREE and PEER-HELD seats to its owner (R18). Nothing else changes. -/
def Obligations.PeerHolds : Prop :=
  ∀ (s : State) (sender code life owner : Nat) (seats : List SeatRef), Live s → Hears s sender → s.screening code ≠ none →
    NoLocalSeat s code seats →
      (∀ c, c = .holdReceived sender code life seats ∨ c = .renewReceived sender code life seats →
          (Notice.hold code life seats).ok = true →
          ∃ m : State, Effects c s m
            ∧ SeatsBecome s m code seats fun st =>
                match st with
                | .free => .peerHeld sender (s.house.clock + life)
                | .peerHeld o e => if o = sender then .peerHeld sender (s.house.clock + life) else .peerHeld o e
                | st => st)
        ∧ (∀ claimant, (Notice.object code claimant seats).ok = true →
          ∃ m : State, Effects (.objectReceived sender code claimant seats) s m
            ∧ SeatsBecome s m code seats fun st =>
                match st with
                | .free => .peerHeld sender (s.house.clock + s.cfg.holdLifetime)
                | .peerHeld _ _ => .peerHeld sender (s.house.clock + s.cfg.holdLifetime)
                | st => st)
        ∧ ((Notice.censusReply code .held owner life seats).ok = true →
          (s.link.station = some owner → Effects (.censusReplyReceived sender code .held owner life seats) s s)
            ∧ (s.link.station ≠ some owner →
              ∃ m : State, Effects (.censusReplyReceived sender code .held owner life seats) s m
                ∧ SeatsBecome s m code seats fun st =>
                    match st with
                    | .free => if life = 0 then .free else .peerHeld owner (s.house.clock + life)
                    | .peerHeld o e => if o = owner then .peerHeld owner (s.house.clock + life) else .peerHeld o e
                    | st => st))
        ∧ ((Notice.censusReply code .sold owner life seats).ok = true →
          ∃ m : State, Effects (.censusReplyReceived sender code .sold owner life seats) s m
            ∧ SeatsBecome s m code seats fun st =>
                match st with
                | .free => .sold owner
                | .peerHeld _ _ => .sold owner
                | st => st)

/-- Seats that a lane keeps. With every named seat HELD by one lane, or CLAIMING in its CONTEST claim, and room in the queue, a
HOLD or RENEW leaves the seats and the claim as they are and offers one OBJECT that names its sender as claimant and lists the
seats in the notice's order (R42, R50); an OBJECT naming another station, and a census reply that contradicts the seats, leave
them too and raise one CONFLICT report HOLD-DIVERGENCE, the seats in plan order or, for a census reply, in list order (R19,
R56). An OBJECT naming this station, or a SALE, against HELD seats of an order that is committing or later leaves them and
raises one CONFLICT report DOUBLE-CLAIM or DOUBLE-SALE, the seats in plan order (R55); so does a SALE of seats that a PRINTING
order has sold (R164; notes/assumptions/46.md). -/
def Obligations.LocalSeatsDefended : Prop :=
  ∀ (s : State) (l : LaneIx) (sender code : Nat) (seats : List SeatRef) (tag : Option Nat) (rep : ReportQual → List SeatRef → Report),
    Live s → Hears s sender → tag = (s.lane l).order.tag.or (s.lane l).claim.tag →
    rep = (fun q rs => ⟨.conflict, q, some l, tag, some code, none, none, rs, none, [], []⟩) →
      (AllHeld s l code seats ∨ InContest s l code seats →
        (∀ c life, c = .holdReceived sender code life seats ∨ c = .renewReceived sender code life seats →
            (Notice.hold code life seats).ok = true → QueueOpen s.link →
            ∃ m : State, Effects c s m ∧ SeatsAlike s m
              ∧ m = { s with slots := m.slots, link := s.link.withEntry (.object code sender seats) .object (some l) tag })
          ∧ (∀ c rs,
            ((∃ claimant, c = .objectReceived sender code claimant seats ∧ (Notice.object code claimant seats).ok = true
                ∧ rs = planOrder seats ∧ s.link.station ≠ some claimant)
              ∨ (∃ sect owner life, c = .censusReplyReceived sender code sect owner life seats
                ∧ (Notice.censusReply code sect owner life seats).ok = true ∧ (sect = .sold ∨ s.link.station ≠ some owner)
                ∧ rs = seats)) →
            ∃ m : State, Effects c s m ∧ SeatsAlike s m ∧ m = { s.raise (rep .holdDivergence rs) with slots := m.slots }))
        ∧ (∀ c q, AllHeld s l code seats → (s.lane l).order.state.committingOrLater = true →
          (c = .saleReceived sender code seats ∧ (Notice.sale code seats).ok = true ∧ q = .doubleSale
            ∨ (∃ claimant, c = .objectReceived sender code claimant seats ∧ (Notice.object code claimant seats).ok = true
              ∧ s.link.station = some claimant ∧ q = .doubleClaim)) →
          ∃ m : State, Effects c s m ∧ SeatsAlike s m ∧ m = { s.raise (rep q (planOrder seats)) with slots := m.slots })
        ∧ ((s.lane l).order.state = .printing → (s.lane l).order.code = some code →
          (∀ r ∈ seats, r ∈ (s.lane l).order.liveSeats ∧ s.seat code r = some (.sold s.cfg.station)) →
          (∀ k, k ≠ l → (s.lane k).order.state = .printing → ∀ v ∈ (s.lane k).order.seatLines, v.seat ∉ seats) →
          (Notice.sale code seats).ok = true →
          ∃ m : State, Effects (.saleReceived sender code seats) s m ∧ SeatsAlike s m
            ∧ m = { s.raise (rep .doubleSale (planOrder seats)) with slots := m.slots })

/-- Seats that a lane loses. A QUEUED claim that a conflicting notice names loses: the named seats go to the sender, the rest
are FREE and unannounced - its HOLD leaves the queue and nothing enters it - and its PICK is refused SEAT/TAKEN with the named
seats in PICK order and every seat as residual (R31, R49). A CONTEST claim that an OBJECT naming this station, or a SALE, names
ends so too, and its other seats are announced in a RELEASE (R51). HELD seats of an order that is not committing go to the
sender: their lines leave in OPEN and QUOTED and are marked lost in PAYING, SHORT and UNWINDING, and one SEAT-LOST report is
raised (R53, R54). Of a slot only seats change. -/
def Obligations.SeatsLostToPeers : Prop :=
  ∀ (s : State) (l : LaneIx) (sender code life claimant : Nat) (seats : List SeatRef) (c : Instr) (dest : SeatState),
    Live s → Hears s sender →
    ((c = .holdReceived sender code life seats ∨ c = .renewReceived sender code life seats)
        ∧ (Notice.hold code life seats).ok = true ∧ dest = .peerHeld sender (s.house.clock + life)
      ∨ c = .objectReceived sender code claimant seats ∧ (Notice.object code claimant seats).ok = true
        ∧ dest = .peerHeld sender (s.house.clock + s.cfg.holdLifetime)
      ∨ c = .saleReceived sender code seats ∧ (Notice.sale code seats).ok = true ∧ dest = .sold sender) →
      (∀ b i word ph refs hit, (s.lane l).block = some b → b.mode = .running i ph → ph = .taken → b.words[i]? = some word →
        (∃ a es, word = .pick a es) → (s.lane l).claim.code = code → refs = (s.lane l).claim.seats.map ClaimSeat.seat →
        hit = (refs.filter fun r => seats.contains r) → hit ≠ [] → (∀ r ∈ refs, s.seat code r = some (.claiming l)) →
        (∀ r ∈ seats, r ∉ refs → ∀ k, s.seat code r ≠ some (.claiming k) ∧ s.seat code r ≠ some (.held k)) →
        (c = .saleReceived sender code seats → NoPrintingSeat s seats) →
        ((s.lane l).claim.state = .queued
          ∨ (s.lane l).claim.state = .contest ∧ QueueOpen s.link
            ∧ (c = .saleReceived sender code seats
              ∨ c = .objectReceived sender code claimant seats ∧ s.link.station = some claimant)) →
          ∃ m : State, Effects c s m
            ∧ (m.lane l).claim = Claim.blank ∧ (m.lane l).order = (s.lane l).order ∧ (m.lane l).block = none
            ∧ (∀ k, k ≠ l → m.lane k = s.lane k) ∧ SlotsKept s m
            ∧ (∀ r ∈ refs, m.seat code r = some (if r ∈ seats then dest else .free))
            ∧ m.io
                = (s.complete b.ref
                    (Status.bytes ⟨.refused, some i, some .seatTaken, some (.seats refs), some (s.lane l).order.state,
                      (s.lane l).order.currentTotal, hit⟩)).io
            ∧ ((s.lane l).claim.state = .queued → NothingOwed s.link →
                m.link = match s.link.holdOf l with | some e => s.link.without e.id | none => s.link)
            ∧ ((s.lane l).claim.state = .contest →
                m.link
                  = if (∀ r ∈ refs, r ∈ seats) then s.link
                    else s.link.withEntry (.release code (planOrder (refs.filter fun r => !seats.contains r))) .release (some l)
                      (s.lane l).claim.tag))
        ∧ (∀ q tag, AllHeld s l code seats → (s.lane l).order.tag = some tag →
          (c = .saleReceived sender code seats ∧ q = .peerSale
            ∨ c = .objectReceived sender code claimant seats ∧ s.link.station = some claimant ∧ q = .objected) →
          ((s.lane l).order.state ∈ ([.opened, .quoted, .paying, .short, .unwinding] : List OrderState)) →
          ∃ m : State, Effects c s m ∧ SlotsKept s m
            ∧ (∀ r ∈ seats, m.seat code r = some dest)
            ∧ m.io = (s.raise ⟨.seatLost, q, some l, some tag, some code, none, none, planOrder seats, none, [], []⟩).io
            ∧ (∀ k, k ≠ l → m.lane k = s.lane k)
            ∧ ((s.lane l).order.state = .opened ∨ (s.lane l).order.state = .quoted →
                (m.lane l).order
                  = { (s.lane l).order with
                      state := .opened
                      quoteCurrent := false
                      seatLines := (s.lane l).order.seatLines.filter fun x => x.seat ∉ seats })
            ∧ ((s.lane l).order.state = .paying ∨ (s.lane l).order.state = .short ∨ (s.lane l).order.state = .unwinding →
                (m.lane l).order
                  = { (s.lane l).order with
                      seatLines := (s.lane l).order.seatLines.map fun x => if x.seat ∈ seats then { x with lost := true } else x }))

/-- A CENSUS-CALL for a loaded screening is answered: with room for every section, each section of the answer enters the queue
in the order of composition as a CENSUS-REPLY of no lane and no order, and nothing else changes (R15). The answer: first one
HELD section for each lane with a HELD seat of the screening, by ascending lane, with those seats and the time left to the order's own-hold
deadline (R16); then SOLD sections of 1 to 16 seats, by ascending owner, which name every SOLD seat of each owner in the
order of the seat records (R17). -/
def Obligations.CensusAnswered : Prop :=
  ∀ (s : State) (sender code : Nat) (x : Screening), s.screening code = some x →
    (Live s → Hears s sender → (Notice.censusCall code).ok = true → (s.link.state = .active ∨ s.link.state = .degraded) →
      s.link.queue.length + (s.censusAnswer x).length ≤ 24 →
        ∃ m : State, Effects (.censusCallReceived sender code) s m
          ∧ m = { s with link := (s.censusAnswer x).foldl (fun k n => k.withEntry n .censusReply none none) s.link }
          ∧ m.link.queue.map Entry.notice = s.link.queue.map Entry.notice ++ s.censusAnswer x
          ∧ (∀ e ∈ m.link.queue.drop s.link.queue.length, e.cls = .censusReply ∧ e.lane = none ∧ e.tag = none))
      ∧ ∃ held sold, s.censusAnswer x = held ++ sold
        ∧ held
            = laneOrder.flatMap (fun l =>
                if ∀ e ∈ x.seats, e.2 ≠ .held l then []
                else
                  [.censusReply x.code .held s.cfg.station
                    (match (s.lane l).renewal with
                      | some r => r.base.clock + s.cfg.holdLifetime - s.house.clock
                      | none => 0)
                    ((x.seats.filter fun e => e.2 = .held l).map Prod.fst)])
        ∧ (∀ n ∈ sold, ∃ o seats, n = .censusReply x.code .sold o 0 seats ∧ 1 ≤ seats.length ∧ seats.length ≤ 16)
        ∧ sold.Pairwise (fun a b => ∀ o p u v w y, a = .censusReply x.code .sold o u w → b = .censusReply x.code .sold p v y → o ≤ p)
        ∧ ∀ o, sold.flatMap (soldSeatsOf o) = (x.seats.filter fun e => e.2 = .sold o).map Prod.fst

/-- Voucher notices for this station's vouchers, with room in the queue. VERIFY is answered from the youngest record of its
code and changes nothing else: UNKNOWN with item 0 for no record and for a VOID one, and otherwise with the record's item
UNKNOWN before its stub has printed, VALID once it has, REDEEMED or EXPIRED (R142). REDEEM of an ISSUED record whose stub has
printed makes it REDEEMED by the sender, raises VOUCHER-REDEEMED and is answered REDEEMED-NOW; repeated by the same sender it
is answered REDEEMED-NOW again and changes no record; in every other case it is answered as a VERIFY (R143). In MUTE nothing is
sent (R144). A voucher line is issued under the next serial, which wraps to 1, with one voucher moved from reserved to issued
and a record not yet printed, EXPIRED at once when its expiry is past: the screening's start plus the grace, or the catalog's
expiry (R135, R136, R137); lines without a code take serials in line order, one with a code keeps it (R136). A record enters as the youngest; a full table evicts the
oldest that is not ISSUED, else the oldest past its expiry; with neither it is not recorded and VOUCHER-UNRECORDED is raised
(R138). A spoiled stub's record is VOID and its line reissued with the record's item, screening and expiry (R141; of two
records with one code, notes/assumptions/53.md). A record that is ISSUED when the house clock reaches its expiry is EXPIRED,
its other fields as they were; every other record stands (R139). -/
def Obligations.VoucherNotices : Prop :=
  (∀ (s : State) (sender : Nat) (v : VCode) (say : Nat → Answer → Link), Live s → Hears s sender → (Notice.verify v).ok = true →
    s.link.station = some v.station →
    say = (fun item a => s.link.withEntry (.voucherState v item a) .voucherState none none) →
      (QueueOpen s.link →
        ((∀ r ∈ s.vouchers.table, r.code ≠ v) →
            Effects (.verifyReceived sender v) s { s with link := say 0 .unknown }
              ∧ Effects (.redeemReceived sender v) s { s with link := say 0 .unknown })
        ∧ ∀ older r newer, s.vouchers.table = older ++ r :: newer → r.code = v → (∀ w ∈ newer, w.code ≠ v) →
          (∀ item a,
            (r.status = .void ∧ item = 0 ∧ a = .unknown ∨ r.status = .issued ∧ r.printed = false ∧ item = r.item ∧ a = .unknown
              ∨ r.status = .issued ∧ r.printed = true ∧ item = r.item ∧ a = .valid
              ∨ r.status = .redeemed ∧ item = r.item ∧ a = .redeemed ∨ r.status = .expired ∧ item = r.item ∧ a = .expired) →
            Effects (.verifyReceived sender v) s { s with link := say item a }
              ∧ (¬(r.status = .issued ∧ r.printed = true) → ¬(r.status = .redeemed ∧ r.redeemedBy = some sender) →
                Effects (.redeemReceived sender v) s { s with link := say item a }))
            ∧ (r.status = .issued → r.printed = true →
              Effects (.redeemReceived sender v) s
                { s.raise ⟨.voucherRedeemed, .station sender, none, none, r.screening, none, none, [], some v, [], []⟩ with
                  link := say r.item .redeemedNow
                  vouchers :=
                    { s.vouchers with
                      table := older ++ { r with status := .redeemed, redeemedBy := some sender } :: newer } })
            ∧ (r.status = .redeemed → r.redeemedBy = some sender →
              Effects (.redeemReceived sender v) s { s with link := say r.item .redeemedNow }))
      ∧ (s.link.state = .mute → Effects (.verifyReceived sender v) s s))
  ∧ (∀ (s : State) (index : Nat) (r : VoucherRecord), Live s → s.vouchers.table[index]? = some r →
      (r.status = .issued → r.expiry ≤ s.house.clock →
          Effects (.voucherExpiry index) s
            { s with vouchers := { s.vouchers with table := s.vouchers.table.set index { r with status := .expired } } })
        ∧ (r.status ≠ .issued ∨ s.house.clock < r.expiry → Effects (.voucherExpiry index) s s))
  ∧ (∀ (s u : State) (l : LaneIx) (v : VoucherLine) (made : Nat → VoucherRecord) (next : Nat),
      next = (if 1048575 ≤ s.vouchers.serial then 1 else s.vouchers.serial + 1) →
      made = (fun expiry =>
        ⟨⟨s.cfg.station, s.vouchers.serial⟩, v.item, (s.lane l).order.code, expiry,
          if expiry ≤ s.house.clock then .expired else .issued, false, none⟩) →
      u = { s with
            vouchers :=
              { s.vouchers with
                serial := next
                catalog :=
                  s.vouchers.catalog.map fun (i : CatalogItem) =>
                    if i.code = v.item then { i with reserved := i.reserved - 1, issued := i.issued + 1 } else i } } →
        (∀ code x, (s.lane l).order.code = some code → s.screening code = some x →
            s.issueLine l v
              = ({ v with code := some ⟨s.cfg.station, s.vouchers.serial⟩ },
                u.enterRecord l (made (x.start + 60 * s.cfg.voucherGrace))))
          ∧ (∀ expiry, (s.lane l).order.code = none → s.vouchers.expiry = some expiry →
            s.issueLine l v
              = ({ v with code := some ⟨s.cfg.station, s.vouchers.serial⟩ }, u.enterRecord l (made expiry)))
          ∧ (∀ (vs : List VoucherLine) (k : Nat) (w : VoucherLine), vs = (s.lane l).order.voucherLines → vs[k]? = some w →
            s.vouchers.serial + vs.length ≤ 1048576 →
              ((s.issueVouchers l).lane l).order.voucherLines[k]?
                = some { w with
                    code := w.code.or (some ⟨s.cfg.station, s.vouchers.serial + (vs.take k).countP fun x => x.code = none⟩) })
          ∧ (∀ line c older r newer, (s.lane l).order.voucherLines[line]? = some v → v.code = some c →
            s.vouchers.table = older ++ r :: newer → r.code = c → (∀ y ∈ newer, y.code ≠ c) →
            s.vouchers.table.length < 1024 →
              s.reissue l line
                = ({ s with
                    vouchers :=
                      { s.vouchers with
                        serial := next
                        table :=
                          older ++ { r with status := .void } :: newer
                            ++ [⟨⟨s.cfg.station, s.vouchers.serial⟩, r.item, r.screening, r.expiry,
                              if r.expiry ≤ s.house.clock then .expired else .issued, false, none⟩] } } : State).modOrder l fun o =>
                  { o with
                    voucherLines :=
                      o.voucherLines.set line { v with code := some ⟨s.cfg.station, s.vouchers.serial⟩ } }))
  ∧ (∀ (s : State) (l : LaneIx) (r : VoucherRecord) (young : List VoucherRecord → State),
      young = (fun old => { s with vouchers := { s.vouchers with table := old ++ [r] } }) →
        (s.vouchers.table.length < 1024 → s.enterRecord l r = young s.vouchers.table)
        ∧ (1024 ≤ s.vouchers.table.length →
          (∀ older v newer, s.vouchers.table = older ++ v :: newer → v.status ≠ .issued → (∀ y ∈ older, y.status = .issued) →
              s.enterRecord l r = young (older ++ newer))
            ∧ ((∀ y ∈ s.vouchers.table, y.status = .issued) →
              (∀ older v newer, s.vouchers.table = older ++ v :: newer → v.expiry ≤ s.house.clock →
                (∀ y ∈ older, s.house.clock < y.expiry) → s.enterRecord l r = young (older ++ newer))
              ∧ ((∀ y ∈ s.vouchers.table, s.house.clock < y.expiry) →
                s.enterRecord l r
                  = s.raise ⟨.voucherUnrecorded, .none, some l, (s.lane l).order.tag, (s.lane l).order.code, none, none, [],
                      some r.code, [], []⟩))))

/-- Receptions. A station that is OFF, SENDING or JAMMING takes nothing in; a run of fewer than 8 bytes is dropped silently
(R22, R32). A run whose CRC disagrees, or whose sender or form fails, adds one receive error; the eighth returns the count to
0, and offers a CENSUS-CALL for each slot that is READY with its census IDLE, in slot order: with room each enters the queue
and the census is CALLING; not admitted, the slot is as it was; where no slot is READY and IDLE nothing more happens (R20,
R32). The check field tried is the last two bytes received, also where the body length places it elsewhere (the model's choice,
notes/assumptions/59.md). A notice that the filter does not keep - one of a screening not loaded, a query for another station's
voucher, a VOUCHER-STATE - changes nothing (R34). A good notice from this station's own number makes an ACTIVE or DEGRADED link MUTE:
contention ends, only SALEs stay queued, and no renewal is owed (R33). -/
def Obligations.Reception : Prop :=
  (∀ (s : State) (bytes : List Byte), Live s →
      (bytes.length < 8 → Effects (.runtReceived bytes) s s)
        ∧ (s.link.state = .off ∨ s.link.contention.phase = .sending ∨ s.link.contention.phase = .jamming →
          Effects (.noticeCheckFailed bytes) s s
            ∧ ∀ c sender n, Instr.notice c = some (sender, n) → Effects c s s)
        ∧ (∀ sender, Hears s sender → 8 ≤ bytes.length →
          (crcBytes (bytes.take (bytes.length - 2)) ≠ bytes.drop (bytes.length - 2)
            ∨ (∃ station body, readReception bytes = .notice station body ∧ (station = 0 ∨ 250 < station))
            ∨ readReception bytes = .notice sender none) →
          (s.link.receiveErrors < 7 →
              Effects (.noticeCheckFailed bytes) s
                (s.modLink fun k => { k with receiveErrors := k.receiveErrors + 1 }))
            ∧ (s.link.receiveErrors = 7 → (∀ x, some x ∈ s.slots → x.sync = .ready → x.phase ≠ .idle) →
              Effects (.noticeCheckFailed bytes) s (s.modLink fun k => { k with receiveErrors := 0 }))
            ∧ (∀ calls : List Screening, s.link.receiveErrors = 7 →
              calls = ((s.slots.filterMap id).filter fun x => x.sync = .ready ∧ x.phase = .idle) →
              ((s.slots.filterMap id).map Screening.code).Nodup →
              ((s.link.state = .active ∨ s.link.state = .degraded) → s.link.queue.length + calls.length ≤ 24 →
                Effects (.noticeCheckFailed bytes) s
                  { s with
                    slots :=
                      s.slots.map fun (o : Option Screening) => o.map fun (x : Screening) =>
                        if x.sync = .ready ∧ x.phase = .idle then { x with phase := .calling, censusTimer := none } else x
                    link :=
                      { s.link with
                        receiveErrors := 0
                        queue :=
                          s.link.queue
                            ++ ((List.range calls.length).zip calls).map fun e =>
                              ⟨s.link.nextId + e.1, .censusCall e.2.code, .censusCall, none, none, false, none⟩
                        nextId := s.link.nextId + calls.length } })
              ∧ (s.link.state = .mute ∨ 24 ≤ s.link.queue.length →
                (∀ x ∈ calls, x.censusTimer = none ∧ x.request = none) →
                  Effects (.noticeCheckFailed bytes) s (s.modLink fun k => { k with receiveErrors := 0 })))))
  ∧ (∀ (s : State) (c : Instr) (sender : Nat) (n : Notice), Live s → Instr.notice c = some (sender, n) → n.ok = true →
      (Hears s sender →
        ((∃ code, n.screening? = some code ∧ s.screening code = none)
          ∨ (∃ v, (n = .verify v ∨ n = .redeem v) ∧ s.link.station ≠ some v.station)
          ∨ (∃ v item a, n = .voucherState v item a)) →
            Effects c s s)
        ∧ (s.link.station = some sender → 1 ≤ sender → sender ≤ 250 → s.link.state = .active ∨ s.link.state = .degraded →
          s.link.contention.phase ≠ .sending → s.link.contention.phase ≠ .jamming →
            ∃ t, Completes c s t ∧ t.link.state = .mute ∧ t.link.contention = Contention.none
              ∧ t.link.entries = (s.link.queue.filter fun e => e.notice.isSale) ++ s.link.overflow.toList
              ∧ (∀ l, t.link.owed.get l = false) ∧ t.link.station = s.link.station ∧ t.link.aborts = s.link.aborts))

/-- A notice as it goes onto the pair is read back as it was, from its sender: every kind, with every field at every value that
the notices allow (R42, R191). The spec gives a SOLD section no remaining lifetime. -/
def Obligations.NoticeRoundTrip : Prop :=
  ∀ (sender : Nat) (n : Notice), 1 ≤ sender → sender ≤ 250 → n.ok = true →
    (∀ code owner remaining seats, n = .censusReply code .sold owner remaining seats → remaining = 0) →
      readReception (n.encode sender) = .notice sender (some n)

/-! ### The notice in contention -/

/-- The next notice is the oldest entry of the best class present: with contention IDLE and the link ACTIVE or DEGRADED it
starts DEFERRING with a collision count of 0, and nothing else of the link changes (R24). The transmit queue, when a notice is
offered in ACTIVE or DEGRADED: HOLD, CENSUS-CALL and CENSUS-REPLY enter below 24 entries and are lost at 24 (R35); the other
classes enter below 32; at 32 they evict the youngest entry of the worst class that ranks below them, SALEs and the notice in
contention excluded, whose owner meets the loss (R36); with none to evict they are lost, but for a SALE, which enters the
overflow slot, or evicts the youngest RENEW-demand while that is occupied (R37). In MUTE every offer but a SALE is lost (R35).
A RENEW lost is owed (R39). A renewal offered while its order's RENEW is queued merges: it takes the content and the better
class, the content kept aside while that RENEW is on the pair (R38), which withdraws a removal asked for (the model's choice,
notes/assumptions/14.md). Every step keeps that an ACTIVE or DEGRADED link with an entry queued has a notice in contention, and
that a part held in reset has its link and its lanes as they are after reset (R24, R184; that the choice is made at the end of
a step is notes/assumptions/8.md). -/
def Obligations.NextNotice : Prop :=
  (∀ (k : Link), (k.queue = [] ∨ k.contention.phase ≠ .idle ∨ k.state = .off ∨ k.state = .mute → k.choose = k)
      ∧ ∀ older e newer, k.queue = older ++ e :: newer → (∀ x ∈ older, e.cls.rank < x.cls.rank) →
        (∀ x ∈ newer, e.cls.rank ≤ x.cls.rank) → k.contention.phase = .idle → k.state = .active ∨ k.state = .degraded →
          k.choose = { k with contention := ⟨.deferring, some e.id, 0, none⟩ })
  ∧ (∀ (s : State) (n : Notice) (cls : Machine.Class) (l : Option LaneIx) (tag : Option Nat),
      (s.link.state = .mute → cls ≠ .sale → s.offer n cls l tag = s.noticeLost n l tag)
      ∧ (s.link.state = .active ∨ s.link.state = .degraded →
        (cls ∈ ([.hold, .censusCall, .censusReply] : List Machine.Class) →
          (s.link.queue.length < 24 → s.offer n cls l tag = s.modLink fun k => k.withEntry n cls l tag)
            ∧ (24 ≤ s.link.queue.length → s.offer n cls l tag = s.noticeLost n l tag))
        ∧ (cls ∉ ([.hold, .censusCall, .censusReply] : List Machine.Class) →
          (s.link.queue.length < 32 → s.offer n cls l tag = s.modLink fun k => k.withEntry n cls l tag)
          ∧ (32 ≤ s.link.queue.length →
            (∀ older v newer, s.link.queue = older ++ v :: newer → Evictable s.link cls v →
              (∀ x ∈ older, Evictable s.link cls x → x.cls.rank ≤ v.cls.rank) →
              (∀ x ∈ newer, Evictable s.link cls x → x.cls.rank < v.cls.rank) →
                s.offer n cls l tag
                  = (s.modLink fun k =>
                      { k with queue := k.queue.filter fun x => x.id ≠ v.id }.withEntry n cls l tag).noticeLost v.notice v.lane v.tag)
            ∧ ((∀ x ∈ s.link.queue, ¬Evictable s.link cls x) →
              (cls ≠ .sale → s.offer n cls l tag = s.noticeLost n l tag)
              ∧ (cls = .sale → s.link.overflow = none →
                s.offer n cls l tag
                  = s.modLink fun k => { k with overflow := some ⟨k.nextId, n, cls, l, tag, false, none⟩, nextId := k.nextId + 1 })
              ∧ (∀ older v newer, cls = .sale → s.link.overflow ≠ none → s.link.queue = older ++ v :: newer →
                v.cls = .renewDemand → s.link.contention.entry ≠ some v.id →
                (∀ x ∈ newer, x.cls = .renewDemand → s.link.contention.entry = some x.id) →
                  s.offer n cls l tag
                    = (s.modLink fun k =>
                        { k with queue := k.queue.filter fun x => x.id ≠ v.id }.withEntry n cls l tag).noticeLost v.notice v.lane
                        v.tag)))))
      ∧ (∀ k, l = some k → n.isRenew = true → s.link.state = .active ∨ s.link.state = .degraded →
        s.noticeLost n l tag = s.modLink fun q => { q with owed := q.owed.set k true }))
  ∧ (∀ (s : State) (l : LaneIx) (cls : Machine.Class) (e : Entry) (code : Nat) (n : Notice) (merged : (Entry → Entry) → State),
      s.link.renewOf l (s.lane l).order.tag = some e → (s.lane l).order.code = some code →
      n = .renew code s.cfg.holdLifetime (s.renewalSeats l) →
      merged = (fun f =>
        s.modLink fun k => { k with queue := k.queue.map fun x => if x.id = e.id then f x else x, owed := k.owed.set l false }) →
        (s.renewalSeats l = [] → s.offerRenew l cls = s.removeEntry e.id)
        ∧ (s.renewalSeats l ≠ [] → s.link.onPair e.id = false →
          s.offerRenew l cls = merged fun x => { x with notice := n, cls := if cls.rank < x.cls.rank then cls else x.cls })
        ∧ (s.renewalSeats l ≠ [] → s.link.onPair e.id = true →
          s.offerRenew l cls
            = merged fun x =>
              { x with cls := if cls.rank < x.cls.rank then cls else x.cls, leaving := false, kept := some ⟨n, cls⟩ }))
  ∧ (∀ s t : State,
      (s.link.state = .active ∨ s.link.state = .degraded → s.link.queue ≠ [] → s.link.contention.phase ≠ .idle) →
      (s.pins.reset = true → s.link = Link.reset ∧ s.lanes = State.reset.lanes) → step s = .next t →
        (t.link.state = .active ∨ t.link.state = .degraded → t.link.queue ≠ [] → t.link.contention.phase ≠ .idle)
          ∧ (t.pins.reset = true → t.link = Link.reset ∧ t.lanes = State.reset.lanes))

/-- Gap, collision, jam and backoff: a notice that defers is SENDING once the gap is complete, and the pair then carries it
with this station's own number as sender (R22, R25, R42); a collision makes it JAMMING and counts, and the pair carries the
jam; after the jam of a collision before the sixteenth it waits for k slots, k below 2 to the smaller of the count and 8, and
with k = 0 it defers at once; and it defers again when the backoff timer runs out (R26). An entry whose owner asked for its
removal while it was on the pair leaves after the jam, or after a jabber cut-off, without backoff, abort count or class
outcome; a WITHDRAWING claim whose HOLD it is ends then, its seats FREE and unannounced (R30, R31, R64). The draw is an operand
of the command (notes/assumptions/11.md), and the count increases at the detection (notes/assumptions/12.md). -/
def Obligations.ContentionEvents : Prop :=
  ∀ (s : State) (draw k : Nat), Live s →
    (s.link.contention.phase = .deferring →
        Effects .gapComplete s
          (s.modLink fun q => { q with contention := { q.contention with phase := .sending } })
          ∧ ∀ e station, s.link.current = some e → s.link.station = some station →
            ∃ t, Completes .gapComplete s t ∧ t.pairOutput = .notice (e.notice.encode station))
      ∧ (s.link.contention.phase = .sending →
        Effects .collisionDetected s
          (s.modLink fun q =>
            { q with contention := { q.contention with phase := .jamming, collisions := q.contention.collisions + 1 } })
          ∧ ∃ t, Completes .collisionDetected s t ∧ t.pairOutput = .jam)
      ∧ (∀ e c gone (report : State → State), s.link.current = some e → e.leaving = true → NothingOwed s.link →
        (c = .jamComplete draw ∧ s.link.contention.phase = .jamming ∧ report = id
          ∨ c = .jabberCutoff ∧ s.link.contention.phase = .sending
            ∧ report = (fun u =>
              u.raise ⟨.linkFault, .jabber, none, none, e.notice.screening?, none, none, [], none, [], [e.notice.kindCode]⟩)) →
        gone = { s.link with queue := s.link.queue.filter fun x => x.id ≠ e.id, contention := Contention.none } →
          (e.notice.isHold = false → Effects c s (report { s with link := gone }))
          ∧ (∀ l, e.notice.isHold = true → e.lane = some l → (s.lane l).claim.state = .withdrawing →
            (∀ w, s.runningWord l ≠ some (w, .waiting)) →
            ∃ m : State, Effects c s (report m)
              ∧ SeatsBecome (({ s with link := gone } : State).modLane l fun y => { y with claim := Claim.blank }) m
                (s.lane l).claim.code ((s.lane l).claim.seats.map ClaimSeat.seat)
                (fun st => if st = .claiming l then .free else st)
              ∧ ∀ r ∈ (s.lane l).claim.seats.map ClaimSeat.seat, s.seat (s.lane l).claim.code r = some (.claiming l) →
                m.seat (s.lane l).claim.code r = some .free))
      ∧ (s.link.contention.phase = .backoff →
        Effects .backoffExpiry s
          (s.modLink fun q => { q with contention := { q.contention with phase := .deferring, backoff := none } }))
      ∧ (∀ e, s.link.contention.phase = .jamming → s.link.contention.collisions < 16 → s.link.current = some e →
        e.leaving = false → (∀ x ∈ s.link.queue, x.kept = none) →
        k = draw % 2 ^ min s.link.contention.collisions 8 →
          (k = 0 →
            Effects (.jamComplete draw) s
              (s.modLink fun q => { q with contention := { q.contention with phase := .deferring, backoff := none } }))
          ∧ (k ≠ 0 →
            Effects (.jamComplete draw) s
              (s.modLink fun q => { q with contention := { q.contention with phase := .backoff, backoff := some k } })))

/-- The notice in contention is aborted, by its sixteenth collision, which counts and at three makes an ACTIVE link DEGRADED
with a report, or by a jabber cut-off, which does not count and raises LINK-FAULT. Contention ends; a SALE stays; a RENEW
stays as RENEW-demand; a RELEASE, VOUCHER-STATE or CENSUS-REPLY leaves the queue, and a HOLD leaves it with its QUEUED claim
failed and the seats FREE; an OBJECT leaves it with a CONFLICT report OBJECTION-UNSENT; a CENSUS-CALL leaves it with the census
IDLE, and a SYNCING slot READY with its LOAD-SCREENING completed DONE (R5, R23, R28, R30, R41). That at a cut-off the report and
the hand-back of the outcome come before LINK-FAULT is the model's choice (notes/assumptions/27.md). -/
def Obligations.Aborts : Prop :=
  ∀ (s : State) (c : Instr) (e : Entry) (draw aborts : Nat) (state : LinkState) (io : Io), Live s → s.link.current = some e →
    e.leaving = false → (∀ x ∈ s.link.queue, x.kept = none) →
    (c = .jamComplete draw ∧ s.link.contention.phase = .jamming ∧ s.link.contention.collisions = 16
        ∧ aborts = min 3 (s.link.aborts + 1)
        ∧ (s.link.state = .active → 3 ≤ s.link.aborts + 1 → state = .degraded ∧ io = (s.raise (Report.of .linkDegraded .entered)).io)
        ∧ (s.link.state ≠ .active ∨ s.link.aborts + 1 < 3 → state = s.link.state ∧ io = s.io)
      ∨ c = .jabberCutoff ∧ s.link.contention.phase = .sending ∧ aborts = s.link.aborts ∧ state = s.link.state
        ∧ io = (s.raise ⟨.linkFault, .jabber, none, none, e.notice.screening?, none, none, [], none, [], [e.notice.kindCode]⟩).io) →
      (e.notice.isSale = true →
          Effects c s
            { s with io := io, link := { s.link with state := state, aborts := aborts, contention := Contention.none } })
        ∧ (e.notice.isRenew = true →
          Effects c s
            { s with
              io := io
              link :=
                { s.link with
                  state := state, aborts := aborts, contention := Contention.none
                  queue := s.link.queue.map fun x => if x.id = e.id then { x with cls := .renewDemand } else x } })
        ∧ (NothingOwed s.link →
          ((∃ a b, e.notice = .release a b) ∨ (∃ a b d, e.notice = .voucherState a b d)
            ∨ (∃ a b d f g, e.notice = .censusReply a b d f g)) →
          Effects c s
            { s with
              io := io
              link :=
                { s.link with
                  state := state, aborts := aborts, contention := Contention.none
                  queue := s.link.queue.filter fun x => x.id ≠ e.id } })
        ∧ (∀ l, e.notice.isHold = true → e.lane = some l → (s.lane l).claim.state = .queued →
          ∃ m : State, Effects c s m ∧ (m.lane l).claim = Claim.blank ∧ (m.lane l).order = (s.lane l).order
            ∧ (∀ x ∈ m.link.queue, x.id ≠ e.id ∨ s.link.nextId ≤ x.id ∨ s.link.overflow = some x)
            ∧ m.slots
                = (s.withSeats (s.lane l).claim.code ((s.lane l).claim.seats.map ClaimSeat.seat)
                    fun st => if st = .claiming l then .free else st).slots
            ∧ ∀ r ∈ (s.lane l).claim.seats.map ClaimSeat.seat, s.seat (s.lane l).claim.code r = some (.claiming l) →
              m.seat (s.lane l).claim.code r = some .free)
        ∧ (∀ (gone : Link) (cut : Report), NothingOwed s.link →
          gone = { s.link with
                    state := state, aborts := aborts, contention := Contention.none
                    queue := s.link.queue.filter fun x => x.id ≠ e.id } →
          cut = ⟨.linkFault, .jabber, none, none, e.notice.screening?, none, none, [], none, [], [e.notice.kindCode]⟩ →
            (∀ code claimant seats unsent, e.notice = .object code claimant seats →
              unsent = ⟨.conflict, .objectionUnsent, e.lane, e.tag, some code, none, none, seats, none, [], []⟩ →
                (c = .jamComplete draw → Effects c s (({ s with io := io, link := gone } : State).raise unsent))
                ∧ (c = .jabberCutoff → Effects c s ((({ s with link := gone } : State).raise unsent).raise cut)))
            ∧ (∀ code x u, e.notice = .censusCall code → s.screening code = some x →
              u = { s with
                    link := gone
                    slots :=
                      s.slots.map fun (o : Option Screening) => o.map fun (y : Screening) =>
                        if y.code = code then { y with phase := .idle, censusTimer := none, sync := .ready, request := none } else y } →
                (x.sync = .ready → Effects c s { u with io := io })
                ∧ (∀ ref, x.sync = .syncing → x.request = some ref →
                  (c = .jamComplete draw → Effects c s ({ u with io := io }.complete ref (Status.plain .done).bytes))
                  ∧ (c = .jabberCutoff → Effects c s ((u.complete ref (Status.plain .done).bytes).raise cut)))))

/-- The last bit of a notice is sent with no collision: its entry leaves, contention ends, and the abort count is 0. With an
ACTIVE link a RELEASE, OBJECT, CENSUS-REPLY or VOUCHER-STATE does nothing further; a HOLD puts its QUEUED claim in CONTEST
with the HOLD end and the full contest window; a RENEW moves the renewal base when it names every renewal seat of its order;
a SALE empties its order's renewal seats; a CENSUS-CALL starts the census window (R5, R23, R29, R48, R57, R62). A DEGRADED
link is ACTIVE again, with a report (R23). A HOLD of a WITHDRAWING claim ends the claim: its seats are FREE and announced in a
RELEASE (R31, R64). Renewal content kept aside for a RENEW enters as the youngest entry (R38). The place that is freed is taken
by the SALE of the overflow slot (R37), or else by a renewal owed, as RENEW-demand, whose mark is cleared (R39). -/
def Obligations.NoticeTransmitted : Prop :=
  (∀ (s : State) (e : Entry) (instant : Nat) (k : Link), Live s → s.link.contention.phase = .sending →
    s.link.current = some e → s.link.state = .active →
    k = { s.link with
          queue := s.link.queue.filter fun x => x.id ≠ e.id
          contention := Contention.none
          aborts := 0 } →
      (∀ l, e.kept = none → NothingOwed s.link → e.notice.isHold = true → e.lane = some l →
        (s.lane l).claim.state = .withdrawing → (s.lane l).claim.seats ≠ [] → k.queue.length < 32 →
        (∀ w, s.runningWord l ≠ some (w, .waiting)) →
          ∃ m : State, Effects (.noticeTransmitted instant) s m
            ∧ SeatsBecome
              (({ s with
                  link :=
                    k.withEntry
                      (.release (s.lane l).claim.code (planOrder ((s.lane l).claim.seats.map ClaimSeat.seat))) .release
                      (some l) (s.lane l).claim.tag } : State).modLane l fun y => { y with claim := Claim.blank })
              m (s.lane l).claim.code ((s.lane l).claim.seats.map ClaimSeat.seat)
              (fun st => if st = .claiming l then .free else st)
            ∧ ∀ r ∈ (s.lane l).claim.seats.map ClaimSeat.seat, s.seat (s.lane l).claim.code r = some (.claiming l) →
              m.seat (s.lane l).claim.code r = some .free)
      ∧ (∀ c, e.kept = some c → NothingOwed s.link → e.notice.isRenew = true →
        ∃ t, Completes (.noticeTransmitted instant) s t
          ∧ t.link.queue = k.queue ++ [⟨s.link.nextId, c.notice, c.cls, e.lane, e.tag, false, none⟩])
      ∧ (e.kept = none → e.notice.isHold = false → e.notice.isRenew = false → e.notice.isSale = false →
        (∀ code, e.notice ≠ .censusCall code) → k.queue.length < 32 →
          (∀ o, s.link.overflow = some o → (∀ l, s.link.owed.get l = false) →
            Effects (.noticeTransmitted instant) s { s with link := { k with queue := k.queue ++ [o], overflow := none } })
          ∧ (∀ l code, s.link.overflow = none → s.link.owed.get l = true → (∀ j, j ≠ l → s.link.owed.get j = false) →
            (s.lane l).order.code = some code → s.renewalSeats l ≠ [] →
              Effects (.noticeTransmitted instant) s
                { s with
                  link :=
                    { k.withEntry (.renew code s.cfg.holdLifetime (s.renewalSeats l)) .renewDemand (some l)
                        (s.lane l).order.tag with
                      owed := k.owed.set l false } })))
  ∧ ∀ (s : State) (e : Entry) (instant : Nat) (k : Link), Live s → s.link.contention.phase = .sending →
    s.link.current = some e → e.kept = none → NothingOwed s.link →
    k = { s.link with
          queue := s.link.queue.filter fun x => x.id ≠ e.id
          contention := Contention.none
          aborts := 0 } →
      ((e.notice.isHold = false ∧ e.notice.isRenew = false ∧ e.notice.isSale = false ∧ (∀ code, e.notice ≠ .censusCall code)) →
          (s.link.state = .active → Effects (.noticeTransmitted instant) s { s with link := k })
            ∧ (s.link.state = .degraded →
              Effects (.noticeTransmitted instant) s
                { s.raise (Report.of .linkDegraded .cleared) with link := { k with state := .active } }))
        ∧ (s.link.state = .active →
          (∀ l, e.notice.isHold = true → e.lane = some l → (s.lane l).claim.state = .queued →
            Effects (.noticeTransmitted instant) s
              (({ s with link := k } : State).modLane l fun y =>
                { y with
                  claim :=
                    { y.claim with
                      state := .contest
                      holdEnd := some ⟨s.house.clock, instant⟩
                      contestTimer := some s.cfg.contestWindow } }))
          ∧ (∀ l code life seats, e.notice = .renew code life seats → e.lane = some l → e.tag = (s.lane l).order.tag →
            (s.lane l).renewal ≠ none →
              ((∀ r ∈ s.renewalSeats l, r ∈ seats) →
                Effects (.noticeTransmitted instant) s
                  (({ s with link := k } : State).modLane l fun y =>
                    { y with renewal := some ⟨⟨s.house.clock, instant⟩, 0⟩ }))
              ∧ ((∃ r ∈ s.renewalSeats l, r ∉ seats) → Effects (.noticeTransmitted instant) s { s with link := k }))
          ∧ (∀ l p, e.notice.isSale = true → e.lane = some l → (s.lane l).sale = some p → p.entry = e.id →
            (∀ code r, (s.lane l).order.code = some code → s.seat code r ≠ some (.held l)) →
            (∀ x ∈ s.link.queue, x.id ≠ e.id → x.notice.isRenew = false) →
              Effects (.noticeTransmitted instant) s
                (({ s with link := k } : State).modLane l fun y => { y with sale := none, renewal := none }))
          ∧ (∀ code, e.notice = .censusCall code → e.leaving = false →
            Effects (.noticeTransmitted instant) s
              { s with
                link := k
                slots :=
                  s.slots.map fun o => o.map fun (x : Screening) =>
                    if x.code = code then { x with phase := .listening, censusTimer := some s.cfg.censusWindow } else x }))

/-! ### Timers of seats, claims, orders and lanes -/

/-- The census window of a LISTENING slot ends: the phase is IDLE, a READY slot keeps the rest, and a SYNCING slot is READY and
its LOAD-SCREENING completes DONE (R5). A PEER-HELD seat whose expiry the house clock has reached is FREE, and no other seat
changes (R14). The contest timer of a CONTEST claim runs out: its seats are HELD, one seat line is appended for each entry of
the claim, the quote is stale, the order is OPEN and names the claim's screening, the renewal timer starts from the HOLD end
or is kept, the claim is CONFIRMED and its PICK ends DONE (R52, R57, R78, R88). Each end is a command of its own
(notes/assumptions/6.md); an expiry comes with the advance of the house clock too (HouseClockAdvances). -/
def Obligations.SeatTimers : Prop :=
  (∀ (s u : State) (i : Nat) (x : Screening), Live s → s.slots[i]? = some (some x) → s.screening x.code = some x →
      x.phase = .listening → x.censusTimer ≠ none →
      u = { s with
            slots :=
              s.slots.map fun o => o.map fun (y : Screening) =>
                if y.code = x.code then { y with phase := .idle, censusTimer := none, sync := .ready, request := none } else y } →
        (x.sync = .ready → Effects (.censusWindowEnd i) s u)
          ∧ (∀ ref, x.sync = .syncing → x.request = some ref →
            Effects (.censusWindowEnd i) s (u.complete ref (Status.plain .done).bytes)))
  ∧ (∀ (s : State) (i : Nat) (x : Screening) (r : SeatRef), Live s → s.slots[i]? = some (some x) →
      ∃ m : State, Effects (.peerHeldExpiry i r) s m
        ∧ SeatsBecome s m x.code [r] fun st =>
            match st with
            | .peerHeld o e => if e ≤ s.house.clock then .free else .peerHeld o e
            | st => st)
  ∧ (∀ (s : State) (l : LaneIx) (c : Claim) (o : Order) (code : Nat) (es : List ClaimSeat) (h : TransmitEnd), Live s →
      c = (s.lane l).claim → o = (s.lane l).order → c.state = .contest → c.contestTimer ≠ none → c.holdEnd = some h →
      s.runningWord l = some (.pick code es, .taken) → o.tag.isSome = true → s.link.renewOf l o.tag = none →
        ∃ v : State, Effects (.contestTimerExpiry l) s (v.endWord l .done)
          ∧ (v.lane l).order
              = { o with
                  state := .opened
                  quoteCurrent := false
                  seatLines := o.seatLines ++ c.seats.map fun e => ⟨e.seat, e.type, none, false⟩
                  screening := o.screening.or (some ⟨c.slot, c.code⟩) }
          ∧ (v.lane l).claim = { c with state := .confirmed, contestTimer := none }
          ∧ (v.lane l).renewal = (s.lane l).renewal.or (some ⟨h, 0⟩)
          ∧ (v.lane l).attendance
              = (if o.state = .empty then some (s.house.clock + s.cfg.attendanceTimeout) else (s.lane l).attendance)
          ∧ (v.lane l).block = (s.lane l).block ∧ (∀ k, k ≠ l → v.lane k = s.lane k)
          ∧ (∀ e ∈ c.seats, s.seat c.code e.seat = some (.claiming l) → v.seat c.code e.seat = some (.held l))
          ∧ (∀ r, r ∉ c.seats.map ClaimSeat.seat → v.seat c.code r = s.seat c.code r)
          ∧ v.slots
              = (s.withSeats c.code (c.seats.map ClaimSeat.seat) fun st => if st = .claiming l then .held l else st).slots)

/-- The marks of an order's renewal timer, each while it and no later mark has passed. Before its mark no event changes
anything, and neither does a mark that has passed. At the due mark, half the hold lifetime after the base, the order's renewal
is offered as RENEW-normal with its renewal seats and the hold lifetime; at the demand mark, three quarters, a queued RENEW
becomes RENEW-demand in its place; at the expiry mark the seats of an order committing or later stay, and those of an order in
OPEN, QUOTED, PAYING, SHORT or UNWINDING are FREE and lost to it, its renewal timer stops, and one HOLD-EXPIRED report is
raised (R40, R54, R57, R58, R59, R60, R61). The instant is an operand of the command (notes/assumptions/6.md), and a mark that
came before an earlier one would pass both (notes/assumptions/39.md). -/
def Obligations.RenewalMarks : Prop :=
  ∀ (s : State) (l : LaneIx) (r : Renewal) (instant : Nat) (pass : Nat → State), Live s → (s.lane l).renewal = some r →
    pass = (fun n => s.modLane l fun y => { y with renewal := some { r with passed := n } }) →
      (instant < r.base.instant + 500 * s.cfg.holdLifetime → Effects (.dueMark l instant) s s)
        ∧ (instant < r.base.instant + 750 * s.cfg.holdLifetime → Effects (.demandMark l instant) s s)
        ∧ (instant < r.base.instant + 1000 * s.cfg.holdLifetime → Effects (.expiryMark l instant) s s)
        ∧ (1 ≤ r.passed → Effects (.dueMark l instant) s s) ∧ (2 ≤ r.passed → Effects (.demandMark l instant) s s)
        ∧ (3 ≤ r.passed → Effects (.expiryMark l instant) s s)
        ∧ (∀ code, r.passed < 1 → r.base.instant + 500 * s.cfg.holdLifetime ≤ instant →
          s.link.renewOf l (s.lane l).order.tag = none →
          s.renewalSeats l ≠ [] → (s.lane l).order.code = some code → QueueOpen s.link → s.link.owed.get l = false →
            Effects (.dueMark l instant) s
              ((pass 1).modLink fun k =>
                k.withEntry (.renew code s.cfg.holdLifetime (s.renewalSeats l)) .renewNormal (some l) (s.lane l).order.tag))
        ∧ (r.passed < 2 → r.base.instant + 750 * s.cfg.holdLifetime ≤ instant →
          (∀ e, s.link.renewOf l (s.lane l).order.tag = some e →
            Effects (.demandMark l instant) s
              ((pass 2).modLink fun k =>
                { k with queue := k.queue.map fun x => if x.id = e.id then { x with cls := .renewDemand } else x }))
          ∧ (s.link.renewOf l (s.lane l).order.tag = none → Effects (.demandMark l instant) s (pass 2)))
        ∧ (r.passed < 3 → r.base.instant + 1000 * s.cfg.holdLifetime ≤ instant →
          ((s.lane l).order.state.committingOrLater = true → Effects (.expiryMark l instant) s (pass 3))
          ∧ (∀ code tag, (s.lane l).order.state ∈ ([.opened, .quoted, .paying, .short, .unwinding] : List OrderState) →
            (s.lane l).order.code = some code → (s.lane l).order.tag = some tag → (s.lane l).sale = none →
            s.renewalSeats l ≠ [] →
              ∃ m : State, Effects (.expiryMark l instant) s m
                ∧ m.io = (s.raise ⟨.holdExpired, .none, some l, some tag, some code, none, none, s.renewalSeats l, none, [], []⟩).io
                ∧ (∀ x ∈ s.renewalSeats l, m.seat code x = some .free)
                ∧ (m.lane l).renewal = none
                ∧ ((s.lane l).order.state = .opened ∨ (s.lane l).order.state = .quoted →
                    (m.lane l).order
                      = { (s.lane l).order with
                          state := .opened
                          quoteCurrent := false
                          seatLines := (s.lane l).order.seatLines.filter fun x => x.seat ∉ s.renewalSeats l })
                ∧ ((s.lane l).order.state ≠ .opened → (s.lane l).order.state ≠ .quoted →
                    (m.lane l).order
                      = { (s.lane l).order with
                          seatLines :=
                            (s.lane l).order.seatLines.map fun x =>
                              if x.seat ∈ s.renewalSeats l then { x with lost := true } else x })))

/-- An attendance timer that has not run its full timeout changes nothing. One that has stops and raises one
ATTENDANCE-LAPSED report with the order state at the lapse: in OPEN, QUOTED and SHORT the order is cancelled, CANCELLED: one in
OPEN or QUOTED is EMPTY with its reservations returned (R134), a SHORT one goes by UNWINDING with cancel pending, its tenders
AUTHORIZED VOIDING and VOID sent for the lower one, and the PICK of a claim in flight, whose seats are FREE then, is refused
ORDER/LAPSED (R65; notes/assumptions/15.md, 25.md, 52.md); in PAYING, COMMITTING and UNWINDING the lapse is held, HELD; in SOLD,
PRINTING and UNRESOLVED nothing happens, NO-EFFECT; in COMPLETE the order returns to EMPTY, CLEARED, and its issued vouchers
change no count (R88, R89, R90, R91, R92, R134). -/
def Obligations.AttendanceLapse : Prop :=
  ∀ (s : State) (l : LaneIx) (d : Nat) (rep : ReportQual → Report), Live s → (s.lane l).attendance = some d →
    rep = (fun q =>
      ⟨.attendanceLapsed, q, some l, (s.lane l).order.tag, (s.lane l).order.code, some (s.lane l).order.state, none, [], none, [],
        []⟩) →
      (s.house.clock < d → Effects (.attendanceLapse l) s s)
        ∧ (d ≤ s.house.clock →
          ((s.lane l).order.state = .sold ∨ (s.lane l).order.state = .printing ∨ (s.lane l).order.state = .unresolved →
            Effects (.attendanceLapse l) s
              ((s.modLane l fun y => { y with attendance := none }).raise (rep .noEffect)))
          ∧ ((s.lane l).order.state = .paying ∨ (s.lane l).order.state = .committing ∨ (s.lane l).order.state = .unwinding →
            Effects (.attendanceLapse l) s
              ((s.modLane l fun y => { y with attendance := none, order := { y.order with lapseHeld := true } }).raise
                (rep .held)))
          ∧ ((s.lane l).order.state = .complete →
            ∃ m : State, Effects (.attendanceLapse l) s m ∧ (m.lane l).order = Order.blank ∧ (m.lane l).attendance = none
              ∧ (m.lane l).renewal = none ∧ m.io = (s.raise (rep .cleared)).io
              ∧ ((∀ w ∈ (s.lane l).order.voucherLines, w.code ≠ none) → m.vouchers = s.vouchers))
          ∧ ((s.lane l).order.state = .opened ∨ (s.lane l).order.state = .quoted → (s.lane l).block = none →
            QueueOpen s.link →
            ∃ m : State, Effects (.attendanceLapse l) s m ∧ (m.lane l).order = Order.blank ∧ (m.lane l).attendance = none
              ∧ (m.lane l).renewal = none ∧ m.io = (s.raise (rep .cancelled)).io
              ∧ m.vouchers = s.vouchers.returned (s.lane l).order.voucherLines
              ∧ ∀ code r, (s.lane l).order.code = some code → r ∈ (s.lane l).order.liveSeats →
                s.seat code r = some (.held l) → m.seat code r = some .free)
          ∧ (∀ o1 i, (s.lane l).order.state = .short → (s.lane l).claim.state ∉ ([.queued, .contest] : List ClaimState) →
            (s.lane l).term.line = .idle → (s.lane l).term.sending = none → (s.lane l).term.exchange = none →
            o1 = { (s.lane l).order.voidFrom .authorized with state := .unwinding, cancelPending := true } →
            (o1.tender1.state = .voiding ∧ i = .one
              ∨ o1.tender1.state ≠ .voiding ∧ o1.tender2.state = .voiding ∧ i = .two) →
              Effects (.attendanceLapse l) s
                ((s.raise (rep .cancelled)).modLane l fun y =>
                  { y with
                    attendance := none
                    order := o1
                    term := { y.term with sending := some ⟨.void, o1.tag.getD 0, i, 0⟩ } }))
          ∧ (∀ b i a es refs, ((s.lane l).order.state = .opened ∨ (s.lane l).order.state = .quoted) → QueueOpen s.link →
            ((s.lane l).claim.state = .queued ∨ (s.lane l).claim.state = .contest) →
            (∀ e, s.link.holdOf l = some e → s.link.onPair e.id = false) →
            ((s.lane l).order.code = none ∨ (s.lane l).order.code = some (s.lane l).claim.code) →
            refs = (s.lane l).claim.seats.map ClaimSeat.seat → refs ≠ [] → (s.lane l).block = some b →
            b.mode = .running i .taken → b.words[i]? = some (.pick a es) →
              ∃ m : State, Effects (.attendanceLapse l) s m ∧ (m.lane l).order = Order.blank ∧ (m.lane l).attendance = none
                ∧ (m.lane l).renewal = none ∧ (m.lane l).claim = Claim.blank ∧ (m.lane l).block = none
                ∧ (∀ k, k ≠ l → m.lane k = s.lane k) ∧ m.vouchers = s.vouchers.returned (s.lane l).order.voucherLines
                ∧ (∀ r ∈ refs, s.seat (s.lane l).claim.code r = some (.claiming l) →
                    m.seat (s.lane l).claim.code r = some .free)
                ∧ m.io
                    = ((s.raise (rep .cancelled)).complete b.ref
                        (Status.bytes ⟨.refused, some i, some .orderLapsed, some (.seats refs), some .empty, none, []⟩)).io))

/-! ### Terminals (06_card_payment.md) -/

/-- The last byte of a frame to a terminal opens its exchange: the line is AWAITING, with the deadline of the authorization or
the capture timeout (R109). Received bytes that hold no good frame, and a gap between two bytes, change nothing (R108). The
ends of an AUTH exchange, with the drain latch clear or set; first where the PAY runs and nothing is lost or cancelled: a
RESULT for another tender changes nothing (R110); declined, cancelled by the customer, or approved for 0, the tender is
DECLINED and the order SHORT or QUOTED with the PAY refused (R113, R114); approved for less than is due, PAY/SHORT with the
order SHORT, or UNWINDING with cause SHORT-FINAL and both tenders VOIDING when the other was AUTHORIZED (R113); approved for
what is due, the order commits (R113, R117); in doubt by TERMINAL-ERROR or its deadline, the tender is VOIDING and the order
UNWINDING (R115). With a line lost, an approval is given back, UNWINDING with cause SEATS-LOST, and so is the other tender's
after a refusal; with no tender AUTHORIZED the order is OPEN without its lost lines and the PAY refused with them as offending
list (R116, R117). With cancel pending the tender takes its state and every AUTHORIZED one is VOIDING, or with none the order
is EMPTY, its reservations returned, and what waited ends (R84, R126, R134; the cause is notes/assumptions/52.md). Where SHORT, QUOTED or OPEN is reached, a
held lapse and the drain latch are met after the PAY's status (StepEnds): the lapse's report CANCELLED is raised first, and
either cancels the order (R80, R90, R186; which comes first is notes/assumptions/16.md). The frame being sent as state of its own is notes/assumptions/25.md; the
received bytes as one operand, 26.md. -/
def Obligations.AuthExchange : Prop :=
  (∀ (s : State) (l : LaneIx), Live s →
      (∀ m, (s.lane l).term.sending = some m →
        Effects (.terminalFrameSent l) s
          (s.modLane l fun y =>
            { y with
              term :=
                { y.term with
                  line := .awaiting
                  sending := none
                  exchange :=
                    some ⟨m, s.house.clock + if m.kind = .auth then s.cfg.authTimeout else s.cfg.captureTimeout⟩ } }))
        ∧ (∀ bytes, (scanFrames false .hunt bytes).filterMap readTerminal = [] → Effects (.terminalFrameDiscarded l bytes) s s)
        ∧ Completes (.terminalByteGapTimeout l) s s)
  ∧ (∀ (s : State) (l : LaneIx) (x : Exchange) (o o1 : Order) (i : TenderIx) (cap : Option Nat)
      (settled : Order → (Terminal → Terminal) → State), Live s → o = (s.lane l).order →
      (s.lane l).term.exchange = some x → x.msg.kind = .auth → i = x.msg.index → (s.lane l).term.line = .awaiting →
      (s.lane l).term.sending = none → o.cancelPending = false →
      (∀ v ∈ o.seatLines, v.lost = false) → s.runningWord l = some (.pay cap, .taken) →
      settled = (fun y g =>
        s.modLane l fun z => { z with order := y, term := g { z.term with exchange := none, line := .idle } }) →
        (∀ tag index outcome approved auth, (tag ≠ x.msg.tag ∨ index ≠ i.number) →
            Effects (.resultReceived l tag index outcome approved auth) s s)
          ∧ (s.house.clock < x.deadline → Effects (.authTimeout l) s s)
          ∧ (∀ outcome approved auth code, (TerminalRx.result x.msg.tag i.number outcome approved auth).ok = true →
            (outcome = .declined ∧ code = .payDeclined ∨ outcome = .customerCancel ∧ code = .payCustomerCancel
              ∨ (outcome = .approved ∨ outcome = .partialAmount) ∧ approved = 0 ∧ code = .payDeclined) →
            o1 = { o.modTender i fun t => { t with state := .declined } with
                    state := if (o.tender i.other).state = .authorized then .short else .quoted } →
              StepEnds (.resultReceived l x.msg.tag i.number outcome approved auth) s
                ((settled o1 id).endWord l (.refused code (some (.number o1.due)) [])) l o1)
          ∧ (∀ outcome approved auth, (TerminalRx.result x.msg.tag i.number outcome approved auth).ok = true →
            (outcome = .approved ∨ outcome = .partialAmount) → 1 ≤ approved →
            o1 = (o.modTender i fun t =>
              { t with state := .authorized, approved := some (min approved t.requested), auth := some auth }) →
              (o1.due ≠ 0 → (o.tender i.other).state ≠ .authorized →
                StepEnds (.resultReceived l x.msg.tag i.number outcome approved auth) s
                  ((settled { o1 with state := .short } id).endWord l (.refused .payShort (some (.number o1.due)) [])) l
                  { o1 with state := .short })
              ∧ (o1.due ≠ 0 → (o.tender i.other).state = .authorized →
                Effects (.resultReceived l x.msg.tag i.number outcome approved auth) s
                  (settled { o1.voidFrom .authorized with state := .unwinding } fun t =>
                    { t with cause := some .shortFinal, sending := some ⟨.void, o.tag.getD 0, .one, 0⟩ }))
              ∧ (∀ j, o1.due = 0 → (∀ v ∈ o.seatLines, s.seat (o.code.getD 0) v.seat = some (.held l)) →
                j = (if o1.tender1.state = .authorized then TenderIx.one else .two) →
                Effects (.resultReceived l x.msg.tag i.number outcome approved auth) s
                  (settled { o1.modTender j fun t => { t with state := .capturing } with state := .committing } fun t =>
                    { t with sending := some ⟨.capture, o.tag.getD 0, j, (o1.tender j).approved.getD 0⟩ })))
          ∧ (∀ c cause,
            ((∃ approved auth, c = .resultReceived l x.msg.tag i.number .terminalError approved auth
                ∧ (TerminalRx.result x.msg.tag i.number .terminalError approved auth).ok = true ∧ cause = .terminal)
              ∨ c = .authTimeout l ∧ x.deadline ≤ s.house.clock ∧ cause = .timeout) →
            (o.tender i.other).state ≠ .voiding →
              Effects c s
                (settled { o.modTender i fun t => { t with state := .voiding } with state := .unwinding } fun t =>
                  { t with cause := some cause, sending := some ⟨.void, o.tag.getD 0, i, 0⟩ })))
  ∧ ∀ (s : State) (l : LaneIx) (x : Exchange) (o o1 : Order) (i j : TenderIx) (c : Instr) (lost : List SeatRef)
      (settled : Order → (Terminal → Terminal) → State), Live s → o = (s.lane l).order →
      (s.lane l).term.exchange = some x → x.msg.kind = .auth → i = x.msg.index → (s.lane l).term.line = .awaiting →
      (s.lane l).term.sending = none → (o.tender i.other).state ≠ .voiding →
      lost = (o.seatLines.filter fun v => v.lost).map SeatLine.seat →
      settled = (fun y g =>
        s.modLane l fun z => { z with order := y, term := g { z.term with exchange := none, line := .idle } }) →
        (∀ outcome approved auth, c = .resultReceived l x.msg.tag i.number outcome approved auth →
          (TerminalRx.result x.msg.tag i.number outcome approved auth).ok = true →
          (outcome = .approved ∨ outcome = .partialAmount) → 1 ≤ approved →
          o1 = (o.modTender i fun t =>
            { t with state := .authorized, approved := some (min approved t.requested), auth := some auth }).voidFrom .authorized →
          j = (if o1.tender1.state = .voiding then TenderIx.one else .two) →
            (o.cancelPending = false → lost ≠ [] →
              Effects c s
                (settled { o1 with state := .unwinding } fun t =>
                  { t with cause := some .seatsLost, sending := some ⟨.void, o.tag.getD 0, j, 0⟩ }))
            ∧ (o.cancelPending = true →
              Effects c s
                (settled { o1 with state := .unwinding } fun t => { t with sending := some ⟨.void, o.tag.getD 0, j, 0⟩ })))
        ∧ ((∃ approved auth, c = .resultReceived l x.msg.tag i.number .terminalError approved auth
                ∧ (TerminalRx.result x.msg.tag i.number .terminalError approved auth).ok = true)
              ∨ c = .authTimeout l ∧ x.deadline ≤ s.house.clock →
          o.cancelPending = true → o1 = (o.modTender i fun t => { t with state := .voiding }).voidFrom .authorized →
          j = (if o1.tender1.state = .voiding then TenderIx.one else .two) →
            Effects c s
              (settled { o1 with state := .unwinding } fun t => { t with sending := some ⟨.void, o.tag.getD 0, j, 0⟩ }))
        ∧ (∀ outcome approved auth code, c = .resultReceived l x.msg.tag i.number outcome approved auth →
          (TerminalRx.result x.msg.tag i.number outcome approved auth).ok = true →
          (outcome = .declined ∧ code = .payDeclined ∨ outcome = .customerCancel ∧ code = .payCustomerCancel
            ∨ (outcome = .approved ∨ outcome = .partialAmount) ∧ approved = 0 ∧ code = .payDeclined) →
          o1 = (o.modTender i fun t => { t with state := .declined }) →
            ((o.tender i.other).state = .authorized → o.cancelPending = false → lost ≠ [] →
              Effects c s
                (settled { o1.voidFrom .authorized with state := .unwinding } fun t =>
                  { t with cause := some .seatsLost, sending := some ⟨.void, o.tag.getD 0, i.other, 0⟩ }))
            ∧ ((o.tender i.other).state = .authorized → o.cancelPending = true →
              Effects c s
                (settled { o1.voidFrom .authorized with state := .unwinding } fun t =>
                  { t with sending := some ⟨.void, o.tag.getD 0, i.other, 0⟩ }))
            ∧ ((o.tender i.other).state ≠ .authorized → o.cancelPending = true →
              ∃ v m : State, Effects c s m ∧ (m.lane l).order = Order.blank ∧ (m.lane l).attendance = none
                ∧ (m.lane l).renewal = none ∧ (m.lane l).term.line = .idle ∧ (m.lane l).term.exchange = none
                ∧ (v.lane l).order = Order.blank ∧ (v.lane l).block = (s.lane l).block ∧ (QueueOpen s.link → v.io = s.io)
                ∧ ((s.lane l).block = none → m = v)
                ∧ (s.runningWord l = some (.cancel, .taken) → m = v.endWord l .done)
                ∧ (∀ b offset code, (s.lane l).block = some b → b.mode = .strictWait offset code →
                  m
                    = (v.modLane l fun y => { y with block := none }).complete b.ref
                        (Status.bytes ⟨.malformed, offset, some code, none, some .empty, none, []⟩))
                ∧ m.vouchers = s.vouchers.returned o.voucherLines
                ∧ ∀ a r, o.code = some a → r ∈ o.liveSeats → s.seat a r = some (.held l) → m.seat a r = some .free)
            ∧ (∀ cap (o2 : Order), o.cancelPending = false → s.runningWord l = some (.pay cap, .taken) →
              o2 = (if lost = [] then { o1 with state := if (o.tender i.other).state = .authorized then .short else .quoted }
                else { o1 with state := .opened, quoteCurrent := false, seatLines := o.seatLines.filter fun v => v.seat ∉ lost }) →
              (lost = [] ∨ (o.tender i.other).state ≠ .authorized) →
                StepEnds c s ((settled o2 id).endWord l (.refused code (some (.number o1.due)) lost)) l o2))

/-- CAPTURE answered: CAPTURED takes the approved amount, and the next AUTHORIZED tender is captured, or the order is SOLD in
the steps of R119 (SoldTo): its seats, its SALE, its vouchers and the PAY word, a held lapse then cleared (R62, R90, R118, R119,
R136). CAPTURE that ends with a RESULT or its deadline fails: its tender and every CAPTURED or
AUTHORIZED one are VOIDING, the order is UNWINDING with cause CAPTURE-FAILED, and the lowest VOIDING tender is voided (R120,
R121). That the next CAPTURE or VOID is then a frame being sent, and none was being sent before, is the model's
(notes/assumptions/25.md). -/
def Obligations.CaptureExchange : Prop :=
  ∀ (s : State) (l : LaneIx) (x : Exchange) (o o1 : Order) (i : TenderIx) (settled : Order → (Terminal → Terminal) → State),
    Live s → o = (s.lane l).order → (s.lane l).term.exchange = some x → x.msg.kind = .capture → i = x.msg.index →
    (s.lane l).term.line = .awaiting → (s.lane l).term.sending = none → codeOk x.msg.tag = true →
    settled = (fun y g => s.modLane l fun z => { z with order := y, term := g { z.term with exchange := none, line := .idle } }) →
      (o1 = (o.modTender i fun t => { t with state := .captured, captured := t.approved.getD 0 }) →
        ((o.tender i.other).state = .authorized →
          Effects (.capturedReceived l x.msg.tag i.number) s
            (settled (o1.modTender i.other fun t => { t with state := .capturing }) fun t =>
              { t with sending := some ⟨.capture, o.tag.getD 0, i.other, (o.tender i.other).approved.getD 0⟩ }))
        ∧ ((o.tender i.other).state ≠ .authorized →
          ∃ m : State, Effects (.capturedReceived l x.msg.tag i.number) s m ∧ SoldTo (settled o1 id) l m
            ∧ (m.lane l).order.state = .sold ∧ (m.lane l).order.lapseHeld = false
            ∧ (m.lane l).order.tender1 = o1.tender1 ∧ (m.lane l).order.tender2 = o1.tender2
            ∧ (m.lane l).order.quote = o.quote
            ∧ ∀ v ∈ o.seatLines, s.seat (o.code.getD 0) v.seat = some (.held l) →
              m.seat (o.code.getD 0) v.seat = some (.sold s.cfg.station)))
      ∧ (s.house.clock < x.deadline → Effects (.captureTimeout l) s s)
      ∧ (∀ c j, (c = .captureTimeout l ∧ x.deadline ≤ s.house.clock
            ∨ ∃ outcome approved auth, c = .resultReceived l x.msg.tag i.number outcome approved auth
              ∧ (TerminalRx.result x.msg.tag i.number outcome approved auth).ok = true) →
          o1 = { ((o.modTender i fun t => { t with state := .voiding }).voidFrom .captured).voidFrom .authorized with
                  state := .unwinding } →
          j = (if o1.tender1.state = .voiding then TenderIx.one else .two) →
            Effects c s
              (settled o1 fun t =>
                { t with cause := some .captureFailed, sending := some ⟨.void, o.tag.getD 0, j, 0⟩ }))

/-- VOID answered, and the end of what it leaves, of an UNWINDING order. VOIDED keeps the tender's amounts, and the next
VOIDING tender is voided (R121); with none left the order takes the state its cause gives and its PAY is refused: for TIMEOUT and
TERMINAL it is SHORT with the other tender AUTHORIZED and QUOTED otherwise, for SHORT-FINAL QUOTED, and with a line lost UNWINDING
again with cause SEATS-LOST, or OPEN; OPEN without its lost lines for SEATS-LOST, the lost seats the offending list; EMPTY for
CAPTURE-FAILED, its HELD seats FREE and its reservations returned; and with cancel pending it is EMPTY and what waited ends (R84,
R116, R122, R134). A held lapse and the drain latch are met after the PAY's status (StepEnds; R90, R186;
notes/assumptions/16.md). VOID that ends with a RESULT or its deadline makes the tender UNRESOLVED. With a tender UNRESOLVED and
none left to void the order is UNRESOLVED, with the pin deadline 600 s ahead and its seats as they were; a PAYMENT-UNRESOLVED
report ENTERED with its tenders is raised, and the PAY or CANCEL that waited is refused PAY/UNRESOLVED (R84, R123, R124). The pin
deadline, once reached: the order's HELD seats are FREE, its reservations are returned, the report PIN-EXPIRED is raised, its pin
deadline is absent and it returns to EMPTY; before that nothing changes (R125). That the next VOID is a frame being sent, and none
was being sent before, is the model's (notes/assumptions/25.md). -/
def Obligations.VoidExchange : Prop :=
  (∀ (s : State) (l : LaneIx) (d : Nat), Live s → (s.lane l).order.state = .unresolved →
      (s.lane l).term.pinDeadline = some d →
        (s.house.clock < d → Effects (.pinDeadline l) s s)
          ∧ (d ≤ s.house.clock →
            ∃ m : State, Effects (.pinDeadline l) s m ∧ (m.lane l).order = Order.blank ∧ (m.lane l).term.pinDeadline = none
              ∧ (m.lane l).attendance = none ∧ (m.lane l).renewal = none ∧ (m.lane l).block = (s.lane l).block
              ∧ m.vouchers = s.vouchers.returned (s.lane l).order.voucherLines
              ∧ (QueueOpen s.link → m.io = (s.raise (s.unresolvedAs l .pinExpired)).io)
              ∧ ∀ code r, (s.lane l).order.code = some code → r ∈ (s.lane l).order.liveSeats →
                s.seat code r = some (.held l) → m.seat code r = some .free))
  ∧ ∀ (s : State) (l : LaneIx) (x : Exchange) (o o1 : Order) (i : TenderIx) (settled : Order → (Terminal → Terminal) → State),
    Live s → o = (s.lane l).order → (s.lane l).term.exchange = some x → x.msg.kind = .void → i = x.msg.index →
    (s.lane l).term.line = .awaiting → (s.lane l).term.sending = none → codeOk x.msg.tag = true → o.state = .unwinding →
    settled = (fun y g => s.modLane l fun z => { z with order := y, term := g { z.term with exchange := none, line := .idle } }) →
      (o1 = (o.modTender i fun t => { t with state := .voided }) →
        ((o.tender i.other).state = .voiding →
          Effects (.voidedReceived l x.msg.tag i.number) s
            (settled o1 fun t => { t with sending := some ⟨.void, o.tag.getD 0, i.other, 0⟩ }))
        ∧ (∀ cap cause code lost, (o.tender i.other).state ∉ ([.voiding, .unresolved] : List TenderState) →
          o.cancelPending = false → s.runningWord l = some (.pay cap, .taken) → (s.lane l).term.cause = some cause →
          (cause, code) ∈ ([(.timeout, .payTimeout), (.terminal, .payTerminal), (.shortFinal, .payShortFinal)] :
            List (UnwindCause × Code)) →
          (cause = .shortFinal → (o.tender i.other).state ≠ .authorized) →
          lost = (o.seatLines.filter fun v => v.lost).map SeatLine.seat →
            ((o.tender i.other).state = .authorized → lost ≠ [] →
              Effects (.voidedReceived l x.msg.tag i.number) s
                (settled (o1.voidFrom .authorized) fun t =>
                  { t with cause := some .seatsLost, sending := some ⟨.void, o.tag.getD 0, i.other, 0⟩ }))
            ∧ ((o.tender i.other).state ≠ .authorized ∨ lost = [] →
              ∀ o2, o2 = (if lost = [] then
                    { o1 with state := if (o.tender i.other).state = .authorized then .short else .quoted }
                  else
                    { o1 with state := .opened, quoteCurrent := false, seatLines := o.seatLines.filter fun v => v.seat ∉ lost }) →
                StepEnds (.voidedReceived l x.msg.tag i.number) s
                  ((settled o2 fun t => { t with cause := none }).endWord l (.refused code (some (.number o1.due)) lost)) l o2))
        ∧ ((o.tender i.other).state ∉ ([.voiding, .unresolved, .authorized] : List TenderState) →
          (∀ cap q, o.cancelPending = false → o.quote = some q → s.runningWord l = some (.pay cap, .taken) →
            ((s.lane l).term.cause = some .seatsLost →
              ∀ lost o2, lost = (o.seatLines.filter fun v => v.lost).map SeatLine.seat →
                o2 = { o1 with
                        state := .opened, quoteCurrent := false, seatLines := o.seatLines.filter fun v => v.seat ∉ lost } →
                StepEnds (.voidedReceived l x.msg.tag i.number) s
                  ((settled o2 fun t => { t with cause := none }).endWord l
                    (.refused .paySeatsLost (some (.number q.total)) lost)) l o2)
            ∧ ((s.lane l).term.cause = some .captureFailed →
              ∃ m : State, Effects (.voidedReceived l x.msg.tag i.number) s
                  (m.endWord l (.refused .payCaptureFailed (some (.number q.total)) []))
                ∧ (m.lane l).block = (s.lane l).block ∧ (m.lane l).order = Order.blank ∧ (m.lane l).attendance = none
                ∧ (m.lane l).renewal = none ∧ (m.lane l).term.cause = none ∧ (QueueOpen s.link → m.io = s.io)
                ∧ m.vouchers = s.vouchers.returned o.voucherLines
                ∧ ∀ code r, o.code = some code → r ∈ o.liveSeats → s.seat code r = some (.held l) → m.seat code r = some .free))
          ∧ (o.cancelPending = true →
            ∃ v m : State, Effects (.voidedReceived l x.msg.tag i.number) s m ∧ (m.lane l).order = Order.blank
              ∧ (m.lane l).attendance = none ∧ (m.lane l).renewal = none ∧ (m.lane l).term.cause = none
              ∧ m.vouchers = s.vouchers.returned o.voucherLines ∧ (v.lane l).block = (s.lane l).block
              ∧ (v.lane l).order = Order.blank ∧ (QueueOpen s.link → v.io = s.io)
              ∧ ((s.lane l).block = none → m = v)
              ∧ (s.runningWord l = some (.cancel, .taken) → m = v.endWord l .done)
              ∧ (∀ b offset code, (s.lane l).block = some b → b.mode = .strictWait offset code →
                m
                  = (v.modLane l fun y => { y with block := none }).complete b.ref
                      (Status.bytes ⟨.malformed, offset, some code, none, some .empty, none, []⟩))
              ∧ ∀ code r, o.code = some code → r ∈ o.liveSeats → s.seat code r = some (.held l) → m.seat code r = some .free)))
      ∧ (s.house.clock < x.deadline → Effects (.voidTimeout l) s s)
      ∧ (∀ (c : Instr) (o2 : Order) (told : State),
          (((c = .voidTimeout l ∧ x.deadline ≤ s.house.clock
                ∨ ∃ outcome approved auth, c = .resultReceived l x.msg.tag i.number outcome approved auth
                  ∧ (TerminalRx.result x.msg.tag i.number outcome approved auth).ok = true)
              ∧ (o.tender i.other).state ∉ ([.voiding, .authorized, .captured] : List TenderState)
              ∧ o1 = o.modTender i fun t => { t with state := .unresolved })
            ∨ (c = .voidedReceived l x.msg.tag i.number ∧ (o.tender i.other).state = .unresolved
              ∧ o1 = o.modTender i fun t => { t with state := .voided })) →
          o2 = { o1 with state := .unresolved, cancelPending := false, lapseHeld := false } →
          told
            = (settled o2 fun t => { t with cause := none, pinDeadline := some (s.house.clock + 600) }).raise
                ⟨.paymentUnresolved, .entered, some l, o.tag, o.code, none, none, [], none,
                  ([⟨.one, o1.tender1⟩, ⟨.two, o1.tender2⟩] : List TenderSummary).filter fun t => t.tender.state ≠ .none, []⟩ →
            ((∀ cap, s.runningWord l ≠ some (.pay cap, .taken)) → s.runningWord l ≠ some (.cancel, .taken) →
              (∀ b offset code, (s.lane l).block = some b → b.mode ≠ .strictWait offset code) → Effects c s told)
            ∧ (∀ cap q, s.runningWord l = some (.pay cap, .taken) → o.quote = some q →
              Effects c s (told.endWord l (.refused .payUnresolved (some (.number q.total)) [])))
            ∧ (s.runningWord l = some (.cancel, .taken) → Effects c s (told.endWord l (.refused .payUnresolved none [])))
            ∧ (∀ b offset code, (s.lane l).block = some b → b.mode = .strictWait offset code →
              Effects c s
                ((told.modLane l fun y => { y with block := none }).complete b.ref
                  (Status.bytes ⟨.malformed, offset, some code, none, some .unresolved, o2.currentTotal, []⟩))))

/-! ### Printers (08_ticket_printing.md) -/

/-- The printer line of an enabled port. The last byte of a frame makes its message outstanding for the item timeout (R146,
R149, R156). Bytes that hold no good frame, a gap, and a DONE or PRESENT that answers nothing outstanding change nothing
(R146). PRESENT that answers a PROBE with the fault lines clear clears the fault, makes the printer READY and raises
PRINTER-RECOVERED; with a line asserted it only ends the PROBE (R149). A printer that recovers while jobs wait is BUSY with one
of them: the RETURNED one returned earliest, else of the urgent ones, those within the urgent window of their screening's
start, the oldest, else the oldest (R149, R154). FAULT makes a printer that is READY, that is OFFLINE with nothing outstanding, or
that has a PROBE outstanding, FAULTED with its report and, with the lines clear, a PROBE; on a FAULTED printer with nothing
outstanding it changes nothing (R151). DONE of the last item ends the job: the
printer is READY, the order COMPLETE with every item DONE and its attendance timer restarted (R158, R159); DONE with an item
left sends the next one (R158), a TICKET with its content and a serial drawn at that send (R156, R157). DONE of a STUB sets stub printed on the ISSUED or EXPIRED record of the code its line carries,
of two records with one code the younger (R140; notes/assumptions/53.md); with no record, or for any other item, the voucher
table is as it was. The frame being sent as state of its own, begun in the step that decides it and dropped by a fault, is
notes/assumptions/25.md; the received bytes as one operand, 26.md. -/
def Obligations.PrinterMessages : Prop :=
  ∀ (s : State) (p : PortIx) (x : Printer), Live s → x = s.printer p → x.enabled = true →
    (∀ m, x.sending = some m →
        Effects (.printerFrameSent p) s
          (s.modPrinter p fun y => { y with sending := none, outstanding := some ⟨m, s.house.clock + s.cfg.itemTimeout⟩ }))
      ∧ (∀ bytes, (scanFrames true .hunt bytes).filterMap readPrinter = [] → Effects (.printerFrameDiscarded p bytes) s s)
      ∧ Completes (.printerByteGapTimeout p) s s
      ∧ (x.outstanding = none → Effects (.presentReceived p) s s ∧ ∀ tag, Effects (.doneReceived p tag) s s)
      ∧ (∀ d, x.outstanding = some ⟨.probe, d⟩ →
        (s.linesClear p = false → Effects (.presentReceived p) s (s.modPrinter p fun y => { y with outstanding := none }))
        ∧ (∀ q, s.linesClear p = true → s.printing.jobs = [] →
          (x.fault = false ∧ q = .none ∨ ∃ cause, x.fault = true ∧ x.cause = some cause ∧ q = cause.qual) →
          Effects (.presentReceived p) s
            ((s.modPrinter p fun y =>
              { y with fault := false, cause := none, silent := false, state := .ready, outstanding := none }).raise
              ⟨.printerRecovered, q, none, none, none, none, some p, [], none, [], []⟩))
        ∧ (∀ older j newer, s.linesClear p = true → s.isReady (1 - p) = false → s.printing.jobs = older ++ j :: newer →
          (j.place = .returned ∧ (∀ y ∈ older, y.place = .returned → j.returnOrder.getD 0 < y.returnOrder.getD 0)
              ∧ (∀ y ∈ newer, y.place = .returned → j.returnOrder.getD 0 ≤ y.returnOrder.getD 0)
            ∨ (∀ y ∈ s.printing.jobs, y.place ≠ .returned) ∧ j.place = .waiting
              ∧ ∃ soon : Job → Prop,
                (∀ y, soon y ↔ ∃ code start, y.screening = some (code, start)
                  ∧ start ≤ s.house.clock + 60 * s.cfg.urgentWindow)
                ∧ (soon j ∧ (∀ y ∈ older, y.place = .waiting → ¬soon y)
                  ∨ (∀ y ∈ s.printing.jobs, y.place = .waiting → ¬soon y) ∧ ∀ y ∈ older, y.place ≠ .waiting)) →
            ∃ t, Completes (.presentReceived p) s t ∧ (t.printer p).job = some j.lane ∧ (t.printer p).state = .busy
              ∧ t.printer (1 - p) = s.printer (1 - p)))
      ∧ (∀ tag cause,
        (x.state = .faulted → x.outstanding = none → Effects (.faultReceived p tag cause) s s)
        ∧ (x.job = none →
          (x.state = .ready ∨ (x.state = .offline ∧ x.outstanding = none) ∨ ∃ d, x.outstanding = some ⟨.probe, d⟩) →
          Effects (.faultReceived p tag cause) s
            ((s.modPrinter p fun y =>
              ⟨y.enabled, .faulted, true, some .faultMessage, none, if s.linesClear p then some .probe else none, none, y.silent,
                none⟩).raise ⟨.printerFault, .faultMessage, none, none, none, none, some p, [], none, [], [cause]⟩)))
      ∧ (∀ l j k content d i left after, x.job = some l → s.printing.jobs = [j] → j.lane = l →
        x.outstanding = some ⟨.item ⟨l.val, k, i.spoils⟩ content, d⟩ → j.items[k]? = some i →
        left = (j.items.set k { i with state := .done }) →
        (i.kind ≠ .stub ∧ after = s.vouchers
          ∨ (∃ n v a, i.kind = .stub ∧ i.line = some n ∧ (s.lane l).order.voucherLines[n]? = some v ∧ v.code = some a
            ∧ ((∀ e ∈ s.vouchers.table, e.code ≠ a) ∧ after = s.vouchers
              ∨ ∃ older r newer, s.vouchers.table = older ++ r :: newer ∧ r.code = a ∧ (∀ e ∈ newer, e.code ≠ a)
                ∧ after = { s.vouchers with
                    table :=
                      older ++ (if r.status = .issued ∨ r.status = .expired then { r with printed := true } else r) :: newer }))) →
          ((∀ e ∈ left, e.state = .done) →
            ∃ t, Completes (.doneReceived p ⟨l.val, k, i.spoils⟩) s t ∧ t.printing.jobs = [] ∧ t.vouchers = after
              ∧ t.printer p = { x with state := .ready, job := none, sending := none, outstanding := none }
              ∧ (t.lane l).order.state = .complete ∧ (t.lane l).order.progress = some (.finished left)
              ∧ (t.lane l).attendance = some (s.house.clock + s.cfg.attendanceTimeout))
          ∧ (∀ n next, left[n]? = some next → next.state ≠ .done → next.kind ≠ .ticket →
            (∀ m e, m < n → left[m]? = some e → e.state = .done) →
              ∃ t, Completes (.doneReceived p ⟨l.val, k, i.spoils⟩) s t
                ∧ t.printing.jobs = [{ j with items := left.set n { next with state := .sent } }]
                ∧ (∃ content, t.printer p
                    = { x with outstanding := none, sending := some (.item ⟨l.val, n, next.spoils⟩ content) })
                ∧ t.lanes = s.lanes ∧ t.vouchers = after)
          ∧ (∀ n next y v code z, left[n]? = some next → next.kind = .ticket → next.serial = none →
            next.line = some y → next.state ≠ .done → (∀ m e, m < n → left[m]? = some e → e.state = .done) →
            (s.lane l).order.seatLines[y]? = some v → (s.lane l).order.code = some code → s.screening code = some z →
              ∃ t, Completes (.doneReceived p ⟨l.val, k, i.spoils⟩) s t
                ∧ t.printing.jobs
                    = [{ j with items := left.set n { next with state := .sent, serial := some s.printing.serial } }]
                ∧ t.printing.serial = (if 16777215 ≤ s.printing.serial then 1 else s.printing.serial + 1)
                ∧ t.printer p
                    = { x with
                        outstanding := none
                        sending :=
                          some (.item ⟨l.val, n, next.spoils⟩
                            (.ticket code z.start v.seat v.type (v.price.getD 0) s.cfg.station s.printing.serial)) }
                ∧ t.lanes = s.lanes ∧ t.vouchers = after))

/-- Deadlines and inputs of an enabled port. A PROBE that is not answered makes the printer OFFLINE, reports its first silence
and starts the 5 s interval, whose end sends a new PROBE when the lines are clear (R150). An item whose deadline ends is
SPOILED, its printer FAULTED with ITEM-TIMEOUT, and its job RETURNED, or failed at the third spoil with its order SOLD again
(R160, R161, R162); the voucher of a STUB is reissued (R141, as VoucherNotices states it). A fault of a BUSY printer, by a
FAULT message or a fault line, spoils the item on it in the same way: the job is RETURNED, or at the third spoil it fails, with
a PRINT-FAILED report and the PRINT word refused PRINT/FAILED with the number of items not DONE; then the printer is FAULTED
and its PRINTER-FAULT report carries the job's lane and tag, with a PROBE after a FAULT message that finds the lines clear
(R147, R151, R160 to R162; that PRINT-FAILED is raised before it is notes/assumptions/27.md). Where the other printer is READY,
a job returned goes on there at once (R161). A fault line that becomes asserted makes an idle printer FAULTED with its cause
and report, and only ends what is outstanding on a FAULTED one (notes/assumptions/43.md); its release sends a PROBE when both
lines are clear (R147, R149). PAPER-LOW raises a report when it becomes asserted and none when it is released (R148). Before
its end no deadline changes anything. The PROBE as a frame being sent, and such a frame dropped by a fault, are the model's
(notes/assumptions/25.md). -/
def Obligations.PrinterTimersAndInputs : Prop :=
  ∀ (s : State) (p : PortIx) (x : Printer), Live s → x = s.printer p → x.enabled = true →
    (∀ o, x.outstanding = some o →
        (s.house.clock < o.deadline → Effects (.probeTimeout p) s s ∧ Effects (.itemTimeout p) s s)
        ∧ ∀ off, o.msg = .probe → o.deadline ≤ s.house.clock →
          off = (s.modPrinter p fun y =>
            { y with outstanding := none, state := .offline, silent := true, interval := some (s.house.clock + 5) }) →
            (x.silent = true → Effects (.probeTimeout p) s off)
            ∧ (x.silent = false →
              Effects (.probeTimeout p) s
                (off.raise ⟨.printerFault, .noAnswer, none, none, none, none, some p, [], none, [], []⟩)))
      ∧ (∀ d, x.interval = some d →
        (s.house.clock < d → Effects (.probeIntervalEnd p) s s)
        ∧ (d ≤ s.house.clock → x.state = .offline → s.linesClear p = true → x.outstanding = none →
          Effects (.probeIntervalEnd p) s (s.modPrinter p fun y => { y with interval := none, sending := some .probe })))
      ∧ (∀ l j k tag content d i items, x.outstanding = some ⟨.item tag content, d⟩ → d ≤ s.house.clock → x.job = some l →
        s.printing.jobs = [j] → j.lane = l → j.place = .onPrinter p → j.items[k]? = some i → i.state = .sent →
        (∀ m e, m < k → j.items[m]? = some e → e.state ≠ .sent) →
        items = (j.items.set k { i with state := .spoiled, spoils := i.spoils + 1, serial := none }) →
        ∀ hit : State, (i.kind ≠ .stub ∧ hit = s ∨ ∃ n, i.kind = .stub ∧ i.line = some n ∧ hit = s.reissue l n) →
          ∃ t, Completes (.itemTimeout p) s t
            ∧ t.printer p
                = ⟨true, .faulted, true, some .itemTimeout, none, if s.linesClear p then some .probe else none, none, x.silent, none⟩
            ∧ t.vouchers = hit.vouchers ∧ (t.lane l).order.voucherLines = (hit.lane l).order.voucherLines
            ∧ (i.spoils < 2 → t.lanes = hit.lanes
                ∧ (s.isReady (1 - p) = false →
                  t.printing.jobs = [{ j with items := items, place := .returned, returnOrder := some 0 }])
                ∧ (s.isReady (1 - p) = true → (t.printer (1 - p)).state = .busy ∧ (t.printer (1 - p)).job = some l
                  ∧ ∃ e, t.printing.jobs = [{ j with items := e, place := .onPrinter (1 - p), returnOrder := none }]))
            ∧ (2 ≤ i.spoils → t.printing.jobs = [] ∧ (t.lane l).order.state = .sold
                ∧ (t.lane l).order.progress = some (.failed items)))
      ∧ (∀ (c : Instr) (cause : FaultCause) (figures : List Nat) (probe : Option PrinterMsg) l j k i items left (base hit gone : State),
        x.state = .busy → x.job = some l → s.printing.jobs = [j] → j.lane = l → j.place = .onPrinter p →
        j.items[k]? = some i → i.state = .sent → (∀ m e, m < k → j.items[m]? = some e → e.state ≠ .sent) →
        ((∃ tag code, c = .faultReceived p tag code ∧ cause = .faultMessage ∧ figures = [code] ∧ base = s
              ∧ probe = if s.linesClear p then some .probe else none)
          ∨ (∃ on, figures = [] ∧ probe = none ∧ s.pins.ports.get p ≠ on
            ∧ base = { s with pins := { s.pins with ports := s.pins.ports.set p on } }
            ∧ (c = .faultLineAsserted p .paperOut ∧ cause = .paperOut ∧ on = { s.pins.ports.get p with paperOut := true }
              ∨ c = .faultLineAsserted p .coverOpen ∧ cause = .coverOpen
                ∧ on = { s.pins.ports.get p with coverOpen := true }))) →
        (i.kind ≠ .stub ∧ hit = base ∨ ∃ n, i.kind = .stub ∧ i.line = some n ∧ hit = base.reissue l n) →
        items = (j.items.set k { i with state := .spoiled, spoils := i.spoils + 1, serial := none }) →
        left = (items.filter fun e => e.state ≠ .done).length →
        gone = (hit.modPrinter p fun y => ⟨y.enabled, .faulted, true, some cause, none, probe, none, y.silent, none⟩) →
          (i.spoils < 2 → s.isReady (1 - p) = true →
            ∃ t, Completes c s t ∧ t.printer p = ⟨x.enabled, .faulted, true, some cause, none, probe, none, x.silent, none⟩
              ∧ t.lanes = hit.lanes ∧ (t.printer (1 - p)).state = .busy ∧ (t.printer (1 - p)).job = some l
              ∧ ∃ e, t.printing.jobs = [{ j with items := e, place := .onPrinter (1 - p), returnOrder := none }])
          ∧ (i.spoils < 2 → s.isReady (1 - p) = false →
            Effects c s
              (({ gone with
                  printing :=
                    { gone.printing with
                      jobs := [{ j with items := items, place := .returned, returnOrder := some 0 }] } } : State).raise
                ⟨.printerFault, cause.qual, some l, some j.tag, none, none, some p, [], none, [], figures⟩))
          ∧ (∀ told : State, 2 ≤ i.spoils →
            told
              = ((({ gone with printing := { gone.printing with jobs := [] } } : State).modLane l fun y =>
                  { y with order := { y.order with state := .sold, progress := some (.failed items) } }).raise
                ⟨.printFailed, .none, some l, some j.tag, j.screening.map Prod.fst, none, some p, [], none, [],
                  [k, i.kind.code, left]⟩) →
              ((s.lane l).block = none →
                Effects c s
                  (told.raise ⟨.printerFault, cause.qual, some l, some j.tag, none, none, some p, [], none, [], figures⟩))
              ∧ (s.runningWord l = some (.print, .taken) →
                Effects c s
                  ((told.endWord l (.refused .printFailed (some (.number left)) [])).raise
                    ⟨.printerFault, cause.qual, some l, some j.tag, none, none, some p, [], none, [], figures⟩))))
      ∧ (∀ (line : FaultLine) (cause : FaultCause) (on off : PortLines),
        (line = .paperOut ∧ cause = .paperOut ∧ on = { s.pins.ports.get p with paperOut := true }
            ∧ off = { s.pins.ports.get p with paperOut := false }
          ∨ line = .coverOpen ∧ cause = .coverOpen ∧ on = { s.pins.ports.get p with coverOpen := true }
            ∧ off = { s.pins.ports.get p with coverOpen := false }) →
          (s.pins.ports.get p ≠ on →
            ((x.state = .ready ∨ x.state = .offline) → x.job = none →
              Effects (.faultLineAsserted p line) s
                ((({ s with pins := { s.pins with ports := s.pins.ports.set p on } } : State).modPrinter p fun y =>
                  ⟨y.enabled, .faulted, true, some cause, none, none, none, y.silent, none⟩).raise
                    ⟨.printerFault, cause.qual, none, none, none, none, some p, [], none, [], []⟩))
            ∧ (x.state = .faulted →
              Effects (.faultLineAsserted p line) s
                (({ s with pins := { s.pins with ports := s.pins.ports.set p on } } : State).modPrinter p fun y =>
                  { y with sending := none, outstanding := none })))
          ∧ (s.pins.ports.get p ≠ off → x.state = .faulted ∨ x.state = .offline → x.outstanding = none →
            off.paperOut = false → off.coverOpen = false →
              Effects (.faultLineReleased p line) s
                (({ s with pins := { s.pins with ports := s.pins.ports.set p off } } : State).modPrinter p fun y =>
                  { y with sending := some .probe }))
          ∧ (s.pins.ports.get p ≠ off → off.paperOut = true ∨ off.coverOpen = true →
              Effects (.faultLineReleased p line) s { s with pins := { s.pins with ports := s.pins.ports.set p off } }))
      ∧ (∀ (on off : PortLines), on = { s.pins.ports.get p with paperLow := true } → off = { s.pins.ports.get p with paperLow := false } →
        ((s.pins.ports.get p).paperLow = false →
          Effects (.paperLowAsserted p) s
            (({ s with pins := { s.pins with ports := s.pins.ports.set p on } } : State).raise
              ⟨.printerFault, .paperLow, none, none, none, none, some p, [], none, [], []⟩))
        ∧ Completes (.paperLowReleased p) s { s with pins := { s.pins with ports := s.pins.ports.set p off } })

/-! ### Drain -/

/-- The DRAINED report: in DRAINING, at a change of an order state, a departure from the queue or the overflow slot, or the
taking of SETUP, with every lane below the lane count in EMPTY, SOLD, COMPLETE or UNRESOLVED and nothing to send, the phase
becomes DRAINED and the report is raised; with any of these missing, and in CLEAR and DRAINED, nothing changes (R188). The
test is made of every command of a part that its reset input does not hold, on the state after its own effect and the choice
of the next notice, against the state before it; so no command leaves a moment of the test untaken. The commands that are left
out change no order, entry, lock or phase; an advance of the house clock makes the test at its clock step and at each event
(HouseClockAdvances). That the test is made at the end of a step is the model's choice (notes/assumptions/9.md). -/
def Obligations.DrainedReport : Prop :=
  (∀ (c : Instr) (s : State), Live s →
      (c ∈ ([.supplyWarningReleased, .resetReleased] : List Instr) ∨ (∃ o v mem, c = .otherRegisterWrite o v mem)
          ∨ (∃ p, c = .paperLowReleased p ∨ c = .printerByteGapTimeout p) ∨ (∃ l, c = .terminalByteGapTimeout l) →
        ∃ t, Completes c s t ∧ t.lanes = s.lanes ∧ t.link = s.link ∧ t.house = s.house)
      ∧ (c ∉ ([.supplyWarningReleased, .resetReleased, .resetAsserted, .houseClockAdvance] : List Instr) →
        (∀ o v mem, c ≠ .otherRegisterWrite o v mem) → (∀ p, c ≠ .paperLowReleased p ∧ c ≠ .printerByteGapTimeout p) →
        (∀ l, c ≠ .terminalByteGapTimeout l) →
          ∃ m t : State, Completes c s t ∧ t = (m.modLink Link.choose).testDrained s ∧ ClosedFrom m t ∧ t.testDrained s = t))
  ∧ ∀ (before s : State),
    ((s.house.drain ≠ .draining
        ∨ (∃ l, l.val < s.cfg.laneCount
            ∧ (s.lane l).order.state ∉ ([.empty, .sold, .complete, .unresolved] : List OrderState))
        ∨ s.link.queue ≠ [] ∨ s.link.contention.entry ≠ none ∨ s.link.overflow ≠ none
        ∨ ((∀ l, (s.lane l).order.state = (before.lane l).order.state)
            ∧ before.link.queue.map Entry.id = s.link.queue.map Entry.id
            ∧ before.link.overflow.map Entry.id = s.link.overflow.map Entry.id ∧ before.house.lock = s.house.lock)) →
      s.testDrained before = s)
    ∧ (s.house.drain = .draining →
      (∀ l, l.val < s.cfg.laneCount → (s.lane l).order.state ∈ ([.empty, .sold, .complete, .unresolved] : List OrderState)) →
      s.link.queue = [] → s.link.contention.entry = none → s.link.overflow = none →
      ((∃ l, (s.lane l).order.state ≠ (before.lane l).order.state) ∨ before.link.queue ≠ [] ∨ before.link.overflow ≠ none
        ∨ before.house.lock = false ∧ s.house.lock = true) →
        s.testDrained before
          = { s with house := { s.house with drain := .drained } }.raise (Report.of .drained .none))

end
end

