-- ==== Sys2Proof/Laws/State.lean ====
section
/-! SUPPORT. What each basic update of the state leaves as it was: one lemma for each field and update, so that no proof
unfolds a record update. -/

namespace Sys2Proof.Machine

/-! ### Lanes and ports -/

/-- Reading the lane that was set gives the value set; reading another gives what it held. -/
theorem PerLane.get_set {α : Type} (p : PerLane α) (l m : LaneIx) (x : α) :
    (p.set l x).get m = if m = l then x else p.get m := by
  fin_cases l <;> fin_cases m <;> rfl

@[simp] theorem PerLane.get_set_same {α : Type} (p : PerLane α) (l : LaneIx) (x : α) : (p.set l x).get l = x := by
  simp [PerLane.get_set]

/-- Reading the port that was set gives the value set; reading the other gives what it held. -/
theorem PerPort.get_set {α : Type} (p : PerPort α) (i j : PortIx) (x : α) :
    (p.set i x).get j = if j = i then x else p.get j := by
  fin_cases i <;> fin_cases j <;> rfl

@[simp] theorem PerPort.get_set_same {α : Type} (p : PerPort α) (i : PortIx) (x : α) : (p.set i x).get i = x := by
  simp [PerPort.get_set]

/-- A lane's part after a change of a lane. -/
theorem State.lane_modLane (s : State) (l m : LaneIx) (f : Lane → Lane) :
    (s.modLane l f).lane m = if m = l then f (s.lane l) else s.lane m := PerLane.get_set _ _ _ _

@[simp] theorem State.lane_modLane_same (s : State) (l : LaneIx) (f : Lane → Lane) :
    (s.modLane l f).lane l = f (s.lane l) := by simp [State.lane_modLane]

/-- A printer after a change of a printer. -/
theorem State.printer_modPrinter (s : State) (p q : PortIx) (f : Printer → Printer) :
    (s.modPrinter p f).printer q = if q = p then f (s.printer p) else s.printer q := PerPort.get_set _ _ _ _

@[simp] theorem State.printer_modPrinter_same (s : State) (p : PortIx) (f : Printer → Printer) :
    (s.modPrinter p f).printer p = f (s.printer p) := by simp [State.printer_modPrinter]

/-! ### Fields -/

@[simp] theorem State.setLane_house (s : State) (l : LaneIx) (x : Lane) : (s.setLane l x).house = s.house := rfl
@[simp] theorem State.setLane_slots (s : State) (l : LaneIx) (x : Lane) : (s.setLane l x).slots = s.slots := rfl
@[simp] theorem State.setLane_link (s : State) (l : LaneIx) (x : Lane) : (s.setLane l x).link = s.link := rfl
@[simp] theorem State.setLane_lanes (s : State) (l : LaneIx) (x : Lane) : (s.setLane l x).lanes = s.lanes.set l x := rfl
@[simp] theorem State.setLane_vouchers (s : State) (l : LaneIx) (x : Lane) : (s.setLane l x).vouchers = s.vouchers := rfl
@[simp] theorem State.setLane_printing (s : State) (l : LaneIx) (x : Lane) : (s.setLane l x).printing = s.printing := rfl
@[simp] theorem State.setLane_io (s : State) (l : LaneIx) (x : Lane) : (s.setLane l x).io = s.io := rfl
@[simp] theorem State.setLane_pins (s : State) (l : LaneIx) (x : Lane) : (s.setLane l x).pins = s.pins := rfl
@[simp] theorem State.setLane_pending (s : State) (l : LaneIx) (x : Lane) : (s.setLane l x).pending = s.pending := rfl

@[simp] theorem State.modLane_house (s : State) (l : LaneIx) (f : Lane → Lane) : (s.modLane l f).house = s.house := rfl
@[simp] theorem State.modLane_slots (s : State) (l : LaneIx) (f : Lane → Lane) : (s.modLane l f).slots = s.slots := rfl
@[simp] theorem State.modLane_link (s : State) (l : LaneIx) (f : Lane → Lane) : (s.modLane l f).link = s.link := rfl
@[simp] theorem State.modLane_lanes (s : State) (l : LaneIx) (f : Lane → Lane) : (s.modLane l f).lanes = s.lanes.set l (f (s.lane l)) := rfl
@[simp] theorem State.modLane_vouchers (s : State) (l : LaneIx) (f : Lane → Lane) : (s.modLane l f).vouchers = s.vouchers := rfl
@[simp] theorem State.modLane_printing (s : State) (l : LaneIx) (f : Lane → Lane) : (s.modLane l f).printing = s.printing := rfl
@[simp] theorem State.modLane_io (s : State) (l : LaneIx) (f : Lane → Lane) : (s.modLane l f).io = s.io := rfl
@[simp] theorem State.modLane_pins (s : State) (l : LaneIx) (f : Lane → Lane) : (s.modLane l f).pins = s.pins := rfl
@[simp] theorem State.modLane_pending (s : State) (l : LaneIx) (f : Lane → Lane) : (s.modLane l f).pending = s.pending := rfl

@[simp] theorem State.modOrder_house (s : State) (l : LaneIx) (f : Order → Order) : (s.modOrder l f).house = s.house := rfl
@[simp] theorem State.modOrder_slots (s : State) (l : LaneIx) (f : Order → Order) : (s.modOrder l f).slots = s.slots := rfl
@[simp] theorem State.modOrder_link (s : State) (l : LaneIx) (f : Order → Order) : (s.modOrder l f).link = s.link := rfl
@[simp] theorem State.modOrder_vouchers (s : State) (l : LaneIx) (f : Order → Order) : (s.modOrder l f).vouchers = s.vouchers := rfl
@[simp] theorem State.modOrder_printing (s : State) (l : LaneIx) (f : Order → Order) : (s.modOrder l f).printing = s.printing := rfl
@[simp] theorem State.modOrder_io (s : State) (l : LaneIx) (f : Order → Order) : (s.modOrder l f).io = s.io := rfl
@[simp] theorem State.modOrder_pins (s : State) (l : LaneIx) (f : Order → Order) : (s.modOrder l f).pins = s.pins := rfl
@[simp] theorem State.modOrder_pending (s : State) (l : LaneIx) (f : Order → Order) : (s.modOrder l f).pending = s.pending := rfl

@[simp] theorem State.modTerm_house (s : State) (l : LaneIx) (f : Terminal → Terminal) : (s.modTerm l f).house = s.house := rfl
@[simp] theorem State.modTerm_slots (s : State) (l : LaneIx) (f : Terminal → Terminal) : (s.modTerm l f).slots = s.slots := rfl
@[simp] theorem State.modTerm_link (s : State) (l : LaneIx) (f : Terminal → Terminal) : (s.modTerm l f).link = s.link := rfl
@[simp] theorem State.modTerm_vouchers (s : State) (l : LaneIx) (f : Terminal → Terminal) : (s.modTerm l f).vouchers = s.vouchers := rfl
@[simp] theorem State.modTerm_printing (s : State) (l : LaneIx) (f : Terminal → Terminal) : (s.modTerm l f).printing = s.printing := rfl
@[simp] theorem State.modTerm_io (s : State) (l : LaneIx) (f : Terminal → Terminal) : (s.modTerm l f).io = s.io := rfl
@[simp] theorem State.modTerm_pins (s : State) (l : LaneIx) (f : Terminal → Terminal) : (s.modTerm l f).pins = s.pins := rfl
@[simp] theorem State.modTerm_pending (s : State) (l : LaneIx) (f : Terminal → Terminal) : (s.modTerm l f).pending = s.pending := rfl

@[simp] theorem State.modLink_house (s : State) (f : Link → Link) : (s.modLink f).house = s.house := rfl
@[simp] theorem State.modLink_slots (s : State) (f : Link → Link) : (s.modLink f).slots = s.slots := rfl
@[simp] theorem State.modLink_link (s : State) (f : Link → Link) : (s.modLink f).link = f s.link := rfl
@[simp] theorem State.modLink_lanes (s : State) (f : Link → Link) : (s.modLink f).lanes = s.lanes := rfl
@[simp] theorem State.modLink_vouchers (s : State) (f : Link → Link) : (s.modLink f).vouchers = s.vouchers := rfl
@[simp] theorem State.modLink_printing (s : State) (f : Link → Link) : (s.modLink f).printing = s.printing := rfl
@[simp] theorem State.modLink_io (s : State) (f : Link → Link) : (s.modLink f).io = s.io := rfl
@[simp] theorem State.modLink_pins (s : State) (f : Link → Link) : (s.modLink f).pins = s.pins := rfl
@[simp] theorem State.modLink_pending (s : State) (f : Link → Link) : (s.modLink f).pending = s.pending := rfl

@[simp] theorem State.modContention_house (s : State) (f : Contention → Contention) : (s.modContention f).house = s.house := rfl
@[simp] theorem State.modContention_slots (s : State) (f : Contention → Contention) : (s.modContention f).slots = s.slots := rfl
@[simp] theorem State.modContention_lanes (s : State) (f : Contention → Contention) : (s.modContention f).lanes = s.lanes := rfl
@[simp] theorem State.modContention_vouchers (s : State) (f : Contention → Contention) : (s.modContention f).vouchers = s.vouchers := rfl
@[simp] theorem State.modContention_printing (s : State) (f : Contention → Contention) : (s.modContention f).printing = s.printing := rfl
@[simp] theorem State.modContention_io (s : State) (f : Contention → Contention) : (s.modContention f).io = s.io := rfl
@[simp] theorem State.modContention_pins (s : State) (f : Contention → Contention) : (s.modContention f).pins = s.pins := rfl
@[simp] theorem State.modContention_pending (s : State) (f : Contention → Contention) : (s.modContention f).pending = s.pending := rfl

@[simp] theorem State.setOwed_house (s : State) (l : LaneIx) (b : Bool) : (s.setOwed l b).house = s.house := rfl
@[simp] theorem State.setOwed_slots (s : State) (l : LaneIx) (b : Bool) : (s.setOwed l b).slots = s.slots := rfl
@[simp] theorem State.setOwed_lanes (s : State) (l : LaneIx) (b : Bool) : (s.setOwed l b).lanes = s.lanes := rfl
@[simp] theorem State.setOwed_vouchers (s : State) (l : LaneIx) (b : Bool) : (s.setOwed l b).vouchers = s.vouchers := rfl
@[simp] theorem State.setOwed_printing (s : State) (l : LaneIx) (b : Bool) : (s.setOwed l b).printing = s.printing := rfl
@[simp] theorem State.setOwed_io (s : State) (l : LaneIx) (b : Bool) : (s.setOwed l b).io = s.io := rfl
@[simp] theorem State.setOwed_pins (s : State) (l : LaneIx) (b : Bool) : (s.setOwed l b).pins = s.pins := rfl
@[simp] theorem State.setOwed_pending (s : State) (l : LaneIx) (b : Bool) : (s.setOwed l b).pending = s.pending := rfl

@[simp] theorem State.modRing_house (s : State) (f : Ring → Ring) : (s.modRing f).house = s.house := rfl
@[simp] theorem State.modRing_slots (s : State) (f : Ring → Ring) : (s.modRing f).slots = s.slots := rfl
@[simp] theorem State.modRing_link (s : State) (f : Ring → Ring) : (s.modRing f).link = s.link := rfl
@[simp] theorem State.modRing_lanes (s : State) (f : Ring → Ring) : (s.modRing f).lanes = s.lanes := rfl
@[simp] theorem State.modRing_vouchers (s : State) (f : Ring → Ring) : (s.modRing f).vouchers = s.vouchers := rfl
@[simp] theorem State.modRing_printing (s : State) (f : Ring → Ring) : (s.modRing f).printing = s.printing := rfl
@[simp] theorem State.modRing_io (s : State) (f : Ring → Ring) : (s.modRing f).io = ⟨f s.io.ring, s.io.host⟩ := rfl
@[simp] theorem State.modRing_pins (s : State) (f : Ring → Ring) : (s.modRing f).pins = s.pins := rfl
@[simp] theorem State.modRing_pending (s : State) (f : Ring → Ring) : (s.modRing f).pending = s.pending := rfl

@[simp] theorem State.popTaken_house (s : State) : (s.popTaken).house = s.house := rfl
@[simp] theorem State.popTaken_slots (s : State) : (s.popTaken).slots = s.slots := rfl
@[simp] theorem State.popTaken_link (s : State) : (s.popTaken).link = s.link := rfl
@[simp] theorem State.popTaken_lanes (s : State) : (s.popTaken).lanes = s.lanes := rfl
@[simp] theorem State.popTaken_vouchers (s : State) : (s.popTaken).vouchers = s.vouchers := rfl
@[simp] theorem State.popTaken_printing (s : State) : (s.popTaken).printing = s.printing := rfl
@[simp] theorem State.popTaken_pins (s : State) : (s.popTaken).pins = s.pins := rfl
@[simp] theorem State.popTaken_pending (s : State) : (s.popTaken).pending = s.pending := rfl

@[simp] theorem State.modPrinter_house (s : State) (p : PortIx) (f : Printer → Printer) : (s.modPrinter p f).house = s.house := rfl
@[simp] theorem State.modPrinter_slots (s : State) (p : PortIx) (f : Printer → Printer) : (s.modPrinter p f).slots = s.slots := rfl
@[simp] theorem State.modPrinter_link (s : State) (p : PortIx) (f : Printer → Printer) : (s.modPrinter p f).link = s.link := rfl
@[simp] theorem State.modPrinter_lanes (s : State) (p : PortIx) (f : Printer → Printer) : (s.modPrinter p f).lanes = s.lanes := rfl
@[simp] theorem State.modPrinter_vouchers (s : State) (p : PortIx) (f : Printer → Printer) : (s.modPrinter p f).vouchers = s.vouchers := rfl
@[simp] theorem State.modPrinter_io (s : State) (p : PortIx) (f : Printer → Printer) : (s.modPrinter p f).io = s.io := rfl
@[simp] theorem State.modPrinter_pins (s : State) (p : PortIx) (f : Printer → Printer) : (s.modPrinter p f).pins = s.pins := rfl
@[simp] theorem State.modPrinter_pending (s : State) (p : PortIx) (f : Printer → Printer) : (s.modPrinter p f).pending = s.pending := rfl

@[simp] theorem State.modJobs_house (s : State) (f : List Job → List Job) : (s.modJobs f).house = s.house := rfl
@[simp] theorem State.modJobs_slots (s : State) (f : List Job → List Job) : (s.modJobs f).slots = s.slots := rfl
@[simp] theorem State.modJobs_link (s : State) (f : List Job → List Job) : (s.modJobs f).link = s.link := rfl
@[simp] theorem State.modJobs_lanes (s : State) (f : List Job → List Job) : (s.modJobs f).lanes = s.lanes := rfl
@[simp] theorem State.modJobs_vouchers (s : State) (f : List Job → List Job) : (s.modJobs f).vouchers = s.vouchers := rfl
@[simp] theorem State.modJobs_io (s : State) (f : List Job → List Job) : (s.modJobs f).io = s.io := rfl
@[simp] theorem State.modJobs_pins (s : State) (f : List Job → List Job) : (s.modJobs f).pins = s.pins := rfl
@[simp] theorem State.modJobs_pending (s : State) (f : List Job → List Job) : (s.modJobs f).pending = s.pending := rfl

@[simp] theorem State.modJob_house (s : State) (l : LaneIx) (f : Job → Job) : (s.modJob l f).house = s.house := rfl
@[simp] theorem State.modJob_slots (s : State) (l : LaneIx) (f : Job → Job) : (s.modJob l f).slots = s.slots := rfl
@[simp] theorem State.modJob_link (s : State) (l : LaneIx) (f : Job → Job) : (s.modJob l f).link = s.link := rfl
@[simp] theorem State.modJob_lanes (s : State) (l : LaneIx) (f : Job → Job) : (s.modJob l f).lanes = s.lanes := rfl
@[simp] theorem State.modJob_vouchers (s : State) (l : LaneIx) (f : Job → Job) : (s.modJob l f).vouchers = s.vouchers := rfl
@[simp] theorem State.modJob_io (s : State) (l : LaneIx) (f : Job → Job) : (s.modJob l f).io = s.io := rfl
@[simp] theorem State.modJob_pins (s : State) (l : LaneIx) (f : Job → Job) : (s.modJob l f).pins = s.pins := rfl
@[simp] theorem State.modJob_pending (s : State) (l : LaneIx) (f : Job → Job) : (s.modJob l f).pending = s.pending := rfl

@[simp] theorem State.modPrintItem_house (s : State) (l : LaneIx) (k : Nat) (f : Item → Item) : (s.modPrintItem l k f).house = s.house := rfl
@[simp] theorem State.modPrintItem_slots (s : State) (l : LaneIx) (k : Nat) (f : Item → Item) : (s.modPrintItem l k f).slots = s.slots := rfl
@[simp] theorem State.modPrintItem_link (s : State) (l : LaneIx) (k : Nat) (f : Item → Item) : (s.modPrintItem l k f).link = s.link := rfl
@[simp] theorem State.modPrintItem_lanes (s : State) (l : LaneIx) (k : Nat) (f : Item → Item) : (s.modPrintItem l k f).lanes = s.lanes := rfl
@[simp] theorem State.modPrintItem_vouchers (s : State) (l : LaneIx) (k : Nat) (f : Item → Item) : (s.modPrintItem l k f).vouchers = s.vouchers := rfl
@[simp] theorem State.modPrintItem_io (s : State) (l : LaneIx) (k : Nat) (f : Item → Item) : (s.modPrintItem l k f).io = s.io := rfl
@[simp] theorem State.modPrintItem_pins (s : State) (l : LaneIx) (k : Nat) (f : Item → Item) : (s.modPrintItem l k f).pins = s.pins := rfl
@[simp] theorem State.modPrintItem_pending (s : State) (l : LaneIx) (k : Nat) (f : Item → Item) : (s.modPrintItem l k f).pending = s.pending := rfl

@[simp] theorem State.removeJob_house (s : State) (l : LaneIx) : (s.removeJob l).house = s.house := rfl
@[simp] theorem State.removeJob_slots (s : State) (l : LaneIx) : (s.removeJob l).slots = s.slots := rfl
@[simp] theorem State.removeJob_link (s : State) (l : LaneIx) : (s.removeJob l).link = s.link := rfl
@[simp] theorem State.removeJob_lanes (s : State) (l : LaneIx) : (s.removeJob l).lanes = s.lanes := rfl
@[simp] theorem State.removeJob_vouchers (s : State) (l : LaneIx) : (s.removeJob l).vouchers = s.vouchers := rfl
@[simp] theorem State.removeJob_io (s : State) (l : LaneIx) : (s.removeJob l).io = s.io := rfl
@[simp] theorem State.removeJob_pins (s : State) (l : LaneIx) : (s.removeJob l).pins = s.pins := rfl
@[simp] theorem State.removeJob_pending (s : State) (l : LaneIx) : (s.removeJob l).pending = s.pending := rfl

@[simp] theorem State.modScreening_house (s : State) (code : Nat) (f : Screening → Screening) : (s.modScreening code f).house = s.house := rfl
@[simp] theorem State.modScreening_link (s : State) (code : Nat) (f : Screening → Screening) : (s.modScreening code f).link = s.link := rfl
@[simp] theorem State.modScreening_lanes (s : State) (code : Nat) (f : Screening → Screening) : (s.modScreening code f).lanes = s.lanes := rfl
@[simp] theorem State.modScreening_vouchers (s : State) (code : Nat) (f : Screening → Screening) : (s.modScreening code f).vouchers = s.vouchers := rfl
@[simp] theorem State.modScreening_printing (s : State) (code : Nat) (f : Screening → Screening) : (s.modScreening code f).printing = s.printing := rfl
@[simp] theorem State.modScreening_io (s : State) (code : Nat) (f : Screening → Screening) : (s.modScreening code f).io = s.io := rfl
@[simp] theorem State.modScreening_pins (s : State) (code : Nat) (f : Screening → Screening) : (s.modScreening code f).pins = s.pins := rfl
@[simp] theorem State.modScreening_pending (s : State) (code : Nat) (f : Screening → Screening) : (s.modScreening code f).pending = s.pending := rfl

@[simp] theorem State.mapSeats_house (s : State) (code : Nat) (rs : List SeatRef) (f : SeatState → SeatState) : (s.mapSeats code rs f).house = s.house := rfl
@[simp] theorem State.mapSeats_link (s : State) (code : Nat) (rs : List SeatRef) (f : SeatState → SeatState) : (s.mapSeats code rs f).link = s.link := rfl
@[simp] theorem State.mapSeats_lanes (s : State) (code : Nat) (rs : List SeatRef) (f : SeatState → SeatState) : (s.mapSeats code rs f).lanes = s.lanes := rfl
@[simp] theorem State.mapSeats_vouchers (s : State) (code : Nat) (rs : List SeatRef) (f : SeatState → SeatState) : (s.mapSeats code rs f).vouchers = s.vouchers := rfl
@[simp] theorem State.mapSeats_printing (s : State) (code : Nat) (rs : List SeatRef) (f : SeatState → SeatState) : (s.mapSeats code rs f).printing = s.printing := rfl
@[simp] theorem State.mapSeats_io (s : State) (code : Nat) (rs : List SeatRef) (f : SeatState → SeatState) : (s.mapSeats code rs f).io = s.io := rfl
@[simp] theorem State.mapSeats_pins (s : State) (code : Nat) (rs : List SeatRef) (f : SeatState → SeatState) : (s.mapSeats code rs f).pins = s.pins := rfl
@[simp] theorem State.mapSeats_pending (s : State) (code : Nat) (rs : List SeatRef) (f : SeatState → SeatState) : (s.mapSeats code rs f).pending = s.pending := rfl

@[simp] theorem State.freeClaim_house (s : State) (l : LaneIx) : (s.freeClaim l).house = s.house := rfl
@[simp] theorem State.freeClaim_link (s : State) (l : LaneIx) : (s.freeClaim l).link = s.link := rfl
@[simp] theorem State.freeClaim_lanes (s : State) (l : LaneIx) : (s.freeClaim l).lanes = s.lanes := rfl
@[simp] theorem State.freeClaim_vouchers (s : State) (l : LaneIx) : (s.freeClaim l).vouchers = s.vouchers := rfl
@[simp] theorem State.freeClaim_printing (s : State) (l : LaneIx) : (s.freeClaim l).printing = s.printing := rfl
@[simp] theorem State.freeClaim_io (s : State) (l : LaneIx) : (s.freeClaim l).io = s.io := rfl
@[simp] theorem State.freeClaim_pins (s : State) (l : LaneIx) : (s.freeClaim l).pins = s.pins := rfl
@[simp] theorem State.freeClaim_pending (s : State) (l : LaneIx) : (s.freeClaim l).pending = s.pending := rfl

@[simp] theorem State.freeScreening_house (s : State) (code : Nat) : (s.freeScreening code).house = s.house := rfl
@[simp] theorem State.freeScreening_link (s : State) (code : Nat) : (s.freeScreening code).link = s.link := rfl
@[simp] theorem State.freeScreening_lanes (s : State) (code : Nat) : (s.freeScreening code).lanes = s.lanes := rfl
@[simp] theorem State.freeScreening_vouchers (s : State) (code : Nat) : (s.freeScreening code).vouchers = s.vouchers := rfl
@[simp] theorem State.freeScreening_printing (s : State) (code : Nat) : (s.freeScreening code).printing = s.printing := rfl
@[simp] theorem State.freeScreening_io (s : State) (code : Nat) : (s.freeScreening code).io = s.io := rfl
@[simp] theorem State.freeScreening_pins (s : State) (code : Nat) : (s.freeScreening code).pins = s.pins := rfl
@[simp] theorem State.freeScreening_pending (s : State) (code : Nat) : (s.freeScreening code).pending = s.pending := rfl

@[simp] theorem State.clearClaim_house (s : State) (l : LaneIx) : (s.clearClaim l).house = s.house := rfl
@[simp] theorem State.clearClaim_slots (s : State) (l : LaneIx) : (s.clearClaim l).slots = s.slots := rfl
@[simp] theorem State.clearClaim_link (s : State) (l : LaneIx) : (s.clearClaim l).link = s.link := rfl
@[simp] theorem State.clearClaim_vouchers (s : State) (l : LaneIx) : (s.clearClaim l).vouchers = s.vouchers := rfl
@[simp] theorem State.clearClaim_printing (s : State) (l : LaneIx) : (s.clearClaim l).printing = s.printing := rfl
@[simp] theorem State.clearClaim_io (s : State) (l : LaneIx) : (s.clearClaim l).io = s.io := rfl
@[simp] theorem State.clearClaim_pins (s : State) (l : LaneIx) : (s.clearClaim l).pins = s.pins := rfl
@[simp] theorem State.clearClaim_pending (s : State) (l : LaneIx) : (s.clearClaim l).pending = s.pending := rfl

@[simp] theorem State.modItem_house (s : State) (code : Nat) (f : CatalogItem → CatalogItem) : (s.modItem code f).house = s.house := rfl
@[simp] theorem State.modItem_slots (s : State) (code : Nat) (f : CatalogItem → CatalogItem) : (s.modItem code f).slots = s.slots := rfl
@[simp] theorem State.modItem_link (s : State) (code : Nat) (f : CatalogItem → CatalogItem) : (s.modItem code f).link = s.link := rfl
@[simp] theorem State.modItem_lanes (s : State) (code : Nat) (f : CatalogItem → CatalogItem) : (s.modItem code f).lanes = s.lanes := rfl
@[simp] theorem State.modItem_printing (s : State) (code : Nat) (f : CatalogItem → CatalogItem) : (s.modItem code f).printing = s.printing := rfl
@[simp] theorem State.modItem_io (s : State) (code : Nat) (f : CatalogItem → CatalogItem) : (s.modItem code f).io = s.io := rfl
@[simp] theorem State.modItem_pins (s : State) (code : Nat) (f : CatalogItem → CatalogItem) : (s.modItem code f).pins = s.pins := rfl
@[simp] theorem State.modItem_pending (s : State) (code : Nat) (f : CatalogItem → CatalogItem) : (s.modItem code f).pending = s.pending := rfl

@[simp] theorem State.modRecordAt_house (s : State) (i : Nat) (f : VoucherRecord → VoucherRecord) : (s.modRecordAt i f).house = s.house := rfl
@[simp] theorem State.modRecordAt_slots (s : State) (i : Nat) (f : VoucherRecord → VoucherRecord) : (s.modRecordAt i f).slots = s.slots := rfl
@[simp] theorem State.modRecordAt_link (s : State) (i : Nat) (f : VoucherRecord → VoucherRecord) : (s.modRecordAt i f).link = s.link := rfl
@[simp] theorem State.modRecordAt_lanes (s : State) (i : Nat) (f : VoucherRecord → VoucherRecord) : (s.modRecordAt i f).lanes = s.lanes := rfl
@[simp] theorem State.modRecordAt_printing (s : State) (i : Nat) (f : VoucherRecord → VoucherRecord) : (s.modRecordAt i f).printing = s.printing := rfl
@[simp] theorem State.modRecordAt_io (s : State) (i : Nat) (f : VoucherRecord → VoucherRecord) : (s.modRecordAt i f).io = s.io := rfl
@[simp] theorem State.modRecordAt_pins (s : State) (i : Nat) (f : VoucherRecord → VoucherRecord) : (s.modRecordAt i f).pins = s.pins := rfl
@[simp] theorem State.modRecordAt_pending (s : State) (i : Nat) (f : VoucherRecord → VoucherRecord) : (s.modRecordAt i f).pending = s.pending := rfl

@[simp] theorem State.complete_house (s : State) (ref : RequestRef) (st : List Byte) : (s.complete ref st).house = s.house := rfl
@[simp] theorem State.complete_slots (s : State) (ref : RequestRef) (st : List Byte) : (s.complete ref st).slots = s.slots := rfl
@[simp] theorem State.complete_link (s : State) (ref : RequestRef) (st : List Byte) : (s.complete ref st).link = s.link := rfl
@[simp] theorem State.complete_lanes (s : State) (ref : RequestRef) (st : List Byte) : (s.complete ref st).lanes = s.lanes := rfl
@[simp] theorem State.complete_vouchers (s : State) (ref : RequestRef) (st : List Byte) : (s.complete ref st).vouchers = s.vouchers := rfl
@[simp] theorem State.complete_printing (s : State) (ref : RequestRef) (st : List Byte) : (s.complete ref st).printing = s.printing := rfl
@[simp] theorem State.complete_pins (s : State) (ref : RequestRef) (st : List Byte) : (s.complete ref st).pins = s.pins := rfl
@[simp] theorem State.complete_pending (s : State) (ref : RequestRef) (st : List Byte) : (s.complete ref st).pending = s.pending := rfl

@[simp] theorem State.raise_house (s : State) (rep : Report) : (s.raise rep).house = s.house := rfl
@[simp] theorem State.raise_slots (s : State) (rep : Report) : (s.raise rep).slots = s.slots := rfl
@[simp] theorem State.raise_link (s : State) (rep : Report) : (s.raise rep).link = s.link := rfl
@[simp] theorem State.raise_lanes (s : State) (rep : Report) : (s.raise rep).lanes = s.lanes := rfl
@[simp] theorem State.raise_vouchers (s : State) (rep : Report) : (s.raise rep).vouchers = s.vouchers := rfl
@[simp] theorem State.raise_printing (s : State) (rep : Report) : (s.raise rep).printing = s.printing := rfl
@[simp] theorem State.raise_io (s : State) (rep : Report) : (s.raise rep).io = raiseIo s.house.record rep s.io := rfl
@[simp] theorem State.raise_pins (s : State) (rep : Report) : (s.raise rep).pins = s.pins := rfl
@[simp] theorem State.raise_pending (s : State) (rep : Report) : (s.raise rep).pending = s.pending := rfl

@[simp] theorem State.hostOps_house (s : State) (ops : List HostOp) : (s.hostOps ops).house = s.house := rfl
@[simp] theorem State.hostOps_slots (s : State) (ops : List HostOp) : (s.hostOps ops).slots = s.slots := rfl
@[simp] theorem State.hostOps_link (s : State) (ops : List HostOp) : (s.hostOps ops).link = s.link := rfl
@[simp] theorem State.hostOps_lanes (s : State) (ops : List HostOp) : (s.hostOps ops).lanes = s.lanes := rfl
@[simp] theorem State.hostOps_vouchers (s : State) (ops : List HostOp) : (s.hostOps ops).vouchers = s.vouchers := rfl
@[simp] theorem State.hostOps_printing (s : State) (ops : List HostOp) : (s.hostOps ops).printing = s.printing := rfl
@[simp] theorem State.hostOps_pins (s : State) (ops : List HostOp) : (s.hostOps ops).pins = s.pins := rfl
@[simp] theorem State.hostOps_pending (s : State) (ops : List HostOp) : (s.hostOps ops).pending = s.pending := rfl

@[simp] theorem State.setSupply_house (s : State) (b : Bool) : (s.setSupply b).house = s.house := rfl
@[simp] theorem State.setSupply_slots (s : State) (b : Bool) : (s.setSupply b).slots = s.slots := rfl
@[simp] theorem State.setSupply_link (s : State) (b : Bool) : (s.setSupply b).link = s.link := rfl
@[simp] theorem State.setSupply_lanes (s : State) (b : Bool) : (s.setSupply b).lanes = s.lanes := rfl
@[simp] theorem State.setSupply_vouchers (s : State) (b : Bool) : (s.setSupply b).vouchers = s.vouchers := rfl
@[simp] theorem State.setSupply_printing (s : State) (b : Bool) : (s.setSupply b).printing = s.printing := rfl
@[simp] theorem State.setSupply_io (s : State) (b : Bool) : (s.setSupply b).io = s.io := rfl
@[simp] theorem State.setSupply_pending (s : State) (b : Bool) : (s.setSupply b).pending = s.pending := rfl

@[simp] theorem State.modLines_house (s : State) (p : PortIx) (f : PortLines → PortLines) : (s.modLines p f).house = s.house := rfl
@[simp] theorem State.modLines_slots (s : State) (p : PortIx) (f : PortLines → PortLines) : (s.modLines p f).slots = s.slots := rfl
@[simp] theorem State.modLines_link (s : State) (p : PortIx) (f : PortLines → PortLines) : (s.modLines p f).link = s.link := rfl
@[simp] theorem State.modLines_lanes (s : State) (p : PortIx) (f : PortLines → PortLines) : (s.modLines p f).lanes = s.lanes := rfl
@[simp] theorem State.modLines_vouchers (s : State) (p : PortIx) (f : PortLines → PortLines) : (s.modLines p f).vouchers = s.vouchers := rfl
@[simp] theorem State.modLines_printing (s : State) (p : PortIx) (f : PortLines → PortLines) : (s.modLines p f).printing = s.printing := rfl
@[simp] theorem State.modLines_io (s : State) (p : PortIx) (f : PortLines → PortLines) : (s.modLines p f).io = s.io := rfl
@[simp] theorem State.modLines_pending (s : State) (p : PortIx) (f : PortLines → PortLines) : (s.modLines p f).pending = s.pending := rfl

/-! ### The house clock -/

@[simp] theorem State.tick_slots (s : State) : s.tick.slots = s.slots := rfl
@[simp] theorem State.tick_link (s : State) : s.tick.link = s.link := rfl
@[simp] theorem State.tick_lanes (s : State) : s.tick.lanes = s.lanes := rfl
@[simp] theorem State.tick_vouchers (s : State) : s.tick.vouchers = s.vouchers := rfl
@[simp] theorem State.tick_printing (s : State) : s.tick.printing = s.printing := rfl
@[simp] theorem State.tick_io (s : State) : s.tick.io = s.io := rfl
@[simp] theorem State.tick_pins (s : State) : s.tick.pins = s.pins := rfl
@[simp] theorem State.tick_pending (s : State) : s.tick.pending = s.pending := rfl
@[simp] theorem State.tick_clock (s : State) : s.tick.house.clock = (s.house.clock + 1) % Config.clockModulus := rfl
@[simp] theorem State.tick_cfg (s : State) : s.tick.cfg = s.cfg := rfl

/-- A timed event does what its own row does. -/
theorem exec_timedEvent (e : TimedEvent) (s : State) : exec e.command s = .next (s.acted (meetTimed e)) := by
  cases e <;> rfl

/-- A row's timed event is the event of that row. -/
theorem timedRow_command (e : TimedEvent) : timedRow e.command = some e := by cases e <;> rfl

/-- With the rows of some timed events first in a queue and no other such row next to them, they are those the queue gives. -/
theorem timedRows_append (events : List TimedEvent) (rest : List Instr)
    (h : ∀ (e : TimedEvent) cs, rest ≠ e.command :: cs) :
    timedRows (events.map TimedEvent.command ++ rest) = events := by
  induction events with
  | nil =>
    cases rest with
    | nil => rfl
    | cons c cs =>
      cases hc : timedRow c with
      | none => simp [timedRows, hc]
      | some e =>
        have : c = e.command := by unfold timedRow at hc; split at hc <;> cases hc <;> rfl
        exact absurd (by rw [this]) (h e cs)
  | cons e es ih => simp [timedRows, timedRow_command, ih]

/-- Timed events one after another are their rows one after another. -/
theorem State.takeEvents_runsTo (events : List TimedEvent) (s : State) :
    RunsTo (events.map TimedEvent.command) s (s.takeEvents events) := by
  induction events generalizing s with
  | nil => rfl
  | cons e es ih => exact ⟨s.acted (meetTimed e), exec_timedEvent e s, ih _⟩

end Sys2Proof.Machine
end

