-- ==== Sys2Proof/Laws/Memory.lean ====
section
/-! SUPPORT. The processor's memory: what a read finds after a write, and that every operation on it keeps its canonical
form. -/

namespace Sys2Proof.Machine

/-! ### Cells -/

/-- No cell of a rising list lies at or below its lower bound. -/
theorem readCell_above (cs : List Host.Cell) (x y : Nat) (h : cellsRise (some x) cs = true) (hy : y ≤ x) :
    readCell y cs = 0 := by
  induction cs generalizing x with
  | nil => rfl
  | cons d ds ih =>
    simp only [cellsRise, Bool.and_eq_true, decide_eq_true_eq] at h
    rw [readCell, if_neg (by omega)]
    exact ih d.1 h.2 (by omega)

/-- After a byte has been written to an address, a read finds it there and finds every other address as it was, in a list
of cells in rising order. -/
theorem readCell_writeCell (a b : Nat) (v : Byte) (cs : List Host.Cell) (low : Option Nat) (h : cellsRise low cs = true) :
    readCell b (writeCell a v cs) = if b = a then v else readCell b cs := by
  induction cs generalizing low with
  | nil =>
    simp only [writeCell]
    split_ifs with hv hb hb
    · rw [readCell, hv]
    · rfl
    · exact if_pos (Eq.symm hb)
    · exact if_neg (Ne.symm hb)
  | cons c cs ih =>
    simp only [cellsRise, Bool.and_eq_true] at h
    have hc := fun y hy => readCell_above cs c.1 y h.2 hy
    have step := ih (some c.1) h.2
    by_cases hb : b = a
    · subst hb
      simp only [writeCell, if_true]
      split_ifs with h1 h2 h3 h4
      · rw [readCell, if_neg (by omega), hc b (by omega), h2]
      · simp [readCell]
      · rw [hc b (by omega), h4]
      · simp [readCell]
      · rw [readCell, if_neg (by omega), step, if_pos rfl]
    · have hab : ¬ a = b := fun e => hb e.symm
      simp only [writeCell, if_neg hb]
      split_ifs with h1 h2 h3 h4
      · rfl
      · simp [readCell, hab]
      · rw [readCell, if_neg (by omega)]
      · rw [readCell, readCell, if_neg hab, if_neg (by omega)]
      · rw [readCell, readCell, step, if_neg hb]

/-- A write keeps the rising order of the cells. -/
theorem cellsRise_writeCell (a : Nat) (v : Byte) (cs : List Host.Cell) (low : Option Nat) (h : cellsRise low cs = true)
    (ha : ∀ x, low = some x → x < a) : cellsRise low (writeCell a v cs) = true := by
  induction cs generalizing low with
  | nil =>
    by_cases hv : v = 0
    · simp [writeCell, hv, cellsRise]
    · cases low <;> simp_all [writeCell, cellsRise]
  | cons c cs ih =>
    simp only [cellsRise, Bool.and_eq_true] at h
    have widen : ∀ (cs : List Host.Cell) (x y : Nat), x ≤ y → cellsRise (some y) cs = true → cellsRise (some x) cs = true := by
      intro cs x y hxy
      cases cs with
      | nil => intro _; rfl
      | cons d ds =>
        simp only [cellsRise, Bool.and_eq_true, decide_eq_true_eq]
        intro hd
        exact ⟨by omega, hd.2⟩
    simp only [writeCell]
    split_ifs with h1 h2 h3 h4
    · simpa [cellsRise] using h
    · cases low with
      | none => simp [cellsRise, h1, h.2]
      | some x => simp [cellsRise, h1, h.2, ha x rfl]
    · cases low with
      | none =>
        cases cs with
        | nil => rfl
        | cons d ds => simp only [cellsRise, Bool.and_eq_true] at h ⊢; exact ⟨trivial, h.2.2⟩
      | some x =>
        simp only [decide_eq_true_eq] at h
        exact widen cs x c.1 (by omega) h.2
    · cases low with
      | none => simp [cellsRise, h3, h.2]
      | some x => simp [cellsRise, h3, h.2] at h ⊢; omega
    · simp only [cellsRise, Bool.and_eq_true]
      refine ⟨h.1, ih (some c.1) h.2 ?_⟩
      intro x hx
      cases hx
      omega

/-- A write lists no zero byte. -/
theorem noZero_writeCell (a : Nat) (v : Byte) (cs : List Host.Cell) (h : (cs.all fun c => c.2 != 0) = true) :
    ((writeCell a v cs).all fun c => c.2 != 0) = true := by
  rw [List.all_eq_true] at h ⊢
  induction cs with
  | nil => by_cases hv : v = 0 <;> simp [writeCell, hv]
  | cons c cs ih =>
    have hcs : ∀ x ∈ cs, (x.2 != 0) = true := fun x hx => h x (List.mem_cons_of_mem _ hx)
    have hc : (c.2 != 0) = true := h c List.mem_cons_self
    have bit : ¬ v = 0 → (v != 0) = true := by simp
    simp only [writeCell]
    split_ifs with h1 h2 h3 h4
    · exact h
    · intro x hx
      rcases List.mem_cons.mp hx with rfl | hx
      · exact bit h2
      · exact h x hx
    · exact hcs
    · intro x hx
      rcases List.mem_cons.mp hx with rfl | hx
      · exact bit h4
      · exact hcs x hx
    · intro x hx
      rcases List.mem_cons.mp hx with rfl | hx
      · exact hc
      · exact ih hcs x hx

/-! ### The canonical form -/

/-- A byte written keeps the canonical form. -/
theorem HostMem.wf_put (m : HostMem) (a : Nat) (b : Byte) (h : m.wf = true) : (m.put a b).wf = true := by
  simp only [HostMem.wf, Bool.and_eq_true] at h
  simp only [HostMem.wf, HostMem.put, Bool.and_eq_true]
  exact ⟨cellsRise_writeCell _ _ _ _ h.1 (by simp), noZero_writeCell _ _ _ h.2⟩

/-- A run of bytes written keeps the canonical form. -/
theorem HostMem.wf_write (m : HostMem) (a : Nat) (bs : List Byte) (h : m.wf = true) : (m.write a bs).wf = true := by
  induction bs generalizing m a with
  | nil => exact h
  | cons b bs ih => exact ih _ _ (m.wf_put a b h)

/-- What the processor or its bus does keeps the canonical form. -/
theorem HostMem.wf_apply (m : HostMem) (op : HostOp) (h : m.wf = true) : (m.apply op).wf = true := by
  cases op with
  | store a bs => exact m.wf_write a bs h
  | failRead a => simp only [HostMem.apply]; split <;> exact h
  | healRead a => exact h

/-- Any number of them keeps it. -/
theorem HostMem.wf_ops (m : HostMem) (ops : List HostOp) (h : m.wf = true) : (ops.foldl HostMem.apply m).wf = true := by
  induction ops generalizing m with
  | nil => exact h
  | cons op ops ih => exact ih _ (m.wf_apply op h)

/-! ### Reading after a write -/

/-- A byte written is read back, and every other address reads as before. -/
theorem HostMem.get_put (m : HostMem) (a c : Nat) (b : Byte) (h : m.wf = true) :
    (m.put a b).get c = if wrapAddr c = wrapAddr a then b else m.get c := by
  simp only [HostMem.wf, Bool.and_eq_true] at h
  exact readCell_writeCell _ _ _ _ _ h.1

/-- A run of bytes written leaves every address outside it as it was. -/
theorem HostMem.get_write_of_ne (m : HostMem) (a c : Nat) (bs : List Byte) (h : m.wf = true)
    (hc : ∀ i < bs.length, wrapAddr c ≠ wrapAddr (a + i)) : (m.write a bs).get c = m.get c := by
  induction bs generalizing m a with
  | nil => rfl
  | cons b bs ih =>
    have h0 := hc 0 (by simp)
    have := ih (m.put a b) (a + 1) (m.wf_put a b h) (fun i hi => by
      have := hc (i + 1) (by simpa using hi)
      rwa [show a + 1 + i = a + (i + 1) by omega])
    rw [HostMem.write, this, m.get_put a c b h, if_neg (by simpa using h0)]

end Sys2Proof.Machine
end

