-- ==== Sys2Proof/Laws/Vouchers.lean ====
section
/-! SUPPORT. What the Voucher Unit's operations do to the catalog's counts, said once for each, and that lines added, removed,
issued and reissued keep the counts as R131 states them. -/

namespace Sys2Proof.Machine

/-! ### Lines without a code -/

@[simp] theorem unissuedOf_nil (item : Nat) : unissuedOf [] item = 0 := rfl

theorem unissuedOf_cons (v : VoucherLine) (vs : List VoucherLine) (item : Nat) :
    unissuedOf (v :: vs) item = unissuedOf vs item + if v.item = item ∧ v.code = none then 1 else 0 := by
  simp only [unissuedOf, List.countP_cons, decide_eq_true_eq]

@[simp] theorem unissuedOf_append (vs ws : List VoucherLine) (item : Nat) :
    unissuedOf (vs ++ ws) item = unissuedOf vs item + unissuedOf ws item := List.countP_append

@[simp] theorem unissuedOf_reverse (vs : List VoucherLine) (item : Nat) : unissuedOf vs.reverse item = unissuedOf vs item :=
  List.countP_reverse

theorem unissuedOf_fresh (n code item : Nat) :
    unissuedOf (List.replicate n ⟨code, false, none, none, none⟩) item = if code = item then n else 0 := by
  simp [unissuedOf, List.countP_replicate]

/-- Lines that stay as they were in item and code. -/
theorem unissuedOf_map (f : VoucherLine → VoucherLine) (h : ∀ v, (f v).item = v.item ∧ (f v).code = v.code)
    (vs : List VoucherLine) (item : Nat) : unissuedOf (vs.map f) item = unissuedOf vs item := by
  induction vs with
  | nil => rfl
  | cons v vs ih => rw [List.map_cons, unissuedOf_cons, unissuedOf_cons, ih, (h v).1, (h v).2]

/-- A line that carries a code is given another. -/
theorem unissuedOf_modify (vs : List VoucherLine) (n : Nat) (f : VoucherLine → VoucherLine) (v : VoucherLine)
    (hv : vs[n]? = some v) (old : v.code ≠ none) (new : (f v).code ≠ none) (item : Nat) :
    unissuedOf (vs.modify n f) item = unissuedOf vs item := by
  induction vs generalizing n with
  | nil => cases hv
  | cons w vs ih =>
    cases n with
    | zero =>
      obtain rfl := Option.some.inj hv
      rw [List.modify_zero_cons, unissuedOf_cons, unissuedOf_cons, if_neg (fun e => new e.2), if_neg (fun e => old e.2)]
    | succ n => rw [List.modify_succ_cons, unissuedOf_cons, unissuedOf_cons, ih n hv]

/-! ### The catalog -/

/-- The reservations that lines return, in one equation. -/
theorem State.returnLines_eq (s : State) (vs : List VoucherLine) :
    s.returnLines vs = { s with vouchers := s.vouchers.returned vs } := by
  induction vs generalizing s with
  | nil =>
    show s = { s with vouchers := { s.vouchers with catalog := s.vouchers.catalog.map fun i => i } }
    rw [List.map_id']
  | cons v vs ih =>
    rw [State.returnLines, ih]
    cases h : v.code with
    | some c =>
      have e : unissuedOf (v :: vs) = unissuedOf vs := funext fun item => by rw [unissuedOf_cons, h]; simp
      simp [Vouchers.returned, e]
    | none =>
      simp only [Option.isNone_none, if_true, State.modItem, Vouchers.returned, List.map_map]
      congr 2
      refine List.map_congr_left fun i _ => ?_
      simp only [Function.comp, unissuedOf_cons, h, and_true]
      by_cases e : i.code = v.item
      · simp only [e, if_true]
        congr 1
        omega
      · simp only [e, if_false, if_neg (Ne.symm e), Nat.add_zero]

/-- A record entered changes no catalog, no lane and no slot. -/
theorem State.enterRecord_rest (s : State) (l : LaneIx) (r : VoucherRecord) :
    (s.enterRecord l r).vouchers.catalog = s.vouchers.catalog ∧ (s.enterRecord l r).lanes = s.lanes
      ∧ (s.enterRecord l r).slots = s.slots := by
  unfold State.enterRecord
  split
  · exact ⟨rfl, rfl, rfl⟩
  · split <;> exact ⟨rfl, rfl, rfl⟩

/-- Lines issued: of each item, as many vouchers as there were lines without a code move from reserved to issued, and no line is
left without one. -/
theorem State.issueLines_counts (s : State) (l : LaneIx) (vs : List VoucherLine) :
    (s.issueLines l vs).2.vouchers.catalog
        = s.vouchers.catalog.map (fun i =>
            { i with reserved := i.reserved - unissuedOf vs i.code, issued := i.issued + unissuedOf vs i.code })
      ∧ (s.issueLines l vs).2.lanes = s.lanes ∧ ∀ item, unissuedOf (s.issueLines l vs).1 item = 0 := by
  induction vs generalizing s with
  | nil => exact ⟨(List.map_id' _).symm, rfl, fun _ => rfl⟩
  | cons v vs ih =>
    unfold State.issueLines
    cases h : v.code with
    | some c =>
      obtain ⟨hc, hl, hn⟩ := ih s
      have e : unissuedOf (v :: vs) = unissuedOf vs := funext fun item => by rw [unissuedOf_cons, h]; simp
      refine ⟨by simpa [e] using hc, by simpa using hl, fun item => ?_⟩
      simp only [Option.isNone_some, Bool.false_eq_true, if_false]
      rw [unissuedOf_cons, h]
      simpa using hn item
    | none =>
      obtain ⟨hc, hl, hn⟩ := ih (s.issueLine l v).2
      have r := State.enterRecord_rest
      simp only [Option.isNone_none, if_true]
      refine ⟨?_, hl.trans ((r _ _ _).2.1.trans rfl), fun item => ?_⟩
      · refine hc.trans ?_
        unfold State.issueLine
        simp only
        rw [(r _ _ _).1]
        simp only [State.modItem, State.drawVoucher, List.map_map]
        refine List.map_congr_left fun i _ => ?_
        simp only [Function.comp, unissuedOf_cons, h, and_true]
        by_cases e : i.code = v.item
        · simp only [e, if_true]
          congr 1 <;> omega
        · simp only [e, if_false, if_neg (Ne.symm e), Nat.add_zero]
      · rw [unissuedOf_cons, hn item]
        simp [State.issueLine]

/-! ### A quote written -/

theorem pairFlags_length (n : Nat) (es : List Bool) : (pairFlags n es).length = es.length := by
  induction es generalizing n with
  | nil => cases n <;> rfl
  | cons e es ih =>
    cases n with
    | zero => exact congrArg (· + 1) (ih 0)
    | succ n => cases e <;> exact congrArg (· + 1) (ih _)

theorem capDiscounts_length (n : Nat) (ds : List Nat) : (capDiscounts n ds).1.length = ds.length := by
  induction ds with
  | nil => rfl
  | cons d ds ih => exact congrArg (· + 1) ih

/-- A quote gives every voucher line its figures. -/
theorem priceOrder_figures (x : Option Screening) (catalog : List CatalogItem) (c : SetupRecord) (lines : List SeatLine)
    (vs : List VoucherLine) : (priceOrder x catalog c lines vs).voucherFigures.length = vs.length := by
  simp [priceOrder, pairFlags_length, capDiscounts_length]

/-- Figures written for every line change no line's item or code. -/
theorem writeVoucherFigures_unissued (vs : List VoucherLine) (figures : List (Nat × Bool × Nat))
    (h : figures.length = vs.length) (item : Nat) : unissuedOf (writeVoucherFigures vs figures) item = unissuedOf vs item := by
  induction vs generalizing figures with
  | nil => rfl
  | cons v vs ih =>
    cases figures with
    | nil => cases h
    | cons f fs =>
      have := ih fs (Nat.succ.inj h)
      simp only [writeVoucherFigures, List.zip_cons_cons, List.map_cons, unissuedOf_cons] at this ⊢
      rw [this]

theorem State.priced_lines (s : State) (l : LaneIx) (item : Nat) :
    unissuedOf (Order.writeQuote (s.priced l) (s.lane l).order).voucherLines item
      = unissuedOf (s.lane l).order.voucherLines item :=
  writeVoucherFigures_unissued _ _ (priceOrder_figures _ _ _ _ _) item

/-! ### A catalog loaded -/

theorem codesDistinct_nodup (is : List CatalogItem) (h : codesDistinct is = true) : (is.map CatalogItem.code).Nodup := by
  induction is with
  | nil => exact List.nodup_nil
  | cons i is ih =>
    simp only [codesDistinct, Bool.and_eq_true, Bool.not_eq_true', List.contains_eq_mem, decide_eq_false_iff_not] at h
    exact List.nodup_cons.mpr ⟨h.1, ih h.2⟩

theorem readItems_fresh (n : Nat) (bs : List Byte) : ∀ i ∈ readItems n bs, i.issued = 0 ∧ i.reserved = 0 := by
  induction n generalizing bs with
  | zero => exact fun _ h => absurd h List.not_mem_nil
  | succ n ih =>
    intro i hi
    rcases List.mem_cons.mp hi with rfl | hi
    · exact ⟨rfl, rfl⟩
    · exact ih _ i hi

/-- A catalog read has no item twice and no count (R129, R130). -/
theorem readCatalog_fresh (bs : List Byte) (expiry : Nat) (items : List CatalogItem)
    (h : readCatalog bs = some (expiry, items)) :
    (items.map CatalogItem.code).Nodup ∧ ∀ i ∈ items, i.issued = 0 ∧ i.reserved = 0 := by
  unfold readCatalog at h
  simp only at h
  split_ifs at h with _ ok
  obtain ⟨_, rfl⟩ := Prod.mk.inj (Option.some.inj h)
  simp only [Bool.and_eq_true] at ok
  exact ⟨codesDistinct_nodup _ ok.2, readItems_fresh _ _⟩

/-- With no voucher line in any lane, none is without a code. -/
theorem State.unissued_none (s : State) (h : s.anyVoucherLine = false) (item : Nat) : s.unissued item = 0 := by
  unfold State.unissued
  refine List.sum_eq_zero fun n hn => ?_
  obtain ⟨l, hl, rfl⟩ := List.mem_map.mp hn
  have : (s.lane l).order.voucherLines = [] := by simpa using List.any_eq_false.mp h l hl
  rw [this]
  rfl

/-- A catalog loaded while no lane holds a voucher line (R130, R131). -/
theorem VoucherCounts.loaded {s t : State} (lanes : t.lanes = s.lanes) (none : s.anyVoucherLine = false)
    (h : (t.vouchers.catalog.map CatalogItem.code).Nodup ∧ ∀ i ∈ t.vouchers.catalog, i.issued = 0 ∧ i.reserved = 0) :
    VoucherCounts t := by
  refine ⟨h.1, fun i hi => ?_, fun i hi => ?_⟩
  · obtain ⟨a, b⟩ := h.2 i hi
    omega
  · have e : t.unissued i.code = s.unissued i.code := by
      unfold State.unissued State.lane
      rw [lanes]
    rw [(h.2 i hi).2, e, s.unissued_none none]

/-! ### The counts -/

/-- The counts look at the catalog and at the lines that carry no code, and at nothing else. -/
theorem VoucherCounts.ofLines {s t : State} (c : t.vouchers.catalog = s.vouchers.catalog)
    (v : ∀ l item, unissuedOf (t.lane l).order.voucherLines item = unissuedOf (s.lane l).order.voucherLines item)
    (h : VoucherCounts s) : VoucherCounts t := by
  have u : ∀ item, t.unissued item = s.unissued item := fun item => by
    unfold State.unissued
    exact congrArg List.sum (List.map_congr_left fun l _ => v l item)
  exact ⟨by rw [c]; exact h.codes, by rw [c]; exact h.room, by rw [c]; exact fun i hi => (h.reserved i hi).trans (u _).symm⟩

theorem mem_laneOrder (l : LaneIx) : l ∈ laneOrder := by
  revert l
  decide

/-- The lines without a code once one lane's lines have changed. -/
theorem State.unissued_change {s t : State} (l : LaneIx) (same : ∀ m, m ≠ l → t.lane m = s.lane m) (item : Nat) :
    t.unissued item + unissuedOf (s.lane l).order.voucherLines item
      = s.unissued item + unissuedOf (t.lane l).order.voucherLines item := by
  have h : ∀ m, m ≠ l → unissuedOf (t.lane m).order.voucherLines item = unissuedOf (s.lane m).order.voucherLines item :=
    fun m hm => by rw [same m hm]
  have all : ∀ u : State, u.unissued item = unissuedOf (u.lane 0).order.voucherLines item
      + unissuedOf (u.lane 1).order.voucherLines item + unissuedOf (u.lane 2).order.voucherLines item
      + unissuedOf (u.lane 3).order.voucherLines item := fun u => by
    simp [State.unissued, laneOrder, Nat.add_assoc]
  rw [all, all]
  have hl : l = 0 ∨ l = 1 ∨ l = 2 ∨ l = 3 := by simpa [laneOrder] using mem_laneOrder l
  rcases hl with rfl | rfl | rfl | rfl
  · have := h 1 (by decide); have := h 2 (by decide); have := h 3 (by decide); omega
  · have := h 0 (by decide); have := h 2 (by decide); have := h 3 (by decide); omega
  · have := h 0 (by decide); have := h 1 (by decide); have := h 3 (by decide); omega
  · have := h 0 (by decide); have := h 1 (by decide); have := h 2 (by decide); omega

/-- One lane's lines and the catalog's counts change together: each item's reserved count as the lines without a code do, and
no more of it issued and reserved than before, or no more than its allotment. -/
theorem VoucherCounts.ofChange {s t : State} (h : VoucherCounts s) (l : LaneIx) (f : CatalogItem → CatalogItem)
    (c : t.vouchers.catalog = s.vouchers.catalog.map f) (same : ∀ m, m ≠ l → t.lane m = s.lane m)
    (code : ∀ i, (f i).code = i.code)
    (room : ∀ i ∈ s.vouchers.catalog, unissuedOf (s.lane l).order.voucherLines i.code ≤ i.reserved →
      i.issued + i.reserved ≤ i.allotment → (f i).issued + (f i).reserved ≤ (f i).allotment)
    (count : ∀ i ∈ s.vouchers.catalog, unissuedOf (s.lane l).order.voucherLines i.code ≤ i.reserved →
      (f i).reserved + unissuedOf (s.lane l).order.voucherLines i.code
        = i.reserved + unissuedOf (t.lane l).order.voucherLines i.code) : VoucherCounts t := by
  have le : ∀ i ∈ s.vouchers.catalog, unissuedOf (s.lane l).order.voucherLines i.code ≤ i.reserved := fun i hi => by
    rw [h.reserved i hi]
    exact List.single_le_sum (fun _ _ => Nat.zero_le _) _ (List.mem_map_of_mem (mem_laneOrder l))
  refine ⟨?_, fun j hj => ?_, fun j hj => ?_⟩
  · rw [c, List.map_map, show CatalogItem.code ∘ f = CatalogItem.code from funext code]
    exact h.codes
  all_goals
    rw [c] at hj
    obtain ⟨i, hi, rfl⟩ := List.mem_map.mp hj
  · exact room i hi (le i hi) (h.room i hi)
  · have hu := State.unissued_change l same i.code
    have hc := count i hi (le i hi)
    have hr := h.reserved i hi
    rw [code]
    omega

/-- Lines leave a lane's order, and those without a code return their reservations (R134). -/
theorem VoucherCounts.leave {s t : State} (h : VoucherCounts s) (l : LaneIx) (gone : List VoucherLine)
    (c : t.vouchers.catalog = (s.vouchers.returned gone).catalog) (same : ∀ m, m ≠ l → t.lane m = s.lane m)
    (split : ∀ item, unissuedOf gone item + unissuedOf (t.lane l).order.voucherLines item
      = unissuedOf (s.lane l).order.voucherLines item) : VoucherCounts t := by
  refine h.ofChange l _ c same (fun _ => rfl) (fun i _ _ r => ?_) fun i _ n => ?_
  · show i.issued + (i.reserved - unissuedOf gone i.code) ≤ i.allotment
    omega
  · show i.reserved - unissuedOf gone i.code + _ = _
    have := split i.code
    omega

/-- Lines are added to a lane's order within the allotment of their item, and reserved (R132). -/
theorem VoucherCounts.add {s t : State} (h : VoucherCounts s) (l : LaneIx) (item n : Nat) (x : CatalogItem)
    (found : s.item item = some x) (room : x.issued + x.reserved + n ≤ x.allotment)
    (c : t.vouchers.catalog = s.vouchers.catalog.map fun i => if i.code = item then { i with reserved := i.reserved + n } else i)
    (same : ∀ m, m ≠ l → t.lane m = s.lane m)
    (lines : (t.lane l).order.voucherLines
      = (s.lane l).order.voucherLines ++ List.replicate n ⟨item, false, none, none, none⟩) : VoucherCounts t := by
  have hx : x ∈ s.vouchers.catalog ∧ x.code = item := by
    have := List.find?_some found
    exact ⟨List.mem_of_find?_eq_some found, by simpa using this⟩
  refine h.ofChange l _ c same (fun i => by split <;> rfl) (fun i hi _ r => ?_) fun i _ n => ?_
  · split
    · rename_i e
      have : i = x := List.inj_on_of_nodup_map h.codes hi hx.1 (e.trans hx.2.symm)
      subst this
      show i.issued + (i.reserved + n) ≤ i.allotment
      omega
    · exact r
  · rw [lines, unissuedOf_append, unissuedOf_fresh]
    by_cases e : i.code = item
    · rw [if_pos e, if_pos e.symm]
      show i.reserved + _ + _ = _
      omega
    · rw [if_neg e, if_neg (Ne.symm e)]
      omega

/-- A lane's lines are issued (R136). -/
theorem VoucherCounts.issue {s : State} (h : VoucherCounts s) (l : LaneIx) : VoucherCounts (s.issueVouchers l) := by
  obtain ⟨hc, hl, hn⟩ := State.issueLines_counts s l (s.lane l).order.voucherLines
  have lane : ∀ m, (s.issueLines l (s.lane l).order.voucherLines).2.lane m = s.lane m := fun m =>
    congrArg (fun x => PerLane.get x m) hl
  refine h.ofChange l _ hc (fun m hm => ?_) (fun _ => rfl) (fun i _ n r => ?_) fun i _ n => ?_
  · show ((State.modLane _ l _).lane m) = _
    rw [State.lane_modLane, if_neg hm, lane]
  · show i.issued + _ + (i.reserved - _) ≤ i.allotment
    omega
  · show i.reserved - _ + _ = i.reserved + unissuedOf ((State.modLane _ l _).lane l).order.voucherLines i.code
    rw [State.lane_modLane_same, hn]
    omega

end Sys2Proof.Machine
end

