-- ==== Sys2Proof/Laws/Keeps.lean ====
section
/-! SUPPORT. What every operation inside a step keeps, said once as one relation: the queue of commands, the inputs, the
setup record, a set drain latch, the canonical memory, the screenings, the capacities and the serial counters. Each lemma
`x_keeps` extends a kept run by the operation `x`, so that a chain of operations is kept by the chain of its lemmas. -/

namespace Sys2Proof.Machine

/-- A slot is free before and after, or keeps its screening. -/
def SlotSame : Option Screening → Option Screening → Prop
  | none, none => True
  | some x, some y => ScreeningKept x y
  | _, _ => False

/-- What every operation inside a step keeps. -/
structure Keeps (s t : State) : Prop where
  pending : t.pending = s.pending
  pins : t.pins = s.pins
  record : t.house.record = s.house.record
  lock : t.house.lock = s.house.lock
  counting : t.house.counting = s.house.counting
  clock : t.house.clock = s.house.clock
  latched : s.house.drain ≠ .clear → t.house.drain ≠ .clear
  station : t.link.station = s.link.station
  host : s.io.host.wf = true → t.io.host.wf = true
  slots : List.Forall₂ SlotSame s.slots t.slots
  link : LinkCapacity s.link → LinkCapacity t.link
  ring : RingCapacity s.io.ring → RingCapacity t.io.ring
  table : s.vouchers.table.length ≤ Config.voucherTableSize → t.vouchers.table.length ≤ Config.voucherTableSize
  vserial : 1 ≤ s.vouchers.serial ∧ s.vouchers.serial ≤ Config.lastVoucherSerial →
    1 ≤ t.vouchers.serial ∧ t.vouchers.serial ≤ Config.lastVoucherSerial
  tserial : 1 ≤ s.printing.serial ∧ s.printing.serial ≤ Config.lastTicketSerial →
    1 ≤ t.printing.serial ∧ t.printing.serial ≤ Config.lastTicketSerial
  counts : VoucherCounts s → VoucherCounts t

/-! ### The relation -/

theorem SeatKept.refl (a : SeatState) : SeatKept a a := ⟨Iff.rfl, fun _ h => h⟩

theorem SeatKept.trans {a b c : SeatState} (h : SeatKept a b) (k : SeatKept b c) : SeatKept a c :=
  ⟨k.1.trans h.1, fun o e => k.2 o (h.2 o e)⟩

theorem ScreeningKept.refl (x : Screening) : ScreeningKept x x :=
  ⟨rfl, rfl, rfl, rfl, rfl, rfl, rfl, rfl, List.forall₂_same.mpr fun p _ => ⟨rfl, SeatKept.refl p.2⟩⟩

theorem forall₂_trans {α : Type} {R : α → α → Prop} (tr : ∀ a b c, R a b → R b c → R a c) {xs ys zs : List α}
    (h : List.Forall₂ R xs ys) (k : List.Forall₂ R ys zs) : List.Forall₂ R xs zs := by
  induction h generalizing zs with
  | nil => cases k; exact .nil
  | cons h1 _ ih => cases k with | cons k1 k2 => exact .cons (tr _ _ _ h1 k1) (ih k2)

theorem ScreeningKept.trans {x y z : Screening} (h : ScreeningKept x y) (k : ScreeningKept y z) : ScreeningKept x z :=
  ⟨k.code.trans h.code, k.start.trans h.start, k.lateOffset.trans h.lateOffset, k.surcharge.trans h.surcharge,
    k.band.trans h.band, k.tiers.trans h.tiers, k.types.trans h.types, k.plan.trans h.plan,
    forall₂_trans (fun _ _ _ a b => ⟨b.1.trans a.1, a.2.trans b.2⟩) h.seats k.seats⟩

theorem SlotSame.refl (a : Option Screening) : SlotSame a a := by
  cases a with
  | none => trivial
  | some x => exact ScreeningKept.refl x

theorem SlotSame.trans {a b c : Option Screening} (h : SlotSame a b) (k : SlotSame b c) : SlotSame a c := by
  cases a <;> cases b <;> cases c <;> first | trivial | exact h.elim | exact k.elim | exact ScreeningKept.trans h k

theorem Keeps.refl (s : State) : Keeps s s :=
  ⟨rfl, rfl, rfl, rfl, rfl, rfl, id, rfl, id, List.forall₂_same.mpr fun _ _ => SlotSame.refl _, id, id, id, id, id, id⟩

theorem Keeps.trans {s t u : State} (h : Keeps s t) (k : Keeps t u) : Keeps s u :=
  ⟨k.pending.trans h.pending, k.pins.trans h.pins, k.record.trans h.record, k.lock.trans h.lock,
    k.counting.trans h.counting, k.clock.trans h.clock, fun d => k.latched (h.latched d), k.station.trans h.station,
    fun w => k.host (h.host w), forall₂_trans (R := SlotSame) (fun _ _ _ x y => SlotSame.trans x y) h.slots k.slots, fun c => k.link (h.link c),
    fun c => k.ring (h.ring c), fun c => k.table (h.table c), fun c => k.vserial (h.vserial c),
    fun c => k.tserial (h.tserial c), fun c => k.counts (h.counts c)⟩

/-! ### One part of the state changed -/

/-- A change of the lanes that leaves the vouchers' counts right. -/
theorem Keeps.ofLanes {a s : State} (h : Keeps a s) (x : PerLane Lane)
    (v : ∀ l item, unissuedOf (x.get l).order.voucherLines item = unissuedOf (s.lane l).order.voucherLines item) :
    Keeps a { s with lanes := x } :=
  h.trans ⟨rfl, rfl, rfl, rfl, rfl, rfl, id, rfl, id, List.forall₂_same.mpr fun _ _ => SlotSame.refl _, id, id, id, id, id,
    VoucherCounts.ofLines rfl v⟩

/-- A change of one lane, with the lines of its order the same as far as the counts go. -/
theorem Keeps.ofLane {a s : State} (h : Keeps a s) (l : LaneIx) (f : Lane → Lane)
    (v : ∀ item, unissuedOf (f (s.lane l)).order.voucherLines item = unissuedOf (s.lane l).order.voucherLines item) :
    Keeps a (s.modLane l f) := by
  refine h.ofLanes _ fun m item => ?_
  show unissuedOf ((s.modLane l f).lane m).order.voucherLines item = _
  rw [State.lane_modLane]
  split
  · rename_i e
    subst e
    exact v item
  · rfl

theorem Keeps.ofLink {a s : State} (h : Keeps a s) (k : Link) (st : k.station = s.link.station)
    (c : LinkCapacity s.link → LinkCapacity k) : Keeps a { s with link := k } :=
  h.trans ⟨rfl, rfl, rfl, rfl, rfl, rfl, id, st, id, List.forall₂_same.mpr fun _ _ => SlotSame.refl _, c, id, id, id, id,
    VoucherCounts.ofLines rfl fun _ _ => rfl⟩

/-- The same with the link's capacity judged from the first state. -/
theorem Keeps.ofLinkFrom {a s : State} (h : Keeps a s) (k : Link) (st : k.station = s.link.station)
    (c : LinkCapacity a.link → LinkCapacity k) : Keeps a { s with link := k } :=
  ⟨h.pending, h.pins, h.record, h.lock, h.counting, h.clock, h.latched, st.trans h.station, h.host, h.slots, c, h.ring,
    h.table, h.vserial, h.tserial, fun q => VoucherCounts.ofLines (s := s) rfl (fun _ _ => rfl) (h.counts q)⟩

theorem Keeps.ofIo {a s : State} (h : Keeps a s) (io : Io) (w : s.io.host.wf = true → io.host.wf = true)
    (c : RingCapacity s.io.ring → RingCapacity io.ring) : Keeps a { s with io := io } :=
  h.trans ⟨rfl, rfl, rfl, rfl, rfl, rfl, id, rfl, w, List.forall₂_same.mpr fun _ _ => SlotSame.refl _, id, c, id, id, id,
    VoucherCounts.ofLines rfl fun _ _ => rfl⟩

theorem Keeps.ofVouchers {a s : State} (h : Keeps a s) (v : Vouchers)
    (c : s.vouchers.table.length ≤ Config.voucherTableSize → v.table.length ≤ Config.voucherTableSize)
    (n : 1 ≤ s.vouchers.serial ∧ s.vouchers.serial ≤ Config.lastVoucherSerial →
      1 ≤ v.serial ∧ v.serial ≤ Config.lastVoucherSerial)
    (k : VoucherCounts s → VoucherCounts { s with vouchers := v }) : Keeps a { s with vouchers := v } :=
  h.trans ⟨rfl, rfl, rfl, rfl, rfl, rfl, id, rfl, id, List.forall₂_same.mpr fun _ _ => SlotSame.refl _, id, id, c, n, id, k⟩

/-- A change of the lanes and of the catalog together that leaves the counts right. -/
theorem Keeps.ofCatalog {a s : State} (h : Keeps a s) (x : PerLane Lane) (v : List CatalogItem)
    (k : VoucherCounts s → VoucherCounts { s with lanes := x, vouchers := { s.vouchers with catalog := v } }) :
    Keeps a { s with lanes := x, vouchers := { s.vouchers with catalog := v } } :=
  h.trans ⟨rfl, rfl, rfl, rfl, rfl, rfl, id, rfl, id, List.forall₂_same.mpr fun _ _ => SlotSame.refl _, id, id, id, id, id, k⟩

/-- Lines leave a lane's order, and return their reservations (R134). -/
theorem State.linesLeave_keeps {a s : State} (h : Keeps a s) (l : LaneIx) (gone : List VoucherLine) (f : Lane → Lane)
    (split : ∀ item, unissuedOf gone item + unissuedOf (f (s.lane l)).order.voucherLines item
      = unissuedOf (s.lane l).order.voucherLines item) : Keeps a ((s.returnLines gone).modLane l f) := by
  rw [State.returnLines_eq]
  refine h.ofCatalog _ _ fun c => c.leave (t := State.modLane { s with vouchers := s.vouchers.returned gone } l f) l gone rfl
    (fun m hm => (State.lane_modLane _ _ _ _).trans (if_neg hm)) fun item => ?_
  rw [State.lane_modLane_same]
  exact split item

theorem Keeps.ofPrinting {a s : State} (h : Keeps a s) (p : Printing)
    (n : 1 ≤ s.printing.serial ∧ s.printing.serial ≤ Config.lastTicketSerial →
      1 ≤ p.serial ∧ p.serial ≤ Config.lastTicketSerial) : Keeps a { s with printing := p } :=
  h.trans ⟨rfl, rfl, rfl, rfl, rfl, rfl, id, rfl, id, List.forall₂_same.mpr fun _ _ => SlotSame.refl _, id, id, id, id, n,
    VoucherCounts.ofLines rfl fun _ _ => rfl⟩

theorem Keeps.ofSlots {a s : State} (h : Keeps a s) (x : List (Option Screening)) (c : List.Forall₂ SlotSame s.slots x) :
    Keeps a { s with slots := x } :=
  h.trans ⟨rfl, rfl, rfl, rfl, rfl, rfl, id, rfl, id, c, id, id, id, id, id, VoucherCounts.ofLines rfl fun _ _ => rfl⟩

theorem Keeps.ofDrain {a s : State} (h : Keeps a s) (d : DrainPhase) (c : s.house.drain ≠ .clear → d ≠ .clear) :
    Keeps a { s with house := { s.house with drain := d } } :=
  h.trans ⟨rfl, rfl, rfl, rfl, rfl, rfl, c, rfl, id, List.forall₂_same.mpr fun _ _ => SlotSame.refl _, id, id, id, id, id,
    VoucherCounts.ofLines rfl fun _ _ => rfl⟩

/-- A fold over lanes, entries or notices is kept when each of its steps is. -/
theorem foldl_keeps {α : Type} (f : State → α → State) (hf : ∀ s x, Keeps s (f s x)) (xs : List α) (s : State) :
    Keeps s (xs.foldl f s) := by
  induction xs generalizing s with
  | nil => exact Keeps.refl s
  | cons x xs ih => exact (hf s x).trans (ih _)

/-! ### Lanes, printers and jobs -/

@[simp] theorem Order.modTender_voucherLines (o : Order) (i : TenderIx) (f : Tender → Tender) :
    (o.modTender i f).voucherLines = o.voucherLines := by cases i <;> rfl
@[simp] theorem Order.voidFrom_voucherLines (o : Order) (t : TenderState) : (o.voidFrom t).voucherLines = o.voucherLines := rfl

theorem State.modLane_keeps {a s : State} (h : Keeps a s) (l : LaneIx) (f : Lane → Lane)
    (v : ∀ x, (f x).order.voucherLines = x.order.voucherLines := by first | exact fun _ => rfl | simp) :
    Keeps a (s.modLane l f) := h.ofLane _ _ fun _ => by rw [v]
theorem State.modOrder_keeps {a s : State} (h : Keeps a s) (l : LaneIx) (f : Order → Order)
    (v : ∀ o, (f o).voucherLines = o.voucherLines := by first | exact fun _ => rfl | simp) : Keeps a (s.modOrder l f) :=
  h.ofLane _ _ fun _ => congrArg (unissuedOf · _) (v _)
theorem State.modTerm_keeps {a s : State} (h : Keeps a s) (l : LaneIx) (f : Terminal → Terminal) : Keeps a (s.modTerm l f) :=
  h.ofLane _ _ fun _ => rfl
theorem State.clearClaim_keeps {a s : State} (h : Keeps a s) (l : LaneIx) : Keeps a (s.clearClaim l) :=
  h.ofLane _ _ fun _ => rfl
theorem State.setPhase_keeps {a s : State} (h : Keeps a s) (l : LaneIx) (ph : WordPhase) : Keeps a (s.setPhase l ph) :=
  h.ofLane _ _ fun _ => rfl
theorem State.linesChanged_keeps {a s : State} (h : Keeps a s) (l : LaneIx) : Keeps a (s.linesChanged l) :=
  h.ofLane _ _ fun _ => rfl
theorem State.setBlock_keeps {a s : State} (h : Keeps a s) (l : LaneIx) (b : Block) : Keeps a (s.setBlock l b) :=
  h.ofLane _ _ fun _ => rfl
theorem State.modPrinter_keeps {a s : State} (h : Keeps a s) (p : PortIx) (f : Printer → Printer) :
    Keeps a (s.modPrinter p f) := h.ofPrinting _ id
theorem State.modJobs_keeps {a s : State} (h : Keeps a s) (f : List Job → List Job) : Keeps a (s.modJobs f) :=
  h.ofPrinting _ id
theorem State.modJob_keeps {a s : State} (h : Keeps a s) (l : LaneIx) (f : Job → Job) : Keeps a (s.modJob l f) :=
  h.ofPrinting _ id
theorem State.modPrintItem_keeps {a s : State} (h : Keeps a s) (l : LaneIx) (k : Nat) (f : Item → Item) :
    Keeps a (s.modPrintItem l k f) := h.ofPrinting _ id
theorem State.removeJob_keeps {a s : State} (h : Keeps a s) (l : LaneIx) : Keeps a (s.removeJob l) := h.ofPrinting _ id
theorem State.restartAttendance_keeps {a s : State} (h : Keeps a s) (l : LaneIx) : Keeps a (s.restartAttendance l) := by
  unfold State.restartAttendance
  split
  · exact h
  · exact h.ofLane _ _ fun _ => rfl

/-! ### The rings -/

theorem RingCapacity.ofSame {r r' : Ring} (w : r'.waiting = r.waiting) (d : r'.dropped = r.dropped) (h : RingCapacity r) :
    RingCapacity r' := ⟨by rw [w]; exact h.waiting, by rw [d]; exact h.dropped⟩

theorem State.modRing_keeps {a s : State} (h : Keeps a s) (f : Ring → Ring)
    (c : RingCapacity s.io.ring → RingCapacity (f s.io.ring)) : Keeps a (s.modRing f) := h.ofIo _ id c

theorem State.popTaken_keeps {a s : State} (h : Keeps a s) : Keeps a s.popTaken :=
  State.modRing_keeps h _ (RingCapacity.ofSame rfl rfl)

theorem State.complete_keeps {a s : State} (h : Keeps a s) (ref : RequestRef) (st : List Byte) : Keeps a (s.complete ref st) :=
  h.ofIo _ (fun w => HostMem.wf_put _ _ _ (HostMem.wf_write _ _ _ w)) (RingCapacity.ofSame rfl rfl)

theorem writeReport_wf (c : SetupRecord) (rep : Report) (io : Io) (w : io.host.wf = true) :
    (writeReport c rep io).host.wf = true := HostMem.wf_put _ _ _ (HostMem.wf_write _ _ _ w)

theorem writeReport_ring (c : SetupRecord) (rep : Report) (io : Io) (h : io.ring.waiting.length ≤ Config.waitingSize) :
    RingCapacity (writeReport c rep io).ring := ⟨h, Nat.zero_le _⟩

theorem joinWaiting_ring (rep : Report) (io : Io) (h : RingCapacity io.ring) : RingCapacity (joinWaiting rep io).ring := by
  have hw := h.waiting
  have hd := h.dropped
  constructor
  · simp only [joinWaiting, decide_eq_true_eq, List.length_append, List.length_singleton]
    split
    · rw [List.length_tail]
      have : 1 ≤ Config.waitingSize := by decide
      omega
    · rename_i hf
      exact Nat.lt_of_not_le hf
  · simp only [joinWaiting, decide_eq_true_eq]
    split
    · exact min_le_left _ _
    · exact hd

theorem State.raise_keeps {a s : State} (h : Keeps a s) (rep : Report) : Keeps a (s.raise rep) := by
  refine h.ofIo _ (fun w => ?_) fun c => ?_
  · unfold raiseIo
    split
    · exact w
    · split
      · exact writeReport_wf _ _ _ w
      · exact w
  · unfold raiseIo
    split
    · exact joinWaiting_ring _ _ c
    · split
      · exact writeReport_ring _ _ _ c.waiting
      · exact joinWaiting_ring _ _ c

theorem flushIo_wf (c : SetupRecord) (n : Nat) (io : Io) (w : io.host.wf = true) : (flushIo c n io).host.wf = true := by
  induction n generalizing io with
  | zero => exact w
  | succ n ih =>
    unfold flushIo
    split
    · exact w
    · split
      · exact ih _ (writeReport_wf _ _ _ w)
      · exact w

theorem flushIo_ring (c : SetupRecord) (n : Nat) (io : Io) (h : RingCapacity io.ring) : RingCapacity (flushIo c n io).ring := by
  induction n generalizing io with
  | zero => exact h
  | succ n ih =>
    unfold flushIo
    split
    · exact h
    · rename_i rep rest e
      split
      · refine ih _ (writeReport_ring _ _ _ ?_)
        have := h.waiting
        rw [e, List.length_cons] at this
        exact Nat.le_of_succ_le this
      · exact h

theorem State.flushReports_keeps {a s : State} (h : Keeps a s) : Keeps a s.flushReports := by
  unfold State.flushReports
  split
  · exact h
  · exact h.ofIo _ (flushIo_wf _ _ _) (flushIo_ring _ _ _)

theorem State.startRequest_keeps {a s : State} (h : Keeps a s) (ref : RequestRef) (d : Descriptor) :
    Keeps a (s.startRequest ref d) := by
  unfold State.startRequest
  split
  · exact State.complete_keeps h _ _
  · split
    · exact State.complete_keeps h _ _
    · split
      · exact State.complete_keeps h _ _
      · split
        · exact State.complete_keeps h _ _
        · exact State.modRing_keeps h _ (RingCapacity.ofSame rfl rfl)

theorem Ring.take_capacity (k : RingKind) (n i : Nat) (r : Ring) (h : RingCapacity r) : RingCapacity (Ring.take k n i r) := by
  cases k <;> exact ⟨h.waiting, h.dropped⟩

theorem State.look_keeps (n : Nat) {a s : State} (h : Keeps a s) : Keeps a (State.look n s) := by
  induction n generalizing s with
  | zero => exact h
  | succ n ih =>
    unfold State.look
    split
    split
    · exact h
    · split
      · exact h
      · simp only
        split
        · exact h
        · split
          · exact h
          · exact ih (State.startRequest_keeps (State.modRing_keeps h _ (Ring.take_capacity _ _ _ _)) _ _)

theorem State.lookRing_keeps {a s : State} (h : Keeps a s) : Keeps a s.lookRing := State.look_keeps _ h

/-! ### Blocks in progress -/

theorem State.endBlock_keeps {a s : State} (h : Keeps a s) (l : LaneIx) (b : Block) (st : Status) :
    Keeps a (s.endBlock l b st) := State.complete_keeps (State.modLane_keeps h _ _) _ _

theorem State.endWord_keeps {a s : State} (h : Keeps a s) (l : LaneIx) (e : WordEnd) : Keeps a (s.endWord l e) := by
  unfold State.endWord
  split
  · exact h
  · split
    · exact h
    · split
      · split
        · exact State.modLane_keeps h _ _
        · exact State.endBlock_keeps h _ _ _
      · exact State.endBlock_keeps h _ _ _

theorem State.endPick_keeps {a s : State} (h : Keeps a s) (l : LaneIx) (e : WordEnd) : Keeps a (s.endPick l e) := by
  unfold State.endPick
  split
  · exact State.endWord_keeps h _ _
  · exact h

theorem State.endPay_keeps {a s : State} (h : Keeps a s) (l : LaneIx) (e : WordEnd) : Keeps a (s.endPay l e) := by
  unfold State.endPay
  split
  · exact State.endWord_keeps h _ _
  · exact h

theorem State.endPrint_keeps {a s : State} (h : Keeps a s) (l : LaneIx) (e : WordEnd) : Keeps a (s.endPrint l e) := by
  unfold State.endPrint
  split
  · exact State.endWord_keeps h _ _
  · exact h

theorem State.endCancelWait_keeps {a s : State} (h : Keeps a s) (l : LaneIx) (e : WordEnd) :
    Keeps a (s.endCancelWait l e) := by
  unfold State.endCancelWait
  split
  · exact h
  · split
    · exact State.endBlock_keeps h _ _ _
    · split
      · exact State.endWord_keeps h _ _
      · exact h

theorem State.refuseWord_keeps {a s : State} (h : Keeps a s) (l : LaneIx) (c : Code) : Keeps a (s.refuseWord l c) :=
  State.endWord_keeps h _ _

/-! ### The seat map -/

theorem State.modScreening_keeps {a s : State} (h : Keeps a s) (code : Nat) (f : Screening → Screening)
    (hf : ∀ x, ScreeningKept x (f x)) : Keeps a (s.modScreening code f) := by
  refine h.ofSlots _ ?_
  rw [List.forall₂_map_right_iff]
  refine List.forall₂_same.mpr fun o _ => ?_
  cases o with
  | none => trivial
  | some x =>
    show ScreeningKept x (if x.code = code then f x else x)
    split
    · exact hf x
    · exact ScreeningKept.refl x

theorem State.mapSeats_keeps {a s : State} (h : Keeps a s) (code : Nat) (rs : List SeatRef) (f : SeatState → SeatState)
    (hf : ∀ st, SeatKept st (f st)) : Keeps a (s.mapSeats code rs f) := by
  refine State.modScreening_keeps h code _ fun x => ⟨rfl, rfl, rfl, rfl, rfl, rfl, rfl, rfl, ?_⟩
  show List.Forall₂ _ x.seats (x.seats.map _)
  rw [List.forall₂_map_right_iff]
  refine List.forall₂_same.mpr fun p _ => ⟨rfl, ?_⟩
  show SeatKept p.2 (if rs.contains p.1 then f p.2 else p.2)
  split
  · exact hf p.2
  · exact SeatKept.refl p.2

/-- A change that leaves BLOCKED and SOLD seats as they are, and makes no other seat BLOCKED, keeps every seat. -/
theorem SeatKept.ofMove (f : SeatState → SeatState) (b : f .blocked = .blocked) (o : ∀ n, f (.sold n) = .sold n)
    (n : ∀ st, st ≠ .blocked → f st ≠ .blocked) (st : SeatState) : SeatKept st (f st) := by
  refine ⟨⟨fun h => ?_, fun h => by rw [h, b]⟩, fun k h => by rw [h, o]⟩
  by_contra hb
  exact n st hb h

/-- A lane's CLAIMING seat that takes a state other than BLOCKED. -/
theorem SeatKept.ofClaimed (l : LaneIx) (d : SeatState) (hd : d ≠ .blocked) (st : SeatState) :
    SeatKept st (if st.claimedBy l then d else st) := by
  refine SeatKept.ofMove (fun st => if st.claimedBy l then d else st) rfl (fun _ => rfl) (fun st h => ?_) st
  split
  · exact hd
  · exact h

/-- A lane's HELD seat that takes a state other than BLOCKED. -/
theorem SeatKept.ofHeld (l : LaneIx) (d : SeatState) (hd : d ≠ .blocked) (st : SeatState) :
    SeatKept st (if st.heldBy l then d else st) := by
  refine SeatKept.ofMove (fun st => if st.heldBy l then d else st) rfl (fun _ => rfl) (fun st h => ?_) st
  split
  · exact hd
  · exact h

theorem State.freeClaim_keeps {a s : State} (h : Keeps a s) (l : LaneIx) : Keeps a (s.freeClaim l) :=
  State.mapSeats_keeps h _ _ _ (SeatKept.ofClaimed l _ (by decide))

end Sys2Proof.Machine
end

