-- ==== Sys2Proof/Laws/KeepsLink.lean ====
section
/-! SUPPORT. That the operations of the transmit queue keep the link's capacities, and that with what they do to an entry's
owner they keep all that Keeps says. -/

namespace Sys2Proof.Machine

/-! ### The link alone -/

/-- The counters and the contention state unchanged, and the entries kept. -/
theorem LinkCapacity.ofEntries {k k' : Link} (h : LinkCapacity k) (q : k'.queue.length ≤ Config.queueSize)
    (i : (k'.entries.map Entry.id).Nodup) (f : ∀ e ∈ k'.entries, e.id < k'.nextId)
    (p : ∀ e ∈ k'.entries, e.kept.isSome = true → e.notice.isRenew = true) (a : k'.aborts = k.aborts)
    (r : k'.receiveErrors = k.receiveErrors) (c : k'.contention = k.contention) : LinkCapacity k' :=
  ⟨q, i, f, p, by rw [a]; exact h.aborts, by rw [r]; exact h.receiveErrors, by rw [c]; exact h.collisions,
    by rw [c]; exact h.jam⟩

/-- Entries taken out. -/
theorem LinkCapacity.ofSublist {k k' : Link} (h : LinkCapacity k) (q : List.Sublist k'.queue k.queue)
    (o : k'.overflow = k.overflow) (n : k'.nextId = k.nextId) (a : k'.aborts = k.aborts)
    (r : k'.receiveErrors = k.receiveErrors) (c : k'.contention = k.contention) : LinkCapacity k' := by
  have hs : List.Sublist k'.entries k.entries := by
    unfold Link.entries
    rw [o]
    exact q.append (List.Sublist.refl _)
  exact h.ofEntries (q.length_le.trans h.queue) ((hs.map _).nodup h.ids) (fun e he => by rw [n]; exact h.fresh e (hs.subset he))
    (fun e he => h.kept e (hs.subset he)) a r c

/-- Contention taken to a phase and count that lie within the limit. -/
theorem LinkCapacity.ofContention {k : Link} (h : LinkCapacity k) (c : Contention) (n : c.collisions ≤ Config.collisionLimit)
    (j : c.phase ≠ .jamming → c.collisions < Config.collisionLimit) : LinkCapacity { k with contention := c } :=
  ⟨h.queue, h.ids, h.fresh, h.kept, h.aborts, h.receiveErrors, n, j⟩

theorem Link.idle_capacity {k : Link} (h : LinkCapacity k) : LinkCapacity k.idle :=
  h.ofContention _ (by decide) (by decide)

theorem Link.drop_capacity {k : Link} (h : LinkCapacity k) (id : Nat) : LinkCapacity (k.drop id) :=
  h.ofSublist List.filter_sublist rfl rfl rfl rfl rfl

/-- A new entry admitted to a queue with room. -/
theorem Link.admit_capacity {k : Link} (h : LinkCapacity k) (n : Notice) (cls : Class) (l : Option LaneIx)
    (tag : Option Nat) (room : k.queue.length < Config.queueSize) : LinkCapacity (k.enqueue n cls l tag) := by
  have hp : (k.enqueue n cls l tag).entries.Perm (⟨k.nextId, n, cls, l, tag, false, none⟩ :: k.entries) := by
    show ((k.queue ++ [_]) ++ k.overflow.toList).Perm _
    rw [List.append_assoc]
    exact List.perm_middle
  refine h.ofEntries ?_ ?_ ?_ ?_ rfl rfl rfl
  · show (k.queue ++ [_]).length ≤ _
    rw [List.length_append]
    exact room
  · rw [(hp.map _).nodup_iff]
    refine List.nodup_cons.mpr ⟨fun hm => ?_, h.ids⟩
    obtain ⟨e, he, hi⟩ := List.mem_map.mp hm
    exact absurd (h.fresh e he) (by rw [hi]; exact lt_irrefl _)
  · intro e he
    rcases List.mem_cons.mp (hp.subset he) with rfl | he
    · exact Nat.lt_succ_self _
    · exact Nat.lt_succ_of_lt (h.fresh e he)
  · intro e he hk
    rcases List.mem_cons.mp (hp.subset he) with rfl | he
    · cases hk
    · exact h.kept e he hk

/-- A SALE put into the overflow slot. -/
theorem Link.overflow_capacity {k : Link} (h : LinkCapacity k) (n : Notice) (cls : Class) (l : Option LaneIx)
    (tag : Option Nat) :
    LinkCapacity { k with overflow := some ⟨k.nextId, n, cls, l, tag, false, none⟩, nextId := k.nextId + 1 } := by
  have hq : ∀ e ∈ k.queue, e ∈ k.entries := fun e he => List.mem_append_left _ he
  have hids : (k.queue.map Entry.id).Nodup :=
    ((List.sublist_append_left k.queue k.overflow.toList).map _).nodup h.ids
  refine h.ofEntries h.queue ?_ ?_ ?_ rfl rfl rfl
  · show ((k.queue ++ [_]).map Entry.id).Nodup
    rw [List.map_append, List.nodup_append]
    refine ⟨hids, List.nodup_singleton _, fun a ha b hb => ?_⟩
    obtain ⟨e, he, rfl⟩ := List.mem_map.mp ha
    obtain rfl := List.mem_singleton.mp hb
    exact Nat.ne_of_lt (h.fresh e (hq e he))
  · intro e he
    rcases List.mem_append.mp he with he | he
    · exact Nat.lt_succ_of_lt (h.fresh e (hq e he))
    · obtain rfl := List.mem_singleton.mp he
      exact Nat.lt_succ_self _
  · intro e he hk
    rcases List.mem_append.mp he with he | he
    · exact h.kept e (hq e he) hk
    · obtain rfl := List.mem_singleton.mp he
      cases hk

/-- Entries changed in place, none of them its id. -/
theorem Link.modEntry_capacity {k : Link} (h : LinkCapacity k) (id : Nat) (f : Entry → Entry) (fid : ∀ e, (f e).id = e.id)
    (fk : ∀ e ∈ k.queue, e.id = id → (f e).kept.isSome = true → (f e).notice.isRenew = true) :
    LinkCapacity (k.modEntry id f) := by
  have hm : (k.modEntry id f).entries.map Entry.id = k.entries.map Entry.id := by
    show ((k.queue.map _) ++ k.overflow.toList).map Entry.id = (k.queue ++ k.overflow.toList).map Entry.id
    rw [List.map_append, List.map_append, List.map_map]
    congr 1
    refine List.map_congr_left fun e _ => ?_
    show Entry.id (if e.id = id then f e else e) = e.id
    split
    · exact fid e
    · rfl
  refine h.ofEntries ?_ (by rw [hm]; exact h.ids) (fun e he => ?_) (fun e he hk => ?_) rfl rfl rfl
  · show (k.queue.map _).length ≤ _
    rw [List.length_map]
    exact h.queue
  · have : e.id ∈ k.entries.map Entry.id := by rw [← hm]; exact List.mem_map_of_mem he
    obtain ⟨e', he', hi⟩ := List.mem_map.mp this
    rw [← hi]
    exact h.fresh e' he'
  · rcases List.mem_append.mp he with he | he
    · obtain ⟨e', he', rfl⟩ := List.mem_map.mp he
      by_cases hi : e'.id = id
      · simp only [hi, if_true] at hk ⊢
        exact fk e' he' hi hk
      · simp only [hi, if_false] at hk ⊢
        exact h.kept e' (List.mem_append_left _ he') hk
    · exact h.kept e (List.mem_append_right _ he) hk

theorem Link.takeOverflow_capacity {k : Link} (h : LinkCapacity k) : LinkCapacity k.takeOverflow := by
  unfold Link.takeOverflow
  split
  · rename_i e he
    split
    · rename_i room
      have hp : ({ k with queue := k.queue ++ [e], overflow := none } : Link).entries = k.entries := by
        show (k.queue ++ [e]) ++ [] = k.queue ++ k.overflow.toList
        rw [he]
        simp
      refine h.ofEntries ?_ (by rw [hp]; exact h.ids) (by rw [hp]; exact h.fresh) (by rw [hp]; exact h.kept) rfl rfl rfl
      show (k.queue ++ [e]).length ≤ _
      rw [List.length_append]
      exact room
    · exact h
  · exact h

theorem Link.choose_capacity {k : Link} (h : LinkCapacity k) : LinkCapacity k.choose := by
  unfold Link.choose
  split
  · split
    · exact h
    · exact h.ofContention _ (Nat.zero_le _) fun _ => Nat.lt_of_sub_eq_succ rfl
  · exact h

theorem Link.mergeRenew_capacity {k : Link} (h : LinkCapacity k) (e : Entry) (he : e ∈ k.queue)
    (hr : e.notice.isRenew = true) (n : Notice) (hn : n.isRenew = true) (cls : Class) : LinkCapacity (k.mergeRenew e n cls) := by
  unfold Link.mergeRenew
  split
  · refine Link.modEntry_capacity h _ _ (fun _ => rfl) fun x hx hi _ => ?_
    have hids : (k.queue.map Entry.id).Nodup :=
      ((List.sublist_append_left k.queue k.overflow.toList).map _).nodup h.ids
    have : x = e := List.inj_on_of_nodup_map hids hx he hi
    rw [this]
    exact hr
  · exact Link.modEntry_capacity h _ _ (fun _ => rfl) fun _ _ _ _ => hn

/-- The victim of an eviction is an entry of the queue. -/
theorem Link.victim_mem (k : Link) (cls : Class) (v : Entry) (h : k.victim cls = some v) : v ∈ k.queue := by
  have fold : ∀ (xs : List Entry) (b : Option Entry), (∀ x, b = some x → x ∈ k.queue) → (∀ x ∈ xs, x ∈ k.queue) →
      ∀ v, xs.foldl (fun (worst : Option Entry) e =>
        match worst with
        | none => some e
        | some w => if w.cls.rank ≤ e.cls.rank then some e else some w) b = some v → v ∈ k.queue := by
    intro xs
    induction xs with
    | nil => intro b hb _ v hv; exact hb v hv
    | cons x xs ih =>
      intro b hb hx v hv
      refine ih _ ?_ (fun y hy => hx y (List.mem_cons_of_mem _ hy)) v hv
      intro y hy
      cases b with
      | none =>
        obtain rfl := Option.some.inj hy
        exact hx x List.mem_cons_self
      | some w =>
        simp only at hy
        split at hy
        · obtain rfl := Option.some.inj hy
          exact hx x List.mem_cons_self
        · obtain rfl := Option.some.inj hy
          exact hb w rfl
  exact fold _ none (fun _ e => by cases e) (fun x hx => List.mem_of_mem_filter hx) v h

/-- The entry dropped for another makes room for it. -/
theorem Link.drop_room {k : Link} (v : Entry) (hv : v ∈ k.queue) (h : k.queue.length ≤ Config.queueSize) :
    (k.drop v.id).queue.length < Config.queueSize := by
  refine lt_of_lt_of_le ?_ h
  exact List.length_filter_lt_length_iff_exists.mpr ⟨v, hv, by simp⟩

/-- What an admission answers, and what it needs to be taken up. -/
theorem Link.room_cases (k : Link) (cls : Class) :
    (k.room cls = .admitted → k.queue.length < Config.queueSize) ∧ ∀ v, k.room cls = .evicting v → v ∈ k.queue := by
  have hlt : Config.thresholdSize ≤ Config.queueSize := by decide
  unfold Link.room
  constructor
  · intro h
    split at h
    · split at h
      · omega
      · cases h
    · split at h
      · assumption
      · split at h
        · cases h
        · split at h
          · split at h
            · cases h
            · split at h <;> cases h
          · cases h
  · intro v h
    split at h
    · split at h <;> cases h
    · split at h
      · cases h
      · split at h
        · cases h
          exact Link.victim_mem _ _ _ (by assumption)
        · split at h
          · split at h
            · cases h
            · split at h
              · rename_i w hw
                cases h
                exact List.mem_of_mem_filter (List.mem_of_getLast? hw)
              · cases h
          · cases h

theorem Link.admission_cases (k : Link) (cls : Class) :
    (k.admission cls = .admitted → k.queue.length < Config.queueSize) ∧ ∀ v, k.admission cls = .evicting v → v ∈ k.queue := by
  have h := Link.room_cases k cls
  have refused : ∀ a : Admission, a = .refused →
      (a = .admitted → k.queue.length < Config.queueSize) ∧ ∀ v, a = .evicting v → v ∈ k.queue := by
    rintro _ rfl
    exact ⟨fun e => Admission.noConfusion e, fun _ e => Admission.noConfusion e⟩
  unfold Link.admission
  split
  · exact refused _ rfl
  · split
    · exact h
    · exact refused _ rfl
  · exact h
  · exact h

/-! ### With the owners -/

theorem State.modLink_keeps {a s : State} (h : Keeps a s) (f : Link → Link) (st : (f s.link).station = s.link.station)
    (c : LinkCapacity s.link → LinkCapacity (f s.link)) : Keeps a (s.modLink f) := h.ofLink _ st c

theorem State.setOwed_keeps {a s : State} (h : Keeps a s) (l : LaneIx) (b : Bool) : Keeps a (s.setOwed l b) :=
  State.modLink_keeps h _ rfl fun c => ⟨c.queue, c.ids, c.fresh, c.kept, c.aborts, c.receiveErrors, c.collisions, c.jam⟩

theorem State.takeOwed_keeps {a s : State} (h : Keeps a s) (l : LaneIx) : Keeps a (s.takeOwed l) := by
  unfold State.takeOwed
  split
  · rename_i hr
    simp only [Bool.and_eq_true, decide_eq_true_eq] at hr
    split
    · exact State.setOwed_keeps h _ _
    · exact State.setOwed_keeps (State.modLink_keeps h _ rfl fun c => Link.admit_capacity c _ _ _ _ hr.2) _ _
  · exact h

theorem State.placeFreed_keeps {a s : State} (h : Keeps a s) : Keeps a s.placeFreed := by
  unfold State.placeFreed
  refine (State.modLink_keeps h _ ?_ Link.takeOverflow_capacity).trans
    (foldl_keeps _ (fun s l => State.takeOwed_keeps (Keeps.refl s) l) _ _)
  unfold Link.takeOverflow
  split
  · split <;> rfl
  · rfl

theorem State.removeEntry_keeps {a s : State} (h : Keeps a s) (id : Nat) : Keeps a (s.removeEntry id) := by
  unfold State.removeEntry
  split
  · exact State.modLink_keeps h _ rfl fun c =>
      Link.modEntry_capacity c _ _ (fun _ => rfl) fun _ _ _ hk => by cases hk
  · split
    · refine State.placeFreed_keeps (State.modLink_keeps h _ ?_ fun c => ?_)
      · split <;> rfl
      · split
        · exact Link.idle_capacity (Link.drop_capacity c _)
        · exact Link.drop_capacity c _
    · exact h

theorem State.claimFails_keeps {a s : State} (h : Keeps a s) (l : LaneIx) (c : Code) : Keeps a (s.claimFails l c) := by
  unfold State.claimFails
  split
  · exact State.endPick_keeps (State.clearClaim_keeps (State.freeClaim_keeps h _) _) _ _
  · exact h

theorem State.endCensus_keeps {a s : State} (h : Keeps a s) (code : Nat) : Keeps a (s.endCensus code) := by
  unfold State.endCensus
  split
  · exact h
  · have hm := State.modScreening_keeps h code
      (fun y => { y with phase := .idle, censusTimer := none, sync := .ready, request := none })
      fun x => ⟨rfl, rfl, rfl, rfl, rfl, rfl, rfl, rfl, (ScreeningKept.refl x).seats⟩
    simp only
    split
    · split
      · exact State.complete_keeps hm _ _
      · exact hm
    · exact hm

theorem State.owe_keeps {a s : State} (h : Keeps a s) (l : Option LaneIx) : Keeps a (s.owe l) := by
  unfold State.owe
  split
  · split
    · exact State.setOwed_keeps h _ _
    · exact h
  · exact h

theorem State.noticeLost_keeps {a s : State} (h : Keeps a s) (n : Notice) (l : Option LaneIx) (tag : Option Nat) :
    Keeps a (s.noticeLost n l tag) := by
  unfold State.noticeLost
  split
  · split
    · exact State.claimFails_keeps h _ _
    · exact h
  · exact State.endCensus_keeps h _
  · exact State.owe_keeps h _
  · exact State.raise_keeps h _
  all_goals exact h

theorem State.offer_keeps {a s : State} (h : Keeps a s) (n : Notice) (cls : Class) (l : Option LaneIx) (tag : Option Nat) :
    Keeps a (s.offer n cls l tag) := by
  have hc := Link.admission_cases s.link cls
  unfold State.offer
  split
  · rename_i e
    exact State.modLink_keeps h _ rfl fun c => Link.admit_capacity c _ _ _ _ (hc.1 e)
  · rename_i v e
    refine State.noticeLost_keeps (State.modLink_keeps h _ rfl fun c => ?_) _ _ _
    exact Link.admit_capacity (Link.drop_capacity c _) _ _ _ _ (Link.drop_room v (hc.2 v e) c.queue)
  · exact State.modLink_keeps h _ rfl fun c => Link.overflow_capacity c _ _ _ _
  · exact State.noticeLost_keeps h _ _ _

theorem State.offerRenew_keeps {a s : State} (h : Keeps a s) (l : LaneIx) (cls : Class) : Keeps a (s.offerRenew l cls) := by
  unfold State.offerRenew
  simp only
  split
  · rename_i e he
    split
    · exact State.removeEntry_keeps h _
    · have hr := List.find?_some he
      simp only [Bool.and_eq_true] at hr
      refine State.setOwed_keeps (State.modLink_keeps h _ ?_ fun c => ?_) _ _
      · unfold Link.mergeRenew
        split <;> rfl
      · exact Link.mergeRenew_capacity c _ (List.mem_of_find?_eq_some he) hr.1.1 _ rfl _
  · split
    · exact h
    · exact State.offer_keeps (State.setOwed_keeps h _ _) _ _ _ _

theorem State.renewalShrunk_keeps {a s : State} (h : Keeps a s) (l : LaneIx) : Keeps a (s.renewalShrunk l) := by
  unfold State.renewalShrunk
  split
  · exact State.setOwed_keeps (State.offerRenew_keeps (State.modLane_keeps h _ _) _ _) _ _
  · split
    · exact State.offerRenew_keeps h _ _
    · exact h

theorem State.offerRelease_keeps {a s : State} (h : Keeps a s) (l : LaneIx) (tag : Option Nat) (code : Nat)
    (seats : List SeatRef) : Keeps a (s.offerRelease l tag code seats) := by
  unfold State.offerRelease
  split
  · exact h
  · exact State.offer_keeps h _ _ _ _

end Sys2Proof.Machine
end

