-- ==== Sys2Proof/Laws/KeepsOrders.lean ====
section
/-! SUPPORT. That the shared operations of claims, vouchers, orders, payment and printing, and the close of a step, keep all
that Keeps says. -/

namespace Sys2Proof.Machine

/-! ### Claims and holds -/

theorem State.giveUpClaim_keeps {a s : State} (h : Keeps a s) (l : LaneIx) : Keeps a (s.giveUpClaim l) := by
  unfold State.giveUpClaim
  split
  · split
    · split
      · exact State.removeEntry_keeps (State.modLane_keeps h _ _) _
      · exact State.removeEntry_keeps (State.clearClaim_keeps (State.freeClaim_keeps h _) _) _
    · exact State.clearClaim_keeps (State.freeClaim_keeps h _) _
  · exact State.clearClaim_keeps (State.freeClaim_keeps h _) _
  all_goals exact h

theorem State.giveUpQueued_keeps {a s : State} (h : Keeps a s) (l : LaneIx) : Keeps a (s.giveUpQueued l) := by
  unfold State.giveUpQueued
  split
  · exact State.giveUpClaim_keeps h _
  · exact h

theorem State.release_keeps {a s : State} (h : Keeps a s) (l : LaneIx) (seats : List SeatRef) (w : Bool) :
    Keeps a (s.release l seats w) := by
  unfold State.release
  simp only
  refine State.renewalShrunk_keeps (State.offerRelease_keeps ?_ _ _ _ _) _
  have hf := State.mapSeats_keeps h (s.lane l).seatCode (seats.filter (s.seatHeld (s.lane l).seatCode l))
    (fun st => if st.heldBy l then .free else st) (SeatKept.ofHeld l _ (by decide))
  split
  · exact State.giveUpClaim_keeps hf _
  · exact hf

theorem State.returnToEmpty_keeps {a s : State} (h : Keeps a s) (l : LaneIx) : Keeps a (s.returnToEmpty l) := by
  have hs := State.renewalShrunk_keeps
    (State.modLane_keeps h l fun x => { x with sale := none, order := { x.order with seatLines := [] } }) l
  unfold State.returnToEmpty
  refine State.linesLeave_keeps hs l _ _ fun _ => ?_
  exact Nat.add_zero _

theorem State.yieldClaim_keeps {a s : State} (h : Keeps a s) (l : LaneIx) (named : List SeatRef) (d : SeatState)
    (hd : d ≠ .blocked) : Keeps a (s.yieldClaim l named d) :=
  State.freeClaim_keeps (State.mapSeats_keeps h _ _ _ (SeatKept.ofClaimed l d hd)) _

theorem State.claimLoses_keeps {a s : State} (h : Keeps a s) (l : LaneIx) (named : List SeatRef) (d : SeatState)
    (hd : d ≠ .blocked) : Keeps a (s.claimLoses l named d) := by
  unfold State.claimLoses
  simp only
  have hy := State.clearClaim_keeps (State.yieldClaim_keeps h l named d hd) l
  refine State.endPick_keeps ?_ _ _
  split
  · exact State.removeEntry_keeps hy _
  · exact hy

theorem State.claimWithdrawn_keeps {a s : State} (h : Keeps a s) (l : LaneIx) (named : List SeatRef) (d : SeatState)
    (hd : d ≠ .blocked) : Keeps a (s.claimWithdrawn l named d) :=
  State.endPick_keeps
    (State.offerRelease_keeps (State.clearClaim_keeps (State.yieldClaim_keeps h l named d hd) l) _ _ _ _) _ _

theorem State.loseLines_keeps {a s : State} (h : Keeps a s) (l : LaneIx) (lost : List SeatRef) :
    Keeps a (s.loseLines l lost) := by
  unfold State.loseLines
  split
  iterate 2 exact State.renewalShrunk_keeps (State.linesChanged_keeps (State.modOrder_keeps h _ _) _) _
  iterate 3 exact State.renewalShrunk_keeps (State.modOrder_keeps h _ _) _
  all_goals exact h

theorem State.seatsTaken_keeps {a s : State} (h : Keeps a s) (l : LaneIx) (code : Nat) (seats : List SeatRef) (d : SeatState)
    (hd : d ≠ .blocked) (q : ReportQual) : Keeps a (s.seatsTaken l code seats d q) :=
  State.loseLines_keeps (State.raise_keeps (State.mapSeats_keeps h _ _ _ (SeatKept.ofHeld l d hd)) _) _ _

theorem State.confirmClaim_keeps {a s : State} (h : Keeps a s) (l : LaneIx) : Keeps a (s.confirmClaim l) := by
  unfold State.confirmClaim
  simp only
  refine State.endPick_keeps ?_ _ _
  have hm := fun f g vf vg => State.modLane_keeps (State.linesChanged_keeps (State.modOrder_keeps (State.mapSeats_keeps h
    (s.lane l).claim.code (s.lane l).claim.seatRefs (fun st => if st.claimedBy l then .held l else st)
    (SeatKept.ofClaimed l _ (by decide +revert))) l f vf) l) l g vg
  split
  · refine State.modLane_keeps (hm _ _ ?_ ?_) _ _ <;> exact fun _ => rfl
  · split
    · refine State.offerRenew_keeps (hm _ _ ?_ ?_) _ _ <;> exact fun _ => rfl
    · refine hm _ _ ?_ ?_ <;> exact fun _ => rfl

theorem State.takePick_keeps {a s : State} (h : Keeps a s) (l : LaneIx) (code : Nat) (entries : List ClaimSeat) :
    Keeps a (s.takePick l code entries) := by
  have hf : ∀ st, SeatKept st (if st = SeatState.free then SeatState.claiming l else st) := by
    refine SeatKept.ofMove (fun st => if st = .free then .claiming l else st) rfl (fun _ => rfl) fun st hst => ?_
    split
    · exact fun e => SeatState.noConfusion e
    · exact hst
  unfold State.takePick
  exact State.offer_keeps
    (State.setPhase_keeps (State.mapSeats_keeps (State.modLane_keeps h l _) code (entries.map ClaimSeat.seat) _ hf) _ _) _ _ _ _

theorem State.runPick_keeps {a s : State} (h : Keeps a s) (l : LaneIx) (code : Nat) (entries : List ClaimSeat) :
    Keeps a (s.runPick l code entries) := by
  unfold State.runPick
  split
  · exact State.setPhase_keeps h _ _
  · split
    · exact State.endWord_keeps h _ _
    · exact State.takePick_keeps h _ _ _

theorem State.endWithdrawal_keeps {a s : State} (h : Keeps a s) (l : LaneIx) (t : Bool) : Keeps a (s.endWithdrawal l t) := by
  unfold State.endWithdrawal
  simp only
  have hc := State.clearClaim_keeps (State.freeClaim_keeps h l) l
  have hr : Keeps a (if t = true then
      ((s.freeClaim l).clearClaim l).offerRelease l (s.lane l).claim.tag (s.lane l).claim.code (s.lane l).claim.seatRefs
      else (s.freeClaim l).clearClaim l) := by
    split
    · exact State.offerRelease_keeps hc _ _ _ _
    · exact hc
  split
  · exact State.runPick_keeps hr _ _ _
  · exact hr

theorem State.holdTransmitted_keeps {a s : State} (h : Keeps a s) (l : LaneIx) (i : Nat) :
    Keeps a (s.holdTransmitted l i) := by
  unfold State.holdTransmitted
  split
  · exact State.modLane_keeps h _ _
  · exact State.endWithdrawal_keeps h _ _
  all_goals exact h

theorem State.holdRemoved_keeps {a s : State} (h : Keeps a s) (l : LaneIx) : Keeps a (s.holdRemoved l) := by
  unfold State.holdRemoved
  split
  · exact State.endWithdrawal_keeps h _ _
  · exact h

/-! ### Vouchers -/

/-- A serial drawn leaves the counter at a serial that may be drawn. -/
theorem nextSerial_range (last n : Nat) (hl : 1 ≤ last) : 1 ≤ nextSerial last n ∧ nextSerial last n ≤ last := by
  unfold nextSerial
  split <;> omega

theorem State.drawVoucher_keeps {a s : State} (h : Keeps a s) : Keeps a s.drawVoucher.2 :=
  h.ofVouchers _ id (fun _ => nextSerial_range _ _ (by decide)) (VoucherCounts.ofLines rfl fun _ _ => rfl)

theorem evictRecord_length (clock : Nat) (t t' : List VoucherRecord) (h : evictRecord clock t = some t') :
    t'.length + 1 = t.length := by
  have erase : ∀ i, i < t.length → (t.eraseIdx i).length + 1 = t.length := fun i hi => by
    rw [List.length_eraseIdx_of_lt hi]
    omega
  unfold evictRecord at h
  split at h
  · rename_i i hi
    obtain rfl := Option.some.inj h
    exact erase i (List.findIdx?_eq_some_iff_getElem.mp hi).1
  · split at h
    · rename_i i hi
      obtain rfl := Option.some.inj h
      exact erase i (List.findIdx?_eq_some_iff_getElem.mp hi).1
    · cases h

theorem State.enterRecord_keeps {a s : State} (h : Keeps a s) (l : LaneIx) (r : VoucherRecord) :
    Keeps a (s.enterRecord l r) := by
  unfold State.enterRecord
  split
  · rename_i room
    refine h.ofVouchers _ (fun _ => ?_) id (VoucherCounts.ofLines rfl fun _ _ => rfl)
    show (s.vouchers.table ++ [r]).length ≤ _
    rw [List.length_append]
    exact room
  · split
    · rename_i t ht
      refine h.ofVouchers _ (fun c => ?_) id (VoucherCounts.ofLines rfl fun _ _ => rfl)
      show (t ++ [r]).length ≤ _
      rw [List.length_append, List.length_singleton, evictRecord_length _ _ _ ht]
      exact c
    · exact State.raise_keeps h _

/-- What the issue of lines changes, the catalog's counts aside. -/
structure IssueKept (s t : State) : Prop where
  rest : t = { s with vouchers := t.vouchers, io := t.io }
  host : s.io.host.wf = true → t.io.host.wf = true
  ring : RingCapacity s.io.ring → RingCapacity t.io.ring
  table : s.vouchers.table.length ≤ Config.voucherTableSize → t.vouchers.table.length ≤ Config.voucherTableSize
  serial : 1 ≤ s.vouchers.serial ∧ s.vouchers.serial ≤ Config.lastVoucherSerial →
    1 ≤ t.vouchers.serial ∧ t.vouchers.serial ≤ Config.lastVoucherSerial

theorem IssueKept.trans {s t u : State} (h : IssueKept s t) (k : IssueKept t u) : IssueKept s u :=
  ⟨by rw [k.rest, h.rest], fun w => k.host (h.host w), fun c => k.ring (h.ring c), fun c => k.table (h.table c),
    fun c => k.serial (h.serial c)⟩

theorem State.enterRecord_issue (s : State) (l : LaneIx) (r : VoucherRecord) : IssueKept s (s.enterRecord l r) := by
  have k := State.enterRecord_keeps (Keeps.refl s) l r
  refine ⟨?_, k.host, k.ring, k.table, k.vserial⟩
  unfold State.enterRecord
  split
  · rfl
  · split <;> rfl

theorem State.issueLine_issue (s : State) (l : LaneIx) (v : VoucherLine) : IssueKept s (s.issueLine l v).2 := by
  have d : IssueKept s (s.drawVoucher.2.modItem v.item fun i =>
      { i with reserved := i.reserved - 1, issued := i.issued + 1 }) :=
    ⟨rfl, id, id, id, fun _ => nextSerial_range _ _ (by decide)⟩
  exact d.trans (State.enterRecord_issue _ _ _)

theorem State.issueLines_issue (s : State) (l : LaneIx) (vs : List VoucherLine) : IssueKept s (s.issueLines l vs).2 := by
  induction vs generalizing s with
  | nil => exact ⟨rfl, id, id, id, id⟩
  | cons v vs ih =>
    have k : IssueKept s (if v.code.isNone then s.issueLine l v else (v, s)).2 := by
      split
      · exact State.issueLine_issue s l v
      · exact ⟨rfl, id, id, id, id⟩
    exact k.trans (ih _)

theorem State.issueVouchers_keeps {a s : State} (h : Keeps a s) (l : LaneIx) : Keeps a (s.issueVouchers l) := by
  have k := State.issueLines_issue s l (s.lane l).order.voucherLines
  have c := fun q : VoucherCounts s => q.issue l
  refine h.trans ?_
  unfold State.issueVouchers at c ⊢
  revert k c
  generalize s.issueLines l (s.lane l).order.voucherLines = x
  obtain ⟨lines, t⟩ := x
  intro k c
  have r := k.rest
  simp only at r c k ⊢
  refine ⟨?_, ?_, ?_, ?_, ?_, ?_, ?_, ?_, k.host, ?_, ?_, k.ring, k.table, k.serial, ?_, c⟩
  all_goals rw [r]
  · rfl
  · rfl
  · rfl
  · rfl
  · rfl
  · rfl
  · exact id
  · rfl
  · exact List.forall₂_same.mpr fun _ _ => SlotSame.refl _
  · exact id
  · exact id

theorem State.modRecordAt_keeps {a s : State} (h : Keeps a s) (i : Nat) (f : VoucherRecord → VoucherRecord) :
    Keeps a (s.modRecordAt i f) := by
  refine h.ofVouchers _ (fun c => ?_) id (VoucherCounts.ofLines rfl fun _ _ => rfl)
  show (s.vouchers.table.modify i f).length ≤ _
  rw [List.length_modify]
  exact c

theorem State.modRecord_keeps {a s : State} (h : Keeps a s) (c : VCode) (f : VoucherRecord → VoucherRecord) :
    Keeps a (s.modRecord c f) := by
  unfold State.modRecord
  split
  · exact State.modRecordAt_keeps h _ _
  · exact h

theorem State.modRecord_lane (s : State) (c : VCode) (f : VoucherRecord → VoucherRecord) (l : LaneIx) :
    (s.modRecord c f).lane l = s.lane l := by
  unfold State.modRecord
  split <;> rfl

theorem State.reissue_keeps {a s : State} (h : Keeps a s) (l : LaneIx) (line : Nat) : Keeps a (s.reissue l line) := by
  unfold State.reissue
  split
  · exact h
  · rename_i v c e
    simp only
    have k := State.drawVoucher_keeps (State.modRecord_keeps h c fun r => { r with status := .void })
    refine State.enterRecord_keeps (k.ofLane _ _ fun item => ?_) _ _
    obtain ⟨w, hw, hc⟩ := Option.bind_eq_some_iff.mp e
    obtain ⟨d, hd, _⟩ := Option.map_eq_some_iff.mp hc
    refine unissuedOf_modify _ line _ w ?_ (by simp [hd]) (by simp) item
    rw [← hw]
    exact congrArg (fun x : Lane => x.order.voucherLines[line]?) (State.modRecord_lane _ _ _ _)

theorem State.verify_keeps {a s : State} (h : Keeps a s) (c : VCode) : Keeps a (s.verify c) := State.offer_keeps h _ _ _ _

theorem State.redeem_keeps {a s : State} (h : Keeps a s) (n : Nat) (c : VCode) : Keeps a (s.redeem n c) := by
  unfold State.redeem
  split
  · exact State.offer_keeps h _ _ _ _
  · split
    · exact State.offer_keeps (State.raise_keeps (State.modRecord_keeps h _ _) _) _ _ _ _
    · split <;> exact State.offer_keeps h _ _ _ _

/-! ### Orders and payment -/

theorem State.sendTerminal_keeps {a s : State} (h : Keeps a s) (l : LaneIx) (k : ExchangeKind) (i : TenderIx) (n : Nat) :
    Keeps a (s.sendTerminal l k i n) := State.modTerm_keeps h _ _

theorem State.sendVoid_keeps {a s : State} (h : Keeps a s) (l : LaneIx) : Keeps a (s.sendVoid l) := by
  unfold State.sendVoid
  split
  · split
    · exact State.sendTerminal_keeps h _ _ _ _
    · exact h
  · exact h

theorem State.unwind_keeps {a s : State} (h : Keeps a s) (l : LaneIx) (c : UnwindCause) : Keeps a (s.unwind l c) :=
  State.sendVoid_keeps (State.modTerm_keeps (State.modOrder_keeps h _ _) _ _) _

theorem State.finishCancel_keeps {a s : State} (h : Keeps a s) (l : LaneIx) : Keeps a (s.finishCancel l) :=
  State.endCancelWait_keeps (State.returnToEmpty_keeps
    (State.modTerm_keeps (State.release_keeps h _ _ _) _ _) _) _ _

theorem State.cancelOrder_keeps {a s : State} (h : Keeps a s) (l : LaneIx) : Keeps a (s.cancelOrder l) := by
  unfold State.cancelOrder
  split
  · exact State.release_keeps h _ _ _
  iterate 2 exact State.finishCancel_keeps h _
  · simp only
    split
    · exact State.sendVoid_keeps (State.modOrder_keeps h _ _) _
    · exact State.finishCancel_keeps (State.modOrder_keeps h _ _) _
  · exact State.modOrder_keeps h _ _
  · exact State.sendVoid_keeps (State.modOrder_keeps h _ _) _
  all_goals exact h

theorem State.cancelRefusingPick_keeps {a s : State} (h : Keeps a s) (l : LaneIx) (k : Claim) (c : Code) :
    Keeps a (s.cancelRefusingPick l k c) := by
  unfold State.cancelRefusingPick
  simp only
  split
  · exact State.endPick_keeps (State.cancelOrder_keeps h _) _ _
  · exact State.cancelOrder_keeps h _

theorem State.applyHeldLapse_keeps {a s : State} (h : Keeps a s) (l : LaneIx) : Keeps a (s.applyHeldLapse l) := by
  unfold State.applyHeldLapse
  split
  · split
    iterate 3 exact State.cancelOrder_keeps (State.raise_keeps (State.modOrder_keeps h _ _) _) _
    iterate 3 exact h
    all_goals exact State.modOrder_keeps h _ _
  · exact h

theorem State.drainEntry_keeps {a s : State} (h : Keeps a s) (l : LaneIx) : Keeps a (s.drainEntry l) := by
  unfold State.drainEntry
  split
  · exact h
  · split
    iterate 3 exact State.cancelOrder_keeps h _
    all_goals exact h

theorem State.afterStep_keeps {a s : State} (h : Keeps a s) (l : LaneIx) : Keeps a (s.afterStep l) :=
  State.drainEntry_keeps (State.applyHeldLapse_keeps h _) _

theorem State.lapse_keeps {a s : State} (h : Keeps a s) (l : LaneIx) : Keeps a (s.lapse l) := by
  unfold State.lapse
  simp only
  have hs := State.modLane_keeps h l fun x => { x with attendance := none }
  split
  iterate 3 exact State.cancelRefusingPick_keeps (State.raise_keeps hs _) _ _ _
  iterate 3 exact State.raise_keeps (State.modOrder_keeps hs _ _) _
  iterate 3 exact State.raise_keeps hs _
  · exact State.returnToEmpty_keeps (State.raise_keeps hs _) _
  · exact hs

theorem State.openRefused_keeps {a s : State} (h : Keeps a s) (l : LaneIx) (c : Code) (n : Nat) (lost : List SeatRef) :
    Keeps a (s.openRefused l c n lost) := State.afterStep_keeps (State.endPay_keeps (State.modOrder_keeps h _ _) _ _) _

theorem State.settleTo_keeps {a s : State} (h : Keeps a s) (l : LaneIx) (t : OrderState) (c : Code) :
    Keeps a (s.settleTo l t c) := by
  unfold State.settleTo
  simp only
  split
  · exact State.afterStep_keeps (State.endPay_keeps (State.modOrder_keeps h _ _) _ _) _
  · split
    · exact State.unwind_keeps h _ _
    · exact State.openRefused_keeps h _ _ _ _

theorem State.sendCapture_keeps {a s : State} (h : Keeps a s) (l : LaneIx) : Keeps a (s.sendCapture l) := by
  unfold State.sendCapture
  split
  · exact State.sendTerminal_keeps (State.modOrder_keeps h _ _) _ _ _ _
  · exact h

theorem State.offerSale_keeps {a s : State} (h : Keeps a s) (l : LaneIx) : Keeps a (s.offerSale l) := by
  unfold State.offerSale
  simp only
  split
  · exact h
  · exact State.offer_keeps (State.modLane_keeps h _ _) _ _ _ _

theorem State.sellOrder_keeps {a s : State} (h : Keeps a s) (l : LaneIx) : Keeps a (s.sellOrder l) := by
  have hd : SeatState.sold s.cfg.station ≠ .blocked := fun e => SeatState.noConfusion e
  unfold State.sellOrder
  exact State.modOrder_keeps (State.endPay_keeps (State.issueVouchers_keeps (State.offerSale_keeps
    (State.mapSeats_keeps (State.modOrder_keeps h _ _) _ _ _ (SeatKept.ofHeld l _ hd)) _) _) _ _) _ _

theorem State.commit_keeps {a s : State} (h : Keeps a s) (l : LaneIx) : Keeps a (s.commit l) := by
  unfold State.commit
  simp only
  split
  · split
    · exact State.sendCapture_keeps (State.modOrder_keeps h _ _) _
    · exact State.sellOrder_keeps h _
  · split
    · exact State.unwind_keeps h _ _
    · exact State.openRefused_keeps h _ _ _ _

theorem State.captureFailed_keeps {a s : State} (h : Keeps a s) (l : LaneIx) (i : TenderIx) :
    Keeps a (s.captureFailed l i) := State.unwind_keeps (State.modOrder_keeps h _ _) _ _

theorem State.captured_keeps {a s : State} (h : Keeps a s) (l : LaneIx) (i : TenderIx) : Keeps a (s.captured l i) := by
  unfold State.captured
  simp only
  split
  · exact State.sendCapture_keeps (State.modOrder_keeps h _ _) _
  · exact State.sellOrder_keeps (State.modOrder_keeps h _ _) _

theorem State.becomeUnresolved_keeps {a s : State} (h : Keeps a s) (l : LaneIx) : Keeps a (s.becomeUnresolved l) :=
  State.endCancelWait_keeps
    (State.endPay_keeps (State.raise_keeps (State.modTerm_keeps (State.modOrder_keeps h _ _) _ _) _) _ _) _ _

theorem State.unwindingEnd_keeps {a s : State} (h : Keeps a s) (l : LaneIx) : Keeps a (s.unwindingEnd l) := by
  unfold State.unwindingEnd
  simp only
  have ht := State.modTerm_keeps h l fun t => { t with cause := none }
  split
  · exact State.becomeUnresolved_keeps ht _
  · split
    · exact State.finishCancel_keeps ht _
    · split
      · exact State.settleTo_keeps ht _ _ _
      · exact State.settleTo_keeps ht _ _ _
      · exact State.settleTo_keeps ht _ _ _
      · exact State.openRefused_keeps ht _ _ _ _
      · exact State.endPay_keeps (State.returnToEmpty_keeps (State.release_keeps ht _ _ _) _) _ _
      · exact State.finishCancel_keeps ht _

theorem State.advanceUnwinding_keeps {a s : State} (h : Keeps a s) (l : LaneIx) : Keeps a (s.advanceUnwinding l) := by
  unfold State.advanceUnwinding
  split
  · exact State.sendVoid_keeps h _
  · exact State.unwindingEnd_keeps h _

theorem State.voided_keeps {a s : State} (h : Keeps a s) (l : LaneIx) (i : TenderIx) : Keeps a (s.voided l i) :=
  State.advanceUnwinding_keeps (State.modOrder_keeps h _ _) _

theorem State.voidFailed_keeps {a s : State} (h : Keeps a s) (l : LaneIx) (i : TenderIx) : Keeps a (s.voidFailed l i) :=
  State.advanceUnwinding_keeps (State.modOrder_keeps h _ _) _

theorem State.endUnresolved_keeps {a s : State} (h : Keeps a s) (l : LaneIx) (q : ReportQual) :
    Keeps a (s.endUnresolved l q) :=
  State.returnToEmpty_keeps (State.modTerm_keeps (State.raise_keeps (State.release_keeps h _ _ _) _) _ _) _

theorem State.cancelAfterAuth_keeps {a s : State} (h : Keeps a s) (l : LaneIx) : Keeps a (s.cancelAfterAuth l) := by
  unfold State.cancelAfterAuth
  simp only
  split
  · exact State.sendVoid_keeps (State.modOrder_keeps (State.modOrder_keeps h _ _) _ _) _
  · exact State.finishCancel_keeps (State.modOrder_keeps h _ _) _

theorem State.authEnded_keeps {a s : State} (h : Keeps a s) (l : LaneIx) (i : TenderIx) (e : AuthEnd) :
    Keeps a (s.authEnded l i e) := by
  unfold State.authEnded
  simp only
  have ho := State.modOrder_keeps h l fun o => o.modTender i (Tender.authEnd e)
  split
  · exact State.cancelAfterAuth_keeps ho _
  · split
    · split
      · exact State.commit_keeps ho _
      · split
        · exact State.unwind_keeps ho _ _
        · exact State.settleTo_keeps ho _ _ _
    · exact State.settleTo_keeps ho _ _ _
    · exact State.sendVoid_keeps (State.modTerm_keeps (State.modOrder_keeps ho _ _) _ _) _

theorem State.endExchange_keeps {a s : State} (h : Keeps a s) (l : LaneIx) : Keeps a (s.endExchange l) :=
  State.modTerm_keeps h _ _

theorem State.terminalMessage_keeps {a s : State} (h : Keeps a s) (l : LaneIx) (m : TerminalRx) :
    Keeps a (s.terminalMessage l m) := by
  have he := State.endExchange_keeps h l
  unfold State.terminalMessage
  split
  · exact h
  · split
    · split
      · exact State.authEnded_keeps he _ _ _
      · exact State.captured_keeps he _ _
      · exact State.captureFailed_keeps he _ _
      · exact State.voided_keeps he _ _
      · exact State.voidFailed_keeps he _ _
      all_goals exact h
    · exact h

theorem State.sendAuth_keeps {a s : State} (h : Keeps a s) (l : LaneIx) (c : Option Nat) : Keeps a (s.sendAuth l c) :=
  State.sendTerminal_keeps (State.modOrder_keeps h _ _) _ _ _ _

theorem State.runPay_keeps {a s : State} (h : Keeps a s) (l : LaneIx) (c : Option Nat) : Keeps a (s.runPay l c) := by
  unfold State.runPay
  simp only
  split
  · exact State.endWord_keeps h _ _
  · split
    · exact State.commit_keeps (State.setPhase_keeps h _ _) _
    · exact State.sendAuth_keeps (State.setPhase_keeps h _ _) _ _

theorem State.latchDrain_keeps {a s : State} (h : Keeps a s) : Keeps a s.latchDrain := by
  unfold State.latchDrain
  exact ((h.ofDrain _ fun _ e => DrainPhase.noConfusion e).trans
    (foldl_keeps _ (fun s l => State.giveUpQueued_keeps (Keeps.refl s) l) _ _)).trans
      (foldl_keeps _ (fun s l => State.cancelRefusingPick_keeps (Keeps.refl s) l _ _) _ _)

/-! ### Printing -/

theorem State.drawTicket_keeps {a s : State} (h : Keeps a s) (l : LaneIx) (k : Nat) (i : Item) :
    Keeps a (s.drawTicket l k i).2 := by
  unfold State.drawTicket
  split
  · exact State.modPrintItem_keeps (h.ofPrinting _ fun _ => nextSerial_range _ _ (by decide)) _ _ _
  · exact h

theorem State.sendItem_keeps {a s : State} (h : Keeps a s) (p : PortIx) (l : LaneIx) : Keeps a (s.sendItem p l) := by
  unfold State.sendItem
  split
  · exact h
  · split
    · exact h
    · split
      · exact h
      · exact State.modPrinter_keeps (State.modPrintItem_keeps (State.drawTicket_keeps h _ _ _) _ _ _) _ _

theorem State.giveJob_keeps {a s : State} (h : Keeps a s) (p : PortIx) (j : Job) : Keeps a (s.giveJob p j) :=
  State.sendItem_keeps (State.modPrinter_keeps (State.modJob_keeps h _ _) _ _) _ _

theorem State.assignAt_keeps (n : Nat) {a s : State} (h : Keeps a s) : Keeps a (s.assignAt n) := by
  induction n generalizing s with
  | zero => exact h
  | succ n ih =>
    unfold State.assignAt
    split
    · exact ih (State.giveJob_keeps h _ _)
    · exact h

theorem State.assign_keeps {a s : State} (h : Keeps a s) : Keeps a s.assign := State.assignAt_keeps 2 h

theorem State.buildJob_keeps {a s : State} (h : Keeps a s) (l : LaneIx) : Keeps a (s.buildJob l) :=
  State.assign_keeps (State.modJobs_keeps (State.modOrder_keeps h _ _) _)

theorem State.endJob_keeps {a s : State} (h : Keeps a s) (p : PortIx) (j : Job) : Keeps a (s.endJob p j) :=
  State.assign_keeps (State.endPrint_keeps (State.restartAttendance_keeps
    (State.modOrder_keeps (State.modPrinter_keeps (State.removeJob_keeps h _) _ _) _ _) _) _ _)

theorem State.returnJob_keeps {a s : State} (h : Keeps a s) (p : PortIx) (l : LaneIx) : Keeps a (s.returnJob p l) :=
  State.assign_keeps (State.modJob_keeps (State.modPrinter_keeps h _ _) _ _)

theorem State.failJob_keeps {a s : State} (h : Keeps a s) (p : PortIx) (j : Job) (k : Nat) (kind : ItemKind) :
    Keeps a (s.failJob p j k kind) :=
  State.endPrint_keeps (State.raise_keeps
    (State.modOrder_keeps (State.removeJob_keeps (State.modPrinter_keeps h _ _) _) _ _) _) _ _

theorem State.spoilItem_keeps {a s : State} (h : Keeps a s) (l : LaneIx) (k : Nat) : Keeps a (s.spoilItem l k) := by
  unfold State.spoilItem
  simp only
  have hm := State.modPrintItem_keeps h l k fun i => { i with state := .spoiled, spoils := i.spoils + 1, serial := none }
  split
  · split
    · exact State.reissue_keeps hm _ _
    · exact hm
  · exact hm

theorem State.afterSpoil_keeps {a s : State} (h : Keeps a s) (p : PortIx) (l : LaneIx) (k : Nat) :
    Keeps a (s.afterSpoil p l k) := by
  unfold State.afterSpoil
  split
  · exact h
  · split
    · exact h
    · split
      · exact State.failJob_keeps h _ _ _ _
      · exact State.returnJob_keeps h _ _

theorem State.sendProbe_keeps {a s : State} (h : Keeps a s) (p : PortIx) : Keeps a (s.sendProbe p) := by
  unfold State.sendProbe
  simp only
  split
  · exact State.modPrinter_keeps h _ _
  · exact h

theorem State.spoilOn_keeps {a s : State} (h : Keeps a s) (p : PortIx) : Keeps a (s.spoilOn p) := by
  unfold State.spoilOn
  split
  · exact State.afterSpoil_keeps (State.spoilItem_keeps h _ _) _ _ _
  · exact h

theorem State.faultPrinter_keeps {a s : State} (h : Keeps a s) (p : PortIx) (c : FaultCause) (n : List Nat) :
    Keeps a (s.faultPrinter p c n) := State.raise_keeps (State.modPrinter_keeps (State.spoilOn_keeps h _) _ _) _

theorem State.faultLine_keeps {a s : State} (h : Keeps a s) (p : PortIx) (line : FaultLine) :
    Keeps a (s.faultLine p line) := by
  unfold State.faultLine
  split
  · exact h
  · split
    · exact State.modPrinter_keeps h _ _
    · exact State.faultPrinter_keeps h _ _ _

theorem State.paperLow_keeps {a s : State} (h : Keeps a s) (p : PortIx) : Keeps a (s.paperLow p) := by
  unfold State.paperLow
  split
  · exact State.raise_keeps h _
  · exact h

theorem State.enablePort_keeps {a s : State} (h : Keeps a s) (p : PortIx) : Keeps a (s.enablePort p) := by
  unfold State.enablePort
  simp only
  have ho := State.modPrinter_keeps h p fun x => { x with enabled := true }
  have hm : Keeps a (if (s.portLines p).paperOut then
      (s.modPrinter p fun x => { x with enabled := true }).faultLine p .paperOut
      else if (s.portLines p).coverOpen then (s.modPrinter p fun x => { x with enabled := true }).faultLine p .coverOpen
      else (s.modPrinter p fun x => { x with enabled := true }).sendProbe p) := by
    split
    · exact State.faultLine_keeps ho _ _
    · split
      · exact State.faultLine_keeps ho _ _
      · exact State.sendProbe_keeps ho _
  split
  · exact State.paperLow_keeps hm _
  · exact hm

theorem State.enablePorts_keeps {a s : State} (h : Keeps a s) (n : Nat) : Keeps a (s.enablePorts n) := by
  unfold State.enablePorts
  split
  · exact State.enablePort_keeps (State.enablePort_keeps h _) _
  · exact State.enablePort_keeps h _

theorem State.present_keeps {a s : State} (h : Keeps a s) (p : PortIx) : Keeps a (s.present p) := by
  unfold State.present
  simp only
  split
  · exact h
  · split
    · exact State.assign_keeps (State.raise_keeps (State.modPrinter_keeps h _ _) _)
    · exact State.modPrinter_keeps h _ _

theorem State.itemDone_keeps {a s : State} (h : Keeps a s) (l : LaneIx) (k : Nat) : Keeps a (s.itemDone l k) := by
  unfold State.itemDone
  simp only
  have hm := State.modPrintItem_keeps h l k fun i => { i with state := .done }
  split
  · split
    · split
      · exact State.modRecord_keeps hm _ _
      · exact hm
    · exact hm
  · exact hm

theorem State.afterDone_keeps {a s : State} (h : Keeps a s) (p : PortIx) (l : LaneIx) : Keeps a (s.afterDone p l) := by
  unfold State.afterDone
  split
  · exact h
  · split
    · exact State.sendItem_keeps h _ _
    · exact State.endJob_keeps h _ _

theorem State.done_keeps {a s : State} (h : Keeps a s) (p : PortIx) (t : ItemTag) : Keeps a (s.done p t) := by
  unfold State.done
  split
  · split
    · exact State.afterDone_keeps (State.itemDone_keeps (State.modPrinter_keeps h _ _) _ _) _ _
    · exact h
  · exact h

theorem State.faultMessage_keeps {a s : State} (h : Keeps a s) (p : PortIx) (n : Nat) : Keeps a (s.faultMessage p n) := by
  unfold State.faultMessage
  simp only
  split
  · exact h
  · exact State.sendProbe_keeps (State.faultPrinter_keeps h _ _ _) _

theorem State.printerMessage_keeps {a s : State} (h : Keeps a s) (p : PortIx) (m : PrinterRx) :
    Keeps a (s.printerMessage p m) := by
  unfold State.printerMessage
  split
  · split
    · exact State.present_keeps h _
    · exact State.done_keeps h _ _
    · exact State.faultMessage_keeps h _ _
  · exact h

theorem State.itemTimedOut_keeps {a s : State} (h : Keeps a s) (p : PortIx) : Keeps a (s.itemTimedOut p) := by
  unfold State.itemTimedOut
  split
  · exact h
  · exact State.afterSpoil_keeps (State.sendProbe_keeps
      (State.raise_keeps (State.modPrinter_keeps (State.spoilItem_keeps h _ _) _ _) _) _) _ _ _

theorem State.probeTimedOut_keeps {a s : State} (h : Keeps a s) (p : PortIx) : Keeps a (s.probeTimedOut p) := by
  unfold State.probeTimedOut
  simp only
  split
  · exact State.modPrinter_keeps h _ _
  · exact State.raise_keeps (State.modPrinter_keeps h _ _) _

theorem State.probeIntervalEnded_keeps {a s : State} (h : Keeps a s) (p : PortIx) : Keeps a (s.probeIntervalEnded p) :=
  State.sendProbe_keeps (State.modPrinter_keeps h _ _) _

/-! ### The close of a step -/

theorem State.testDrained_keeps {a s : State} (h : Keeps a s) (before : State) : Keeps a (s.testDrained before) := by
  unfold State.testDrained
  split
  · exact State.raise_keeps (h.ofDrain _ fun _ e => DrainPhase.noConfusion e) _
  · exact h

theorem settle_keeps {a s : State} (h : Keeps a s) (before : State) : Keeps a (settle before s) := by
  refine State.testDrained_keeps (State.modLink_keeps h _ ?_ Link.choose_capacity) _
  unfold Link.choose
  split
  · split <;> rfl
  · rfl

theorem State.acted_keeps {s : State} (f : State → State) (h : Keeps s (f s)) : Keeps s (s.acted f) := by
  unfold State.acted
  split
  · exact Keeps.refl s
  · exact settle_keeps h _

end Sys2Proof.Machine
end

