-- ==== Sys2Proof/Laws/KeepsSteps.lean ====
section
/-! SUPPORT. That what each command does inside a step keeps all that Keeps says; the commands that load or free a screening,
take SETUP, clear the drain latch, advance the clock or change an input are treated apart, each up to that change. -/

namespace Sys2Proof.Machine

/-! ### Order words -/

theorem State.pickWord_keeps (l : LaneIx) (s : State) : Keeps s (s.pickWord l) := by
  unfold State.pickWord
  split
  · exact State.runPick_keeps (Keeps.refl s) _ _ _
  · exact Keeps.refl s

theorem State.applyDrop_keeps {a s : State} (h : Keeps a s) (l : LaneIx) (seats : List SeatRef) :
    Keeps a (s.applyDrop l seats) :=
  State.endWord_keeps (State.linesChanged_keeps (State.modOrder_keeps (State.release_keeps h _ _ _) _ _) _) _ _

theorem State.dropWord_keeps (l : LaneIx) (s : State) : Keeps s (s.dropWord l) := by
  unfold State.dropWord
  split
  · unfold State.runDrop
    simp only
    split_ifs
    · exact State.endWord_keeps (Keeps.refl s) _ _
    · exact State.endWord_keeps (Keeps.refl s) _ _
    · exact State.applyDrop_keeps (Keeps.refl s) _ _
    · exact State.endWord_keeps (Keeps.refl s) _ _
  · exact Keeps.refl s

theorem State.setTypeWord_keeps (l : LaneIx) (s : State) : Keeps s (s.setTypeWord l) := by
  unfold State.setTypeWord
  split
  · unfold State.runSetType
    simp only
    split
    · exact State.refuseWord_keeps (Keeps.refl s) _ _
    · split
      · exact State.refuseWord_keeps (Keeps.refl s) _ _
      · split
        · exact State.endWord_keeps (Keeps.refl s) _ _
        · split
          · exact State.endWord_keeps (Keeps.refl s) _ _
          · split
            · exact State.endWord_keeps (Keeps.refl s) _ _
            · exact State.endWord_keeps (State.linesChanged_keeps (State.modOrder_keeps (Keeps.refl s) _ _) _) _ _
  · exact Keeps.refl s

/-- An ADD-VOUCHER that passes its checks finds its item with room for the count (R132). -/
theorem State.addRefusal_none (s : State) (l : LaneIx) (item count : Nat) (e : s.addRefusal l item count = none) :
    ∃ x, s.item item = some x ∧ x.issued + x.reserved + count ≤ x.allotment := by
  unfold State.addRefusal at e
  simp only at e
  split_ifs at e
  · split at e <;> cases e
  · split at e
    · cases e
    · rename_i x hx
      split_ifs at e with room
      exact ⟨x, hx, Nat.le_of_not_lt room⟩

theorem State.applyAdd_keeps (l : LaneIx) (item count : Nat) (s : State) (e : s.addRefusal l item count = none) :
    Keeps s (s.applyAdd l item count) := by
  obtain ⟨x, hx, room⟩ := s.addRefusal_none l item count e
  refine State.endWord_keeps (State.linesChanged_keeps ((Keeps.refl s).ofCatalog _ _ fun c => ?_) _) _ _
  refine c.add (t := State.modOrder (s.modItem item fun i => { i with reserved := i.reserved + count }) l fun o =>
    { o with voucherLines := o.voucherLines ++ List.replicate count (VoucherLine.fresh item) }) l item count x hx room rfl
    (fun m hm => (State.lane_modLane _ _ _ _).trans (if_neg hm)) ?_
  unfold State.modOrder
  rw [State.lane_modLane_same]
  rfl

theorem State.addVoucherWord_keeps (l : LaneIx) (s : State) : Keeps s (s.addVoucherWord l) := by
  unfold State.addVoucherWord
  split
  · unfold State.runAdd
    split
    · exact State.endWord_keeps (Keeps.refl s) _ _
    · rename_i e
      exact State.applyAdd_keeps l _ _ s e
  · exact Keeps.refl s

/-- The lines removed and those that remain are together the lines there were. -/
theorem splitLines_unissued (item n : Nat) (vs : List VoucherLine) (i : Nat) :
    unissuedOf (splitLines item n vs).1 i + unissuedOf (splitLines item n vs).2 i = unissuedOf vs i := by
  induction vs generalizing n with
  | nil => cases n <;> rfl
  | cons v vs ih =>
    cases n with
    | zero => exact Nat.zero_add _
    | succ n =>
      unfold splitLines
      split
      · have := ih n
        simp only [unissuedOf_cons] at this ⊢
        omega
      · have := ih (n + 1)
        simp only [unissuedOf_cons] at this ⊢
        omega

theorem State.applyRemove_keeps {a s : State} (h : Keeps a s) (l : LaneIx) (item count : Nat) :
    Keeps a (s.applyRemove l item count) := by
  unfold State.applyRemove
  refine State.endWord_keeps (State.linesChanged_keeps (State.linesLeave_keeps h l _ _ fun i => ?_) _) _ _
  have e := splitLines_unissued item count (s.lane l).order.voucherLines.reverse i
  rw [unissuedOf_reverse] at e
  simpa using e

theorem State.removeVoucherWord_keeps (l : LaneIx) (s : State) : Keeps s (s.removeVoucherWord l) := by
  unfold State.removeVoucherWord
  split
  · unfold State.runRemove
    split_ifs
    · exact State.refuseWord_keeps (Keeps.refl s) _ _
    · exact State.refuseWord_keeps (Keeps.refl s) _ _
    · exact State.refuseWord_keeps (Keeps.refl s) _ _
    · exact State.applyRemove_keeps (Keeps.refl s) _ _ _
  · exact Keeps.refl s

theorem State.quoteWord_keeps (l : LaneIx) (s : State) : Keeps s (s.quoteWord l) := by
  unfold State.quoteWord
  split
  · unfold State.runQuote
    simp only
    split_ifs
    · exact State.refuseWord_keeps (Keeps.refl s) _ _
    · exact State.refuseWord_keeps (Keeps.refl s) _ _
    · exact State.refuseWord_keeps (Keeps.refl s) _ _
    · exact State.endWord_keeps ((Keeps.refl s).ofLane _ _ fun i => s.priced_lines l i) _ _
  · exact Keeps.refl s

theorem State.payWord_keeps (l : LaneIx) (s : State) : Keeps s (s.payWord l) := by
  unfold State.payWord
  split
  · exact State.runPay_keeps (Keeps.refl s) _ _
  · exact Keeps.refl s

theorem State.printWord_keeps (l : LaneIx) (s : State) : Keeps s (s.printWord l) := by
  unfold State.printWord
  split
  · unfold State.runPrint
    split
    · exact State.buildJob_keeps (State.setPhase_keeps (Keeps.refl s) _ _) _
    · exact State.refuseWord_keeps (Keeps.refl s) _ _
  · exact Keeps.refl s

theorem State.finishWord_keeps (l : LaneIx) (s : State) : Keeps s (s.finishWord l) := by
  unfold State.finishWord
  split
  · unfold State.runFinish
    split
    · exact State.endWord_keeps (State.returnToEmpty_keeps (Keeps.refl s) _) _ _
    · exact State.endWord_keeps (Keeps.refl s) _ _
    all_goals exact State.refuseWord_keeps (Keeps.refl s) _ _
  · exact Keeps.refl s

theorem State.cancelWord_keeps (l : LaneIx) (s : State) : Keeps s (s.cancelWord l) := by
  unfold State.cancelWord
  split
  · unfold State.runCancel
    split
    · exact State.endWord_keeps (Keeps.refl s) _ _
    iterate 2 exact State.endWord_keeps (State.cancelOrder_keeps (Keeps.refl s) _) _ _
    iterate 3 exact State.cancelOrder_keeps (State.setPhase_keeps (Keeps.refl s) _ _) _
    · exact State.endWord_keeps (State.endUnresolved_keeps (Keeps.refl s) _ _) _ _
    all_goals exact State.refuseWord_keeps (Keeps.refl s) _ _
  · exact Keeps.refl s

/-! ### Requests -/

/-- A request kind's step is kept when its owner's is, from the state with the request popped. -/
theorem State.serve_keeps (s : State) (k : RequestKind) (f : TakenRequest → State → State)
    (hf : ∀ t a u, Keeps a u → Keeps a (f t u)) : Keeps s (s.serve k f) := by
  unfold State.serve
  split
  · exact Keeps.refl s
  · split
    · exact State.complete_keeps (State.popTaken_keeps (Keeps.refl s)) _ _
    · exact hf _ _ _ (State.popTaken_keeps (Keeps.refl s))

theorem State.callCensus_keeps {a s : State} (h : Keeps a s) (code : Nat) : Keeps a (s.callCensus code) := by
  unfold State.callCensus
  split
  · exact State.offer_keeps (State.modScreening_keeps h code (fun x => { x with phase := .calling, censusTimer := none })
      fun x => ⟨rfl, rfl, rfl, rfl, rfl, rfl, rfl, rfl, (ScreeningKept.refl x).seats⟩) _ _ _ _
  all_goals exact State.endCensus_keeps h _

theorem State.unloadClaim_keeps {a s : State} (h : Keeps a s) (code : Nat) (l : LaneIx) : Keeps a (s.unloadClaim code l) := by
  unfold State.unloadClaim
  simp only
  split
  · exact h
  · split
    · exact State.endPick_keeps (State.giveUpClaim_keeps h _) _ _
    · exact State.endPick_keeps (State.offerRelease_keeps (State.giveUpClaim_keeps h _) _ _ _ _) _ _
    all_goals exact h

theorem State.unloadQueued_keeps {a s : State} (h : Keeps a s) (code : Nat) (l : LaneIx) :
    Keeps a (s.unloadQueued code l) := by
  unfold State.unloadQueued
  split
  · exact State.unloadClaim_keeps h _ _
  · exact h

theorem State.removeCall_keeps {a s : State} (h : Keeps a s) (x : Screening) : Keeps a (s.removeCall x) := by
  unfold State.removeCall
  split
  · split
    · exact State.removeEntry_keeps h _
    · exact h
  · exact h

/-- Everything of an UNLOAD-SCREENING but the freeing of its slot. -/
theorem State.applyUnload_keeps (s : State) (t : TakenRequest) (x : Screening) :
    Keeps (s.freeScreening x.code) (s.applyUnload t x) :=
  State.complete_keeps (((State.removeCall_keeps (Keeps.refl _) x).trans
    (foldl_keeps _ (fun s _ => State.unloadQueued_keeps (Keeps.refl s) _ _) _ _)).trans
      (foldl_keeps _ (fun s _ => State.unloadClaim_keeps (Keeps.refl s) _ _) _ _)) _ _

theorem State.beginBlock_keeps {a s : State} (h : Keeps a s) (l : LaneIx) (t : TakenRequest) (tag : Nat)
    (ws : List OrderWord) : Keeps a (s.beginBlock l t tag ws) := by
  unfold State.beginBlock
  simp only
  split_ifs
  · exact State.setBlock_keeps (State.modOrder_keeps h _ _) _ _
  · exact State.setBlock_keeps h _ _
  · exact State.complete_keeps h _ _

theorem State.malformed_keeps {a s : State} (h : Keeps a s) (l : LaneIx) (t : TakenRequest) (o : Option Nat) (c : Code) :
    Keeps a (s.malformed l t o c) := by
  unfold State.malformed
  simp only
  split
  · exact State.complete_keeps h _ _
  · split
    iterate 6 exact State.complete_keeps h _ _
    iterate 2 exact State.complete_keeps (State.cancelOrder_keeps h _) _ _
    all_goals exact State.cancelOrder_keeps (State.setBlock_keeps h _ _) _

theorem State.takeOrder_keeps (t : TakenRequest) (a s : State) (h : Keeps a s) : Keeps a (s.takeOrder t) := by
  unfold State.takeOrder
  split
  · exact State.complete_keeps h _ _
  · rename_i l _
    have hr := State.restartAttendance_keeps h l
    unfold State.orderOn
    split
    · exact State.complete_keeps hr _ _
    · split
      · exact State.malformed_keeps hr _ _ _ _
      · exact State.beginBlock_keeps hr _ _ _ _

theorem State.takeInquire_keeps (t : TakenRequest) (a s : State) (h : Keeps a s) : Keeps a (s.takeInquire t) := by
  unfold State.takeInquire
  split
  · exact State.complete_keeps h _ _
  · exact State.complete_keeps (State.restartAttendance_keeps h _) _ _

theorem State.takeAbort_keeps (t : TakenRequest) (a s : State) (h : Keeps a s) : Keeps a (s.takeAbort t) := by
  unfold State.takeAbort
  split
  · exact State.complete_keeps h _ _
  · split
    · exact State.complete_keeps h _ _
    · exact State.complete_keeps
        (State.complete_keeps (State.cancelOrder_keeps (State.modLane_keeps h _ _) _) _ _) _ _

theorem State.takeCatalog_keeps (t : TakenRequest) (a s : State) (h : Keeps a s) : Keeps a (s.takeCatalog t) := by
  unfold State.takeCatalog
  split
  · exact State.complete_keeps h _ _
  · rename_i expiry items e
    split_ifs with held
    · exact State.complete_keeps h _ _
    · exact State.complete_keeps (h.ofVouchers { s.vouchers with catalog := items, expiry := some expiry } id id fun _ =>
        VoucherCounts.loaded rfl (Bool.eq_false_iff.mpr held) (readCatalog_fresh t.block expiry items e)) _ _
    · exact State.complete_keeps h _ _

/-! ### Notices received -/

theorem SeatState.hold_kept (n e : Nat) (st : SeatState) : SeatKept st (SeatState.hold n e st) := by
  refine SeatKept.ofMove _ rfl (fun _ => rfl) (fun st hst => ?_) st
  cases st <;> simp_all [SeatState.hold]
  split <;> exact fun e => SeatState.noConfusion e

theorem SeatState.release_kept (n : Nat) (st : SeatState) : SeatKept st (SeatState.release n st) := by
  refine SeatKept.ofMove _ rfl (fun _ => rfl) (fun st hst => ?_) st
  cases st <;> simp_all [SeatState.release]
  split <;> exact fun e => SeatState.noConfusion e

theorem SeatState.object_kept (n e : Nat) (st : SeatState) : SeatKept st (SeatState.object n e st) := by
  refine SeatKept.ofMove _ rfl (fun _ => rfl) (fun st hst => ?_) st
  cases st <;> simp_all [SeatState.object]

theorem SeatState.sale_kept (n : Nat) (st : SeatState) : SeatKept st (SeatState.sale n st) := by
  refine SeatKept.ofMove _ rfl (fun _ => rfl) (fun st hst => ?_) st
  cases st <;> simp_all [SeatState.sale]

theorem SeatState.censusHeld_kept (o c m : Nat) (st : SeatState) : SeatKept st (SeatState.censusHeld o c m st) := by
  refine SeatKept.ofMove _ rfl (fun _ => rfl) (fun st hst => ?_) st
  cases st <;> simp_all [SeatState.censusHeld] <;> split <;> exact fun e => SeatState.noConfusion e

theorem SeatState.expire_kept (c : Nat) (st : SeatState) : SeatKept st (SeatState.expire c st) := by
  refine SeatKept.ofMove _ rfl (fun _ => rfl) (fun st hst => ?_) st
  cases st <;> simp_all [SeatState.expire]
  split <;> exact fun e => SeatState.noConfusion e

theorem State.holdAgainst_keeps (s : State) (n c life : Nat) (seats : List SeatRef) (l : LaneIx) :
    Keeps s (s.holdAgainst n c life seats l) := by
  unfold State.holdAgainst
  have hm : Keeps s (if s.claimHit l .queued c seats then s.claimLoses l seats (.peerHeld n (s.house.clock + life)) else s) := by
    split
    · exact State.claimLoses_keeps (Keeps.refl s) _ _ _ fun e => SeatState.noConfusion e
    · exact Keeps.refl s
  simp only
  split
  · exact hm
  · exact State.offer_keeps hm _ _ _ _

theorem State.hold_keeps {a s : State} (h : Keeps a s) (n c life : Nat) (seats : List SeatRef) :
    Keeps a (s.hold n c life seats) :=
  State.mapSeats_keeps (h.trans (foldl_keeps _ (fun s l => State.holdAgainst_keeps s _ _ _ _ l) _ _)) _ _ _
    (SeatState.hold_kept _ _)

theorem State.conflict_keeps {a s : State} (h : Keeps a s) (q : ReportQual) (l : LaneIx) (c : Nat) (seats : List SeatRef) :
    Keeps a (s.conflict q l c seats) := by
  unfold State.conflict
  split
  · exact h
  · exact State.raise_keeps h _

theorem State.takeHeld_keeps {a s : State} (h : Keeps a s) (l : LaneIx) (c : Nat) (seats : List SeatRef) (d : SeatState)
    (hd : d ≠ .blocked) (q r : ReportQual) : Keeps a (s.takeHeld l c seats d q r) := by
  unfold State.takeHeld
  simp only
  split_ifs
  · exact h
  · exact State.conflict_keeps h _ _ _ _
  · exact State.seatsTaken_keeps h _ _ _ _ hd _

theorem State.objectAgainst_keeps (s : State) (n c k : Nat) (seats : List SeatRef) (l : LaneIx) :
    Keeps s (s.objectAgainst n c k seats l) := by
  unfold State.objectAgainst
  have hd : SeatState.peerHeld n (s.house.clock + s.cfg.holdLifetime) ≠ .blocked := fun e => SeatState.noConfusion e
  have hm : Keeps s (if s.claimHit l .queued c seats then
      s.claimLoses l seats (.peerHeld n (s.house.clock + s.cfg.holdLifetime)) else s) := by
    split
    · exact State.claimLoses_keeps (Keeps.refl s) _ _ _ hd
    · exact Keeps.refl s
  simp only
  split
  · refine State.takeHeld_keeps ?_ _ _ _ _ hd _ _
    generalize (if s.claimHit l .queued c seats then
      s.claimLoses l seats (.peerHeld n (s.house.clock + s.cfg.holdLifetime)) else s) = m at hm
    split
    · exact State.claimWithdrawn_keeps hm _ _ _ hd
    · exact hm
  · exact State.conflict_keeps hm _ _ _ _

theorem State.object_keeps {a s : State} (h : Keeps a s) (n c k : Nat) (seats : List SeatRef) :
    Keeps a (s.object n c k seats) :=
  State.mapSeats_keeps (h.trans (foldl_keeps _ (fun s l => State.objectAgainst_keeps s _ _ _ _ l) _ _)) _ _ _
    (SeatState.object_kept _ _)

theorem State.saleMeetsOrder_keeps {a s : State} (h : Keeps a s) (n c : Nat) (seats : List SeatRef) (l : LaneIx) :
    Keeps a (s.saleMeetsOrder n c seats l) := by
  unfold State.saleMeetsOrder
  split
  · exact State.conflict_keeps h _ _ _ _
  · exact State.takeHeld_keeps h _ _ _ _ (fun e => SeatState.noConfusion e) _ _

theorem State.saleAgainst_keeps (s : State) (n c : Nat) (seats : List SeatRef) (l : LaneIx) :
    Keeps s (s.saleAgainst n c seats l) := by
  unfold State.saleAgainst
  have hd : SeatState.sold n ≠ .blocked := fun e => SeatState.noConfusion e
  have hm : Keeps s (if s.claimHit l .queued c seats then s.claimLoses l seats (.sold n) else s) := by
    split
    · exact State.claimLoses_keeps (Keeps.refl s) _ _ _ hd
    · exact Keeps.refl s
  simp only
  refine State.saleMeetsOrder_keeps ?_ _ _ _ _
  generalize (if s.claimHit l .queued c seats then s.claimLoses l seats (.sold n) else s) = m at hm
  split
  · exact State.claimWithdrawn_keeps hm _ _ _ hd
  · exact hm

theorem State.peerSale_keeps {a s : State} (h : Keeps a s) (n c : Nat) (seats : List SeatRef) :
    Keeps a (s.peerSale n c seats) :=
  State.mapSeats_keeps (h.trans (foldl_keeps _ (fun s l => State.saleAgainst_keeps s _ _ _ l) _ _)) _ _ _
    (SeatState.sale_kept _)

theorem State.divergence_keeps {a s : State} (h : Keeps a s) (c : Nat) (seats : List SeatRef) (l : LaneIx) :
    Keeps a (s.divergence c seats l) := by
  unfold State.divergence
  simp only
  split
  · exact h
  · exact State.raise_keeps h _

theorem State.censusReply_keeps {a s : State} (h : Keeps a s) (c : Nat) (x : Section) (o m : Nat) (seats : List SeatRef) :
    Keeps a (s.censusReply c x o m seats) := by
  have hd := h.trans (foldl_keeps _ (fun s l => State.divergence_keeps (Keeps.refl s) c seats l) laneOrder s)
  unfold State.censusReply
  split
  · split
    · exact h
    · exact State.mapSeats_keeps hd _ _ _ (SeatState.censusHeld_kept _ _ _)
  · exact State.mapSeats_keeps hd _ _ _ (SeatState.sale_kept _)

theorem State.answerCall_keeps {a s : State} (h : Keeps a s) (c : Nat) : Keeps a (s.answerCall c) := by
  unfold State.answerCall
  split
  · exact h
  · exact h.trans (foldl_keeps _ (fun s n => State.offer_keeps (Keeps.refl s) _ _ _ _) _ _)

theorem State.recensus_keeps {a s : State} (h : Keeps a s) : Keeps a s.recensus := by
  unfold State.recensus
  refine h.trans (foldl_keeps _ (fun s x => ?_) _ _)
  split
  · exact State.callCensus_keeps (Keeps.refl s) _
  · exact Keeps.refl s

theorem State.receiveError_keeps {a s : State} (h : Keeps a s) : Keeps a s.receiveError := by
  unfold State.receiveError
  split
  · exact State.recensus_keeps (State.modLink_keeps h _ rfl fun c =>
      ⟨c.queue, c.ids, c.fresh, c.kept, c.aborts, Nat.lt_of_sub_eq_succ rfl, c.collisions, c.jam⟩)
  · rename_i hn
    exact State.modLink_keeps h _ rfl fun c =>
      ⟨c.queue, c.ids, c.fresh, c.kept, c.aborts, Nat.lt_of_not_le hn, c.collisions, c.jam⟩

theorem State.muteLoss_keeps (s : State) (e : Entry) : Keeps s (s.muteLoss e) := by
  unfold State.muteLoss
  split
  · split
    · exact State.claimFails_keeps (Keeps.refl s) _ _
    · exact Keeps.refl s
  · exact State.endCensus_keeps (Keeps.refl s) _
  all_goals exact Keeps.refl s

theorem Link.takeOverflow_station (k : Link) : k.takeOverflow.station = k.station := by
  unfold Link.takeOverflow
  split
  · split <;> rfl
  · rfl

theorem State.mute_keeps {a s : State} (h : Keeps a s) : Keeps a s.mute := by
  unfold State.mute
  simp only
  refine State.modLink_keeps ((State.modLink_keeps h _ ?_ fun c => ?_).trans
    (foldl_keeps _ State.muteLoss_keeps _ _)) _ (Link.takeOverflow_station _) Link.takeOverflow_capacity
  · rfl
  · exact (Link.idle_capacity c).ofSublist List.filter_sublist rfl rfl rfl rfl rfl

theorem State.duplicateStation_keeps {a s : State} (h : Keeps a s) (n : Nat) : Keeps a (s.duplicateStation n) := by
  unfold State.duplicateStation
  split
  · exact State.receiveError_keeps (State.raise_keeps (State.mute_keeps h) _)
  · exact State.receiveError_keeps h

theorem State.keep_keeps (s : State) (sender : Nat) (n : Notice) : Keeps s (s.keep sender n) := by
  have h := Keeps.refl s
  cases n <;> unfold State.keep <;> simp only
  case hold => split; exacts [State.hold_keeps h _ _ _ _, h]
  case renew => split; exacts [State.hold_keeps h _ _ _ _, h]
  case release => split; exacts [State.mapSeats_keeps h _ _ _ (SeatState.release_kept _), h]
  case object => split; exacts [State.object_keeps h _ _ _ _, h]
  case sale => split; exacts [State.peerSale_keeps h _ _ _, h]
  case censusCall => exact State.answerCall_keeps h _
  case censusReply => split; exacts [State.censusReply_keeps h _ _ _ _ _, h]
  case verify => split; exacts [State.verify_keeps h _, h]
  case redeem => split; exacts [State.redeem_keeps h _ _, h]
  case voucherState => exact h

theorem State.receive_keeps (sender : Nat) (n : Option Notice) (s : State) : Keeps s (s.receive sender n) := by
  unfold State.receive
  split_ifs
  · exact Keeps.refl s
  · exact State.receiveError_keeps (Keeps.refl s)
  · exact State.duplicateStation_keeps (Keeps.refl s) _
  · split
    · exact State.keep_keeps s _ _
    · exact State.receiveError_keeps (Keeps.refl s)

theorem State.receiveBytes_keeps (bytes : List Byte) (s : State) : Keeps s (s.receiveBytes bytes) := by
  unfold State.receiveBytes
  split
  · exact Keeps.refl s
  · split
    · exact Keeps.refl s
    · exact State.receiveError_keeps (Keeps.refl s)
  · exact State.receive_keeps _ _ s

/-! ### The notice in contention -/

/-- A change of the contention state whose count stays within its limit. -/
theorem State.modContention_keeps {a s : State} (h : Keeps a s) (f : Contention → Contention)
    (n : (f s.link.contention).collisions ≤ Config.collisionLimit)
    (j : (f s.link.contention).phase ≠ .jamming → (f s.link.contention).collisions < Config.collisionLimit) :
    Keeps a (s.modContention f) := State.modLink_keeps h _ rfl fun c => c.ofContention _ n j

/-- The same when the bounds follow from the link's capacity before. -/
theorem State.modContention_keeps' {a s : State} (h : Keeps a s) (f : Contention → Contention)
    (n : LinkCapacity s.link → (f s.link.contention).collisions ≤ Config.collisionLimit
      ∧ ((f s.link.contention).phase ≠ .jamming → (f s.link.contention).collisions < Config.collisionLimit)) :
    Keeps a (s.modContention f) :=
  State.modLink_keeps h _ rfl fun c => c.ofContention _ (n c).1 (n c).2

theorem State.gap_keeps (s : State) : Keeps s s.gap := by
  unfold State.gap
  split
  · rename_i hp
    exact State.modContention_keeps' (Keeps.refl s) _ fun c =>
      ⟨c.collisions, fun _ => c.jam (by rw [hp]; exact fun e => Phase.noConfusion e)⟩
  · exact Keeps.refl s

theorem State.collide_keeps (s : State) : Keeps s s.collide := by
  unfold State.collide
  split
  · rename_i hp
    exact State.modContention_keeps' (Keeps.refl s) _ fun c =>
      ⟨c.jam (by rw [hp]; exact fun e => Phase.noConfusion e), fun e => absurd rfl e⟩
  · exact Keeps.refl s

theorem State.backoffEnd_keeps (s : State) : Keeps s s.backoffEnd := by
  unfold State.backoffEnd
  split
  · rename_i hp
    exact State.modContention_keeps' (Keeps.refl s) _ fun c =>
      ⟨c.collisions, fun _ => c.jam (by rw [hp]; exact fun e => Phase.noConfusion e)⟩
  · exact Keeps.refl s

theorem State.dropEntry_keeps {a s : State} (h : Keeps a s) (e : Entry) : Keeps a (s.dropEntry e) :=
  State.modLink_keeps h _ rfl fun c => Link.idle_capacity (Link.drop_capacity c _)

theorem State.removedUnsent_keeps {a s : State} (h : Keeps a s) (e : Entry) : Keeps a (s.removedUnsent e) := by
  unfold State.removedUnsent
  split
  · split
    · exact State.holdRemoved_keeps h _
    · exact h
  all_goals exact h

theorem State.leaveUnsent_keeps {a s : State} (h : Keeps a s) (e : Entry) : Keeps a (s.leaveUnsent e) :=
  State.placeFreed_keeps (State.removedUnsent_keeps (State.dropEntry_keeps h _) _)

/-- Content kept aside is taken up, so that none is kept any more. -/
theorem Entry.takeKept_kept (e : Entry) : e.takeKept.kept = none := by
  unfold Entry.takeKept
  split
  · rfl
  · assumption

theorem Entry.takeKept_id (e : Entry) : e.takeKept.id = e.id := by
  unfold Entry.takeKept
  split <;> rfl

theorem State.abortOutcome_keeps {a s : State} (h : Keeps a s) (e : Entry) : Keeps a (s.abortOutcome e) := by
  have hl := State.placeFreed_keeps (State.noticeLost_keeps (State.dropEntry_keeps h e) e.notice e.lane e.tag)
  unfold State.abortOutcome
  split
  · exact State.modLink_keeps h _ rfl fun c => Link.idle_capacity (Link.modEntry_capacity c _ _
      (fun x => Entry.takeKept_id x) fun x _ _ hk => by rw [show Entry.kept _ = none from x.takeKept_kept] at hk; cases hk)
  · exact State.modLink_keeps h _ rfl Link.idle_capacity
  all_goals exact hl

theorem State.countAbort_keeps {a s : State} (h : Keeps a s) : Keeps a s.countAbort := by
  unfold State.countAbort
  simp only
  have hc := State.modLink_keeps h (fun k => { k with aborts := min Config.abortLimit (k.aborts + 1) }) rfl fun c =>
    ⟨c.queue, c.ids, c.fresh, c.kept, min_le_left _ _, c.receiveErrors, c.collisions, c.jam⟩
  split
  · exact State.raise_keeps (State.modLink_keeps hc _ rfl fun c =>
      ⟨c.queue, c.ids, c.fresh, c.kept, c.aborts, c.receiveErrors, c.collisions, c.jam⟩) _
  · exact hc

theorem State.backOff_keeps {a s : State} (h : Keeps a s) (e : Entry) (draw : Nat)
    (n : s.link.contention.collisions < Config.collisionLimit) : Keeps a (s.backOff e draw) := by
  unfold State.backOff
  simp only
  refine State.modContention_keeps (State.modLink_keeps h _ rfl fun c => Link.modEntry_capacity c _ _
    (fun x => x.takeKept_id) fun x _ _ hk => by rw [x.takeKept_kept] at hk; cases hk) _ ?_ fun _ => ?_
  · split
    · exact Nat.le_of_lt n
    · exact Nat.le_of_lt n
  · split
    · exact n
    · exact n

theorem State.jamEnd_keeps (draw : Nat) (s : State) : Keeps s (s.jamEnd draw) := by
  unfold State.jamEnd
  split
  · split
    · exact Keeps.refl s
    · split_ifs
      · exact State.leaveUnsent_keeps (Keeps.refl s) _
      · exact State.abortOutcome_keeps (State.countAbort_keeps (Keeps.refl s)) _
      · rename_i hn
        exact State.backOff_keeps (Keeps.refl s) _ _ (Nat.lt_of_not_le hn)
  · exact Keeps.refl s

theorem State.clearAborts_keeps {a s : State} (h : Keeps a s) : Keeps a s.clearAborts := by
  unfold State.clearAborts
  simp only
  have hc := State.modLink_keeps h (fun k => { k with aborts := 0 }) rfl fun c =>
    ⟨c.queue, c.ids, c.fresh, c.kept, Nat.zero_le _, c.receiveErrors, c.collisions, c.jam⟩
  split
  · exact State.raise_keeps (State.modLink_keeps hc _ rfl fun c =>
      ⟨c.queue, c.ids, c.fresh, c.kept, c.aborts, c.receiveErrors, c.collisions, c.jam⟩) _
  · exact hc

theorem State.jabber_keeps (s : State) : Keeps s s.jabber := by
  unfold State.jabber
  split
  · split
    · exact Keeps.refl s
    · refine State.raise_keeps ?_ _
      split
      · exact State.leaveUnsent_keeps (Keeps.refl s) _
      · exact State.abortOutcome_keeps (Keeps.refl s) _
  · exact Keeps.refl s

theorem State.renewTransmitted_keeps {a s : State} (h : Keeps a s) (l : LaneIx) (tag : Option Nat) (seats : List SeatRef)
    (i : Nat) : Keeps a (s.renewTransmitted l tag seats i) := by
  unfold State.renewTransmitted
  split
  · exact State.modLane_keeps h _ _
  · exact h

theorem State.saleTransmitted_keeps {a s : State} (h : Keeps a s) (l : LaneIx) (id : Nat) :
    Keeps a (s.saleTransmitted l id) := by
  unfold State.saleTransmitted
  split
  · exact State.renewalShrunk_keeps (State.modLane_keeps h _ _) _
  · exact h

theorem State.callTransmitted_keeps {a s : State} (h : Keeps a s) (code : Nat) : Keeps a (s.callTransmitted code) :=
  State.modScreening_keeps h code (fun x => { x with phase := .listening, censusTimer := some s.cfg.censusWindow })
    fun x => ⟨rfl, rfl, rfl, rfl, rfl, rfl, rfl, rfl, (ScreeningKept.refl x).seats⟩

theorem State.transmitEnd_keeps {a s : State} (h : Keeps a s) (e : Entry) (i : Nat) : Keeps a (s.transmitEnd e i) := by
  unfold State.transmitEnd
  split
  · split
    · exact State.holdTransmitted_keeps h _ _
    · exact h
  · split
    · exact State.renewTransmitted_keeps h _ _ _ _
    · exact h
  · split
    · exact State.saleTransmitted_keeps h _ _
    · exact h
  · split
    · exact h
    · exact State.callTransmitted_keeps h _
  all_goals exact h

/-- The transmit end of a RENEW changes no entry of the queue. -/
theorem State.transmitEnd_renew_link (s : State) (e : Entry) (i : Nat) (h : e.notice.isRenew = true) :
    (s.transmitEnd e i).link = s.link := by
  unfold State.transmitEnd
  split
  case h_2 =>
    split
    · unfold State.renewTransmitted
      split <;> rfl
    · rfl
  all_goals first | rfl | (rename_i hn; simp [hn, Notice.isRenew] at h)

theorem State.clearAborts_queue (s : State) : s.clearAborts.link.queue = s.link.queue := by
  unfold State.clearAborts
  simp only
  split <;> rfl

theorem State.transmitted_keeps (i : Nat) (s : State) : Keeps s (s.transmitted i) := by
  unfold State.transmitted
  split
  · split
    · exact Keeps.refl s
    · rename_i e he
      have ht := State.transmitEnd_keeps (State.clearAborts_keeps (State.dropEntry_keeps (Keeps.refl s) e)) e i
      refine State.placeFreed_keeps ?_
      have hq : e ∈ s.link.queue := by
        unfold Link.current at he
        obtain ⟨_, _, hf⟩ := Option.bind_eq_some_iff.mp he
        exact List.mem_of_find?_eq_some hf
      unfold State.admitKept
      split
      · rename_i k hk
        refine ht.ofLinkFrom _ rfl fun c => ?_
        have hr : e.notice.isRenew = true := c.kept e (List.mem_append_left _ hq) (by rw [hk]; rfl)
        refine Link.admit_capacity (ht.link c) _ _ _ _ ?_
        rw [State.transmitEnd_renew_link _ _ _ hr, State.clearAborts_queue]
        exact Link.drop_room e hq c.queue
      · exact ht
  · exact Keeps.refl s

/-! ### Timers -/

theorem State.censusWindow_keeps (i : Nat) (s : State) : Keeps s (s.censusWindow i) := by
  unfold State.censusWindow
  split
  · exact Keeps.refl s
  · split
    · exact State.endCensus_keeps (Keeps.refl s) _
    · exact Keeps.refl s

theorem State.peerExpiry_keeps (i : Nat) (r : SeatRef) (s : State) : Keeps s (s.peerExpiry i r) := by
  unfold State.peerExpiry
  split
  · exact Keeps.refl s
  · exact State.mapSeats_keeps (Keeps.refl s) _ _ _ (SeatState.expire_kept _)

theorem State.contestEnd_keeps (l : LaneIx) (s : State) : Keeps s (s.contestEnd l) := by
  unfold State.contestEnd
  split
  · exact State.confirmClaim_keeps (Keeps.refl s) _
  · exact Keeps.refl s

theorem State.passMark_keeps {a s : State} (h : Keeps a s) (l : LaneIx) (i : Nat) : Keeps a (s.passMark l i) :=
  h.ofLane _ _ fun _ => rfl

theorem State.dueMark_keeps (l : LaneIx) (i : Nat) (s : State) : Keeps s (s.dueMark l i) := by
  unfold State.dueMark
  split
  · exact State.offerRenew_keeps (State.passMark_keeps (Keeps.refl s) _ _) _ _
  · exact Keeps.refl s

theorem State.promoteRenew_keeps {a s : State} (h : Keeps a s) (l : LaneIx) : Keeps a (s.promoteRenew l) := by
  unfold State.promoteRenew
  split
  · rename_i e he
    have hr := List.find?_some he
    simp only [Bool.and_eq_true] at hr
    refine State.modLink_keeps h _ rfl fun c => Link.modEntry_capacity c _ _ (fun _ => rfl) fun x hx hi _ => ?_
    have hids : (s.link.queue.map Entry.id).Nodup :=
      ((List.sublist_append_left s.link.queue s.link.overflow.toList).map _).nodup c.ids
    have : x = e := List.inj_on_of_nodup_map hids hx (List.mem_of_find?_eq_some he) hi
    rw [this]
    exact hr.1.1
  · exact h

theorem State.demandMark_keeps (l : LaneIx) (i : Nat) (s : State) : Keeps s (s.demandMark l i) := by
  unfold State.demandMark
  split
  · exact State.promoteRenew_keeps (State.passMark_keeps (Keeps.refl s) _ _) _
  · exact Keeps.refl s

theorem State.expireHold_keeps {a s : State} (h : Keeps a s) (l : LaneIx) : Keeps a (s.expireHold l) := by
  unfold State.expireHold
  simp only
  split
  · exact h
  · split
    · exact h
    · exact State.raise_keeps (State.loseLines_keeps
        (State.mapSeats_keeps h _ _ _ (SeatKept.ofHeld l _ fun e => SeatState.noConfusion e)) _ _) _

theorem State.expiryMark_keeps (l : LaneIx) (i : Nat) (s : State) : Keeps s (s.expiryMark l i) := by
  unfold State.expiryMark
  split
  · split
    · exact State.passMark_keeps (Keeps.refl s) _ _
    · exact State.expireHold_keeps (State.passMark_keeps (Keeps.refl s) _ _) _
  · exact Keeps.refl s

theorem State.attendanceEnd_keeps (l : LaneIx) (s : State) : Keeps s (s.attendanceEnd l) := by
  unfold State.attendanceEnd
  split
  · exact State.lapse_keeps (Keeps.refl s) _
  · exact Keeps.refl s

/-! ### Terminal lines -/

theorem State.terminalRx_keeps (l : LaneIx) (m : TerminalRx) (s : State) : Keeps s (s.terminalRx l m) := by
  unfold State.terminalRx
  split
  · exact Keeps.refl s
  · exact State.terminalMessage_keeps (Keeps.refl s) _ _

theorem State.terminalBytes_keeps (l : LaneIx) (bytes : List RxByte) (s : State) : Keeps s (s.terminalBytes l bytes) :=
  foldl_keeps _ (fun s m => State.terminalRx_keeps l m s) _ _

theorem State.openExchange_keeps (l : LaneIx) (s : State) : Keeps s (s.openExchange l) := by
  unfold State.openExchange
  split
  · exact Keeps.refl s
  · exact State.modTerm_keeps (Keeps.refl s) _ _

theorem State.authTimedOut_keeps (l : LaneIx) (s : State) : Keeps s (s.authTimedOut l) := by
  unfold State.authTimedOut
  split
  · exact State.authEnded_keeps (State.endExchange_keeps (Keeps.refl s) _) _ _ _
  · exact Keeps.refl s

theorem State.captureTimedOut_keeps (l : LaneIx) (s : State) : Keeps s (s.captureTimedOut l) := by
  unfold State.captureTimedOut
  split
  · exact State.captureFailed_keeps (State.endExchange_keeps (Keeps.refl s) _) _ _
  · exact Keeps.refl s

theorem State.voidTimedOut_keeps (l : LaneIx) (s : State) : Keeps s (s.voidTimedOut l) := by
  unfold State.voidTimedOut
  split
  · exact State.voidFailed_keeps (State.endExchange_keeps (Keeps.refl s) _) _ _
  · exact Keeps.refl s

theorem State.pinEnd_keeps (l : LaneIx) (s : State) : Keeps s (s.pinEnd l) := by
  unfold State.pinEnd
  split
  · exact State.endUnresolved_keeps (Keeps.refl s) _ _
  · exact Keeps.refl s

/-! ### Printer lines -/

theorem State.printerBytes_keeps (p : PortIx) (bytes : List RxByte) (s : State) : Keeps s (s.printerBytes p bytes) :=
  foldl_keeps _ (fun s m => State.printerMessage_keeps (Keeps.refl s) p m) _ _

theorem State.printerSent_keeps (p : PortIx) (s : State) : Keeps s (s.printerSent p) := by
  unfold State.printerSent
  split
  · exact Keeps.refl s
  · exact State.modPrinter_keeps (Keeps.refl s) _ _

theorem State.itemDeadline_keeps (p : PortIx) (s : State) : Keeps s (s.itemDeadline p) := by
  unfold State.itemDeadline
  split
  · exact State.itemTimedOut_keeps (Keeps.refl s) _
  · exact Keeps.refl s

theorem State.probeDeadline_keeps (p : PortIx) (s : State) : Keeps s (s.probeDeadline p) := by
  unfold State.probeDeadline
  split
  · exact State.probeTimedOut_keeps (Keeps.refl s) _
  · exact Keeps.refl s

theorem State.intervalEnd_keeps (p : PortIx) (s : State) : Keeps s (s.intervalEnd p) := by
  unfold State.intervalEnd
  split
  · exact State.probeIntervalEnded_keeps (Keeps.refl s) _
  · exact Keeps.refl s

/-! ### Registers and mitigation -/

theorem State.hostOps_keeps (ops : List HostOp) (s : State) : Keeps s (s.hostOps ops) :=
  (Keeps.refl s).ofIo _ (HostMem.wf_ops _ _) id

theorem State.kick_keeps (v : BitVec 64) (s : State) : Keeps s (s.kick v) := by
  unfold State.kick
  split
  · exact State.lookRing_keeps (Keeps.refl s)
  · exact State.lookRing_keeps (State.modRing_keeps (Keeps.refl s) _ (RingCapacity.ofSame rfl rfl))

theorem State.writeCause_keeps (v : BitVec 32) (s : State) : Keeps s (s.writeCause v) :=
  State.modRing_keeps (Keeps.refl s) _ (RingCapacity.ofSame rfl rfl)

theorem State.writeMask_keeps (v : BitVec 32) (s : State) : Keeps s (s.writeMask v) :=
  State.modRing_keeps (Keeps.refl s) _ (RingCapacity.ofSame rfl rfl)

theorem State.mitigationEnd_keeps (c : MitCause) (s : State) : Keeps s (s.modRing (Ring.mitigationEnd c)) := by
  refine State.modRing_keeps (Keeps.refl s) _ fun h => ?_
  unfold Ring.mitigationEnd
  split
  · split
    · exact ⟨h.waiting, h.dropped⟩
    · exact h
  · split
    · exact ⟨h.waiting, h.dropped⟩
    · exact h

/-! ### The events of a clock advance -/

theorem meetTimed_keeps (e : TimedEvent) (s : State) : Keeps s (meetTimed e s) := by
  cases e with
  | peerHeld i r => exact State.peerExpiry_keeps i r s
  | attendance l => exact State.attendanceEnd_keeps l s
  | auth l => exact State.authTimedOut_keeps l s
  | capture l => exact State.captureTimedOut_keeps l s
  | void l => exact State.voidTimedOut_keeps l s
  | pin l => exact State.pinEnd_keeps l s
  | voucher i => exact State.modRecordAt_keeps (Keeps.refl s) _ _
  | item p => exact State.itemDeadline_keeps p s
  | probe p => exact State.probeDeadline_keeps p s
  | interval p => exact State.intervalEnd_keeps p s

theorem State.takeEvents_keeps (s : State) (es : List TimedEvent) : Keeps s (s.takeEvents es) :=
  foldl_keeps _ (fun s e => State.acted_keeps _ (meetTimed_keeps e s)) _ _

/-- The events of an advance keep of the advanced state what every operation keeps. -/
theorem State.advance_keeps (s : State) : Keeps (s.acted State.tick) s.advance :=
  (State.takeEvents_keeps _ _).trans (State.takeEvents_keeps _ _)

end Sys2Proof.Machine
end

