-- ==== Sys2Proof/Laws/ExecKeeps.lean ====
section
/-! SUPPORT. What each command keeps: `exec_keeps` for every command but those that set the setup record, load or free a
screening, clear the drain latch, advance the house clock or move an input, and one lemma for each of those. -/

namespace Sys2Proof

/-- The commands that keep everything `Keeps` names. -/
def Instr.ordinary : Instr → Bool
  | .setup | .loadScreening | .unloadScreening | .resume | .houseClockAdvance | .supplyWarningAsserted
  | .supplyWarningReleased | .resetAsserted | .resetReleased | .faultLineAsserted _ _ | .faultLineReleased _ _
  | .paperLowAsserted _ | .paperLowReleased _ => false
  | _ => true

end Sys2Proof

namespace Sys2Proof.Machine

theorem hostOps_acted_keeps (s : State) (ops : List HostOp) (f : State → State) (h : ∀ u, Keeps u (f u)) :
    Keeps s ((s.hostOps ops).acted f) := (State.hostOps_keeps ops s).trans (State.acted_keeps f (h _))

theorem exec_keeps (c : Instr) (s t : State) (hc : c.ordinary = true) (h : exec c s = .next t) : Keeps s t := by
  have e : ∀ u, Host.Outcome.next u = exec c s → Keeps s u → Keeps s t := by
    intro u hu k
    rw [h] at hu
    cases hu
    exact k
  clear h
  cases c
  case setup => cases hc
  case loadScreening => cases hc
  case unloadScreening => cases hc
  case loadCatalog => exact e _ rfl (State.acted_keeps _ (State.serve_keeps s _ _ State.takeCatalog_keeps))
  case order => exact e _ rfl (State.acted_keeps _ (State.serve_keeps s _ _ State.takeOrder_keeps))
  case inquire => exact e _ rfl (State.acted_keeps _ (State.serve_keeps s _ _ State.takeInquire_keeps))
  case abort => exact e _ rfl (State.acted_keeps _ (State.serve_keeps s _ _ State.takeAbort_keeps))
  case resume => cases hc
  case pick => exact e _ rfl (State.acted_keeps _ (State.pickWord_keeps _ s))
  case drop => exact e _ rfl (State.acted_keeps _ (State.dropWord_keeps _ s))
  case setType => exact e _ rfl (State.acted_keeps _ (State.setTypeWord_keeps _ s))
  case addVoucher => exact e _ rfl (State.acted_keeps _ (State.addVoucherWord_keeps _ s))
  case removeVoucher => exact e _ rfl (State.acted_keeps _ (State.removeVoucherWord_keeps _ s))
  case quote => exact e _ rfl (State.acted_keeps _ (State.quoteWord_keeps _ s))
  case pay => exact e _ rfl (State.acted_keeps _ (State.payWord_keeps _ s))
  case print => exact e _ rfl (State.acted_keeps _ (State.printWord_keeps _ s))
  case finish => exact e _ rfl (State.acted_keeps _ (State.finishWord_keeps _ s))
  case cancel => exact e _ rfl (State.acted_keeps _ (State.cancelWord_keeps _ s))
  case requestKick => exact e _ rfl (hostOps_acted_keeps s _ _ (State.kick_keeps _))
  case reportKick => exact e _ rfl (hostOps_acted_keeps s _ _ (fun u => State.flushReports_keeps (Keeps.refl u)))
  case causeWrite => exact e _ rfl (hostOps_acted_keeps s _ _ (State.writeCause_keeps _))
  case maskWrite => exact e _ rfl (hostOps_acted_keeps s _ _ (State.writeMask_keeps _))
  case otherRegisterWrite => exact e _ rfl (State.hostOps_keeps _ s)
  case holdReceived => exact e _ rfl (State.acted_keeps _ (State.receive_keeps _ _ s))
  case renewReceived => exact e _ rfl (State.acted_keeps _ (State.receive_keeps _ _ s))
  case releaseReceived => exact e _ rfl (State.acted_keeps _ (State.receive_keeps _ _ s))
  case objectReceived => exact e _ rfl (State.acted_keeps _ (State.receive_keeps _ _ s))
  case saleReceived => exact e _ rfl (State.acted_keeps _ (State.receive_keeps _ _ s))
  case censusCallReceived => exact e _ rfl (State.acted_keeps _ (State.receive_keeps _ _ s))
  case censusReplyReceived => exact e _ rfl (State.acted_keeps _ (State.receive_keeps _ _ s))
  case verifyReceived => exact e _ rfl (State.acted_keeps _ (State.receive_keeps _ _ s))
  case redeemReceived => exact e _ rfl (State.acted_keeps _ (State.receive_keeps _ _ s))
  case voucherStateReceived => exact e _ rfl (State.acted_keeps _ (State.receive_keeps _ _ s))
  case runtReceived => exact e _ rfl (State.acted_keeps _ (State.receiveBytes_keeps _ s))
  case noticeCheckFailed => exact e _ rfl (State.acted_keeps _ (State.receiveBytes_keeps _ s))
  case gapComplete => exact e _ rfl (State.acted_keeps _ (State.gap_keeps s))
  case collisionDetected => exact e _ rfl (State.acted_keeps _ (State.collide_keeps s))
  case jamComplete => exact e _ rfl (State.acted_keeps _ (State.jamEnd_keeps _ s))
  case backoffExpiry => exact e _ rfl (State.acted_keeps _ (State.backoffEnd_keeps s))
  case noticeTransmitted => exact e _ rfl (State.acted_keeps _ (State.transmitted_keeps _ s))
  case jabberCutoff => exact e _ rfl (State.acted_keeps _ (State.jabber_keeps s))
  case censusWindowEnd => exact e _ rfl (State.acted_keeps _ (State.censusWindow_keeps _ s))
  case peerHeldExpiry => exact e _ rfl (State.acted_keeps _ (State.peerExpiry_keeps _ _ s))
  case contestTimerExpiry => exact e _ rfl (State.acted_keeps _ (State.contestEnd_keeps _ s))
  case dueMark => exact e _ rfl (State.acted_keeps _ (State.dueMark_keeps _ _ s))
  case demandMark => exact e _ rfl (State.acted_keeps _ (State.demandMark_keeps _ _ s))
  case expiryMark => exact e _ rfl (State.acted_keeps _ (State.expiryMark_keeps _ _ s))
  case attendanceLapse => exact e _ rfl (State.acted_keeps _ (State.attendanceEnd_keeps _ s))
  case resultReceived => exact e _ rfl (State.acted_keeps _ (State.terminalRx_keeps _ _ s))
  case capturedReceived => exact e _ rfl (State.acted_keeps _ (State.terminalRx_keeps _ _ s))
  case voidedReceived => exact e _ rfl (State.acted_keeps _ (State.terminalRx_keeps _ _ s))
  case terminalFrameDiscarded => exact e _ rfl (State.acted_keeps _ (State.terminalBytes_keeps _ _ s))
  case terminalByteGapTimeout => exact e _ rfl (Keeps.refl s)
  case terminalFrameSent => exact e _ rfl (State.acted_keeps _ (State.openExchange_keeps _ s))
  case authTimeout => exact e _ rfl (State.acted_keeps _ (State.authTimedOut_keeps _ s))
  case captureTimeout => exact e _ rfl (State.acted_keeps _ (State.captureTimedOut_keeps _ s))
  case voidTimeout => exact e _ rfl (State.acted_keeps _ (State.voidTimedOut_keeps _ s))
  case pinDeadline => exact e _ rfl (State.acted_keeps _ (State.pinEnd_keeps _ s))
  case voucherExpiry => exact e _ rfl (State.acted_keeps _ (State.modRecordAt_keeps (Keeps.refl s) _ _))
  case presentReceived => exact e _ rfl (State.acted_keeps _ (State.printerMessage_keeps (Keeps.refl s) _ _))
  case doneReceived => exact e _ rfl (State.acted_keeps _ (State.printerMessage_keeps (Keeps.refl s) _ _))
  case faultReceived => exact e _ rfl (State.acted_keeps _ (State.printerMessage_keeps (Keeps.refl s) _ _))
  case printerFrameDiscarded => exact e _ rfl (State.acted_keeps _ (State.printerBytes_keeps _ _ s))
  case printerByteGapTimeout => exact e _ rfl (Keeps.refl s)
  case printerFrameSent => exact e _ rfl (State.acted_keeps _ (State.printerSent_keeps _ s))
  case itemTimeout => exact e _ rfl (State.acted_keeps _ (State.itemDeadline_keeps _ s))
  case probeTimeout => exact e _ rfl (State.acted_keeps _ (State.probeDeadline_keeps _ s))
  case probeIntervalEnd => exact e _ rfl (State.acted_keeps _ (State.intervalEnd_keeps _ s))
  case faultLineAsserted => cases hc
  case faultLineReleased => cases hc
  case paperLowAsserted => cases hc
  case paperLowReleased => cases hc
  case supplyWarningAsserted => cases hc
  case supplyWarningReleased => cases hc
  case resetAsserted => cases hc
  case resetReleased => cases hc
  case houseClockAdvance => cases hc
  case mitigationTimerExpiry => exact e _ rfl (State.acted_keeps _ (State.mitigationEnd_keeps _ s))

end Sys2Proof.Machine
end

