-- ==== Sys2Proof/Laws/Others.lean ====
section
/-! SUPPORT. That the operations of a lane leave the other lanes' orders, timers, terminals and held seats as they were
(OthersKept), and that those of the link leave them so for every lane. -/

namespace Sys2Proof.Machine

/-! ### The relation -/

theorem HeldKept.refl (k : LaneIx) (a : SeatState) : HeldKept k a a := fun _ _ h => h

theorem OthersKept.refl (k : LaneIx) (s : State) : OthersKept k s s :=
  ⟨fun _ _ => rfl, fun _ _ => rfl, fun _ _ => rfl, fun _ _ => rfl, fun _ _ => rfl,
    List.forall₂_same.mpr fun _ _ x h => ⟨x, h, rfl, List.forall₂_same.mpr fun p _ => ⟨rfl, HeldKept.refl k p.2⟩⟩⟩

theorem heldSeats_trans {k : LaneIx} {xs ys zs : List (SeatRef × SeatState)}
    (h : List.Forall₂ (fun p q => q.1 = p.1 ∧ HeldKept k p.2 q.2) xs ys)
    (g : List.Forall₂ (fun p q => q.1 = p.1 ∧ HeldKept k p.2 q.2) ys zs) :
    List.Forall₂ (fun p q => q.1 = p.1 ∧ HeldKept k p.2 q.2) xs zs := by
  induction h generalizing zs with
  | nil => cases g; exact .nil
  | cons h1 _ ih =>
    cases g with
    | cons g1 g2 => exact .cons ⟨g1.1.trans h1.1, fun m hm e => g1.2 m hm (h1.2 m hm e)⟩ (ih g2)

theorem OthersKept.trans {k : LaneIx} {s t u : State} (h : OthersKept k s t) (g : OthersKept k t u) : OthersKept k s u := by
  refine ⟨fun m hm => (g.order m hm).trans (h.order m hm), fun m hm => (g.attendance m hm).trans (h.attendance m hm),
    fun m hm => (g.renewal m hm).trans (h.renewal m hm), fun m hm => (g.sale m hm).trans (h.sale m hm),
    fun m hm => (g.term m hm).trans (h.term m hm), ?_⟩
  have h6 := h.seats
  have g6 := g.seats
  generalize s.slots = a at h6
  generalize t.slots = b at h6 g6
  generalize u.slots = c at g6
  induction h6 generalizing c with
  | nil => cases g6; exact .nil
  | cons h1 _ ih =>
    cases g6 with
    | cons g1 g2 =>
      refine .cons (fun x hx => ?_) (ih _ g2)
      obtain ⟨y, hy, hc, hs⟩ := h1 x hx
      obtain ⟨z, hz, gc, gs⟩ := g1 y hy
      exact ⟨z, hz, gc.trans hc, heldSeats_trans hs gs⟩

/-- A change that leaves the lanes and the slots as they were. -/
theorem OthersKept.ofRest {k : LaneIx} {a s : State} (h : OthersKept k a s) (t : State) (l : t.lanes = s.lanes)
    (p : t.slots = s.slots) : OthersKept k a t := by
  refine h.trans ?_
  have e : ∀ m, t.lane m = s.lane m := fun m => congrArg (fun x => PerLane.get x m) l
  refine ⟨fun m _ => by rw [e], fun m _ => by rw [e], fun m _ => by rw [e], fun m _ => by rw [e], fun m _ => by rw [e], ?_⟩
  rw [p]
  exact (OthersKept.refl k s).seats

theorem State.modLink_others {k : LaneIx} {a s : State} (h : OthersKept k a s) (f : Link → Link) :
    OthersKept k a (s.modLink f) := h.ofRest _ rfl rfl

theorem State.setOwed_others {k : LaneIx} {a s : State} (h : OthersKept k a s) (l : LaneIx) (b : Bool) :
    OthersKept k a (s.setOwed l b) := h.ofRest _ rfl rfl

/-- A change of the lane itself. -/
theorem State.modLane_others {k : LaneIx} {a s : State} (h : OthersKept k a s) (f : Lane → Lane) :
    OthersKept k a (s.modLane k f) := by
  refine h.trans ⟨fun m hm => ?_, fun m hm => ?_, fun m hm => ?_, fun m hm => ?_, fun m hm => ?_, (OthersKept.refl k s).seats⟩
  all_goals rw [State.lane_modLane, if_neg hm]

/-- A change of any lane's claim or block alone. -/
theorem State.modLane_others' {k : LaneIx} {a s : State} (h : OthersKept k a s) (l : LaneIx) (f : Lane → Lane)
    (o : ∀ x, (f x).order = x.order) (t : ∀ x, (f x).attendance = x.attendance) (r : ∀ x, (f x).renewal = x.renewal)
    (p : ∀ x, (f x).sale = x.sale) (q : ∀ x, (f x).term = x.term) : OthersKept k a (s.modLane l f) := by
  refine h.trans ⟨fun m _ => ?_, fun m _ => ?_, fun m _ => ?_, fun m _ => ?_, fun m _ => ?_, (OthersKept.refl k s).seats⟩
  all_goals
    rw [State.lane_modLane]
    split
    · rename_i e
      subst e
      first | exact o _ | exact t _ | exact r _ | exact p _ | exact q _
    · rfl

/-- A fold is kept when each of its steps is. -/
theorem foldl_others {α : Type} {k : LaneIx} (f : State → α → State) (hf : ∀ s x, OthersKept k s (f s x)) (xs : List α)
    (s : State) : OthersKept k s (xs.foldl f s) := by
  induction xs generalizing s with
  | nil => exact OthersKept.refl k s
  | cons x xs ih => exact (hf s x).trans (ih _)

/-! ### Seats -/

theorem State.modScreening_others {k : LaneIx} {a s : State} (h : OthersKept k a s) (code : Nat) (f : Screening → Screening)
    (hf : ∀ x, (f x).code = x.code ∧ List.Forall₂ (fun p q => q.1 = p.1 ∧ HeldKept k p.2 q.2) x.seats (f x).seats) :
    OthersKept k a (s.modScreening code f) := by
  refine h.trans ⟨fun _ _ => rfl, fun _ _ => rfl, fun _ _ => rfl, fun _ _ => rfl, fun _ _ => rfl, ?_⟩
  show List.Forall₂ _ s.slots (s.slots.map _)
  rw [List.forall₂_map_right_iff]
  refine List.forall₂_same.mpr fun o _ x hx => ?_
  subst hx
  refine ⟨if x.code = code then f x else x, rfl, ?_⟩
  by_cases hx : x.code = code
  · rw [if_pos hx]
    exact hf x
  · rw [if_neg hx]
    exact ⟨rfl, List.forall₂_same.mpr fun p _ => ⟨rfl, HeldKept.refl k p.2⟩⟩

theorem State.mapSeats_others {k : LaneIx} {a s : State} (h : OthersKept k a s) (code : Nat) (rs : List SeatRef)
    (f : SeatState → SeatState) (hf : ∀ st, HeldKept k st (f st)) : OthersKept k a (s.mapSeats code rs f) := by
  refine State.modScreening_others h code _ fun x => ⟨rfl, ?_⟩
  show List.Forall₂ _ x.seats (x.seats.map _)
  rw [List.forall₂_map_right_iff]
  refine List.forall₂_same.mpr fun p _ => ⟨rfl, ?_⟩
  show HeldKept k p.2 (if rs.contains p.1 then f p.2 else p.2)
  split
  · exact hf p.2
  · exact HeldKept.refl k p.2

/-- A lane's CLAIMING seats that take another state leave every HELD seat. -/
theorem HeldKept.ofClaimed (k l : LaneIx) (d : SeatState) (st : SeatState) :
    HeldKept k st (if st.claimedBy l then d else st) := by
  rintro m _ rfl
  rfl

/-- A lane's HELD seats that take another state leave the other lanes' HELD seats. -/
theorem HeldKept.ofHeld (k : LaneIx) (d : SeatState) (st : SeatState) : HeldKept k st (if st.heldBy k then d else st) := by
  rintro m hm rfl
  rw [if_neg]
  intro e
  simp only [SeatState.heldBy, decide_eq_true_eq, SeatState.held.injEq] at e
  exact hm e

theorem State.freeClaim_others {k : LaneIx} {a s : State} (h : OthersKept k a s) (l : LaneIx) :
    OthersKept k a (s.freeClaim l) := State.mapSeats_others h _ _ _ (HeldKept.ofClaimed k l _)

/-! ### Blocks in progress and claims -/

theorem State.clearClaim_others {k : LaneIx} {a s : State} (h : OthersKept k a s) (l : LaneIx) :
    OthersKept k a (s.clearClaim l) :=
  State.modLane_others' h l _ (fun _ => rfl) (fun _ => rfl) (fun _ => rfl) (fun _ => rfl) fun _ => rfl

theorem State.setPhase_others {k : LaneIx} {a s : State} (h : OthersKept k a s) (l : LaneIx) (ph : WordPhase) :
    OthersKept k a (s.setPhase l ph) :=
  State.modLane_others' h l _ (fun _ => rfl) (fun _ => rfl) (fun _ => rfl) (fun _ => rfl) fun _ => rfl

theorem State.endBlock_others {k : LaneIx} {a s : State} (h : OthersKept k a s) (l : LaneIx) (b : Block) (st : Status) :
    OthersKept k a (s.endBlock l b st) :=
  (State.modLane_others' h l (fun x => { x with block := none }) (fun _ => rfl) (fun _ => rfl) (fun _ => rfl) (fun _ => rfl)
    fun _ => rfl).ofRest _ rfl rfl

theorem State.endWord_others {k : LaneIx} {a s : State} (h : OthersKept k a s) (l : LaneIx) (e : WordEnd) :
    OthersKept k a (s.endWord l e) := by
  unfold State.endWord
  split
  · exact h
  · split
    · exact h
    · split
      · split
        · exact State.modLane_others' h l _ (fun _ => rfl) (fun _ => rfl) (fun _ => rfl) (fun _ => rfl) fun _ => rfl
        · exact State.endBlock_others h _ _ _
      · exact State.endBlock_others h _ _ _

theorem State.endPick_others {k : LaneIx} {a s : State} (h : OthersKept k a s) (l : LaneIx) (e : WordEnd) :
    OthersKept k a (s.endPick l e) := by
  unfold State.endPick
  split
  · exact State.endWord_others h _ _
  · exact h

theorem State.endPay_others {k : LaneIx} {a s : State} (h : OthersKept k a s) (l : LaneIx) (e : WordEnd) :
    OthersKept k a (s.endPay l e) := by
  unfold State.endPay
  split
  · exact State.endWord_others h _ _
  · exact h

theorem State.endCancelWait_others {k : LaneIx} {a s : State} (h : OthersKept k a s) (l : LaneIx) (e : WordEnd) :
    OthersKept k a (s.endCancelWait l e) := by
  unfold State.endCancelWait
  split
  · exact h
  · split
    · exact State.endBlock_others h _ _ _
    · split
      · exact State.endWord_others h _ _
      · exact h

/-! ### The link and the owners of its entries -/

theorem State.takeOwed_others {k : LaneIx} {a s : State} (h : OthersKept k a s) (l : LaneIx) :
    OthersKept k a (s.takeOwed l) := by
  unfold State.takeOwed
  split
  · split
    · exact h.ofRest _ rfl rfl
    · exact h.ofRest _ rfl rfl
  · exact h

theorem State.placeFreed_others {k : LaneIx} {a s : State} (h : OthersKept k a s) : OthersKept k a s.placeFreed := by
  unfold State.placeFreed
  exact (h.ofRest (s.modLink Link.takeOverflow) rfl rfl).trans
    (foldl_others _ (fun s l => State.takeOwed_others (OthersKept.refl k s) l) _ _)

theorem State.removeEntry_others {k : LaneIx} {a s : State} (h : OthersKept k a s) (id : Nat) :
    OthersKept k a (s.removeEntry id) := by
  unfold State.removeEntry
  split
  · exact h.ofRest _ rfl rfl
  · split
    · refine State.placeFreed_others (h.ofRest _ rfl rfl)
    · exact h

theorem State.claimFails_others {k : LaneIx} {a s : State} (h : OthersKept k a s) (l : LaneIx) (c : Code) :
    OthersKept k a (s.claimFails l c) := by
  unfold State.claimFails
  split
  · exact State.endPick_others (State.clearClaim_others (State.freeClaim_others h _) _) _ _
  · exact h

theorem State.endCensus_others {k : LaneIx} {a s : State} (h : OthersKept k a s) (code : Nat) :
    OthersKept k a (s.endCensus code) := by
  unfold State.endCensus
  split
  · exact h
  · have hm := State.modScreening_others h code
      (fun y => { y with phase := .idle, censusTimer := none, sync := .ready, request := none })
      fun x => ⟨rfl, List.forall₂_same.mpr fun p _ => ⟨rfl, HeldKept.refl k p.2⟩⟩
    simp only
    split
    · split
      · exact hm.ofRest _ rfl rfl
      · exact hm
    · exact hm

theorem State.noticeLost_others {k : LaneIx} {a s : State} (h : OthersKept k a s) (n : Notice) (l : Option LaneIx)
    (tag : Option Nat) : OthersKept k a (s.noticeLost n l tag) := by
  unfold State.noticeLost
  split
  · split
    · exact State.claimFails_others h _ _
    · exact h
  · exact State.endCensus_others h _
  · unfold State.owe
    split
    · split
      · exact h.ofRest _ rfl rfl
      · exact h
    · exact h
  · exact h.ofRest _ rfl rfl
  all_goals exact h

theorem State.offer_others {k : LaneIx} {a s : State} (h : OthersKept k a s) (n : Notice) (cls : Class) (l : Option LaneIx)
    (tag : Option Nat) : OthersKept k a (s.offer n cls l tag) := by
  unfold State.offer
  split
  · exact h.ofRest _ rfl rfl
  · exact State.noticeLost_others (State.modLink_others h _) _ _ _
  · exact h.ofRest _ rfl rfl
  · exact State.noticeLost_others h _ _ _

theorem State.offerRenew_others {k : LaneIx} {a s : State} (h : OthersKept k a s) (l : LaneIx) (cls : Class) :
    OthersKept k a (s.offerRenew l cls) := by
  unfold State.offerRenew
  simp only
  split
  · split
    · exact State.removeEntry_others h _
    · exact h.ofRest _ rfl rfl
  · split
    · exact h
    · exact State.offer_others (State.setOwed_others h _ _) _ _ _ _

theorem State.renewalShrunk_others {k : LaneIx} {a s : State} (h : OthersKept k a s) : OthersKept k a (s.renewalShrunk k) := by
  unfold State.renewalShrunk
  split
  · exact (State.offerRenew_others (State.modLane_others h _) _ _).ofRest _ rfl rfl
  · split
    · exact State.offerRenew_others h _ _
    · exact h

theorem State.offerRelease_others {k : LaneIx} {a s : State} (h : OthersKept k a s) (l : LaneIx) (tag : Option Nat)
    (code : Nat) (seats : List SeatRef) : OthersKept k a (s.offerRelease l tag code seats) := by
  unfold State.offerRelease
  split
  · exact h
  · exact State.offer_others h _ _ _ _

/-! ### Claims and holds -/

theorem State.giveUpClaim_others {k : LaneIx} {a s : State} (h : OthersKept k a s) (l : LaneIx) :
    OthersKept k a (s.giveUpClaim l) := by
  unfold State.giveUpClaim
  split
  · split
    · split
      · exact State.removeEntry_others
          (State.modLane_others' h l (fun x => { x with claim := { x.claim with state := .withdrawing } }) (fun _ => rfl)
            (fun _ => rfl) (fun _ => rfl) (fun _ => rfl) fun _ => rfl) _
      · exact State.removeEntry_others (State.clearClaim_others (State.freeClaim_others h _) _) _
    · exact State.clearClaim_others (State.freeClaim_others h _) _
  · exact State.clearClaim_others (State.freeClaim_others h _) _
  all_goals exact h

theorem State.release_others {k : LaneIx} {a s : State} (h : OthersKept k a s) (seats : List SeatRef) (w : Bool) :
    OthersKept k a (s.release k seats w) := by
  unfold State.release
  simp only
  refine State.renewalShrunk_others (State.offerRelease_others ?_ _ _ _ _)
  have hf := State.mapSeats_others h (s.lane k).seatCode (seats.filter (s.seatHeld (s.lane k).seatCode k))
    (fun st => if st.heldBy k then .free else st) (HeldKept.ofHeld k _)
  split
  · exact State.giveUpClaim_others hf _
  · exact hf

theorem State.returnLines_others {k : LaneIx} {a s : State} (h : OthersKept k a s) (vs : List VoucherLine) :
    OthersKept k a (s.returnLines vs) := by
  rw [State.returnLines_eq]
  exact h.ofRest _ rfl rfl

theorem State.returnToEmpty_others {k : LaneIx} {a s : State} (h : OthersKept k a s) : OthersKept k a (s.returnToEmpty k) := by
  unfold State.returnToEmpty
  exact State.modLane_others (State.returnLines_others (State.renewalShrunk_others (State.modLane_others h _)) _) _

theorem State.linesChanged_others {k : LaneIx} {a s : State} (h : OthersKept k a s) : OthersKept k a (s.linesChanged k) :=
  State.modLane_others h _

theorem State.loseLines_others {k : LaneIx} {a s : State} (h : OthersKept k a s) (lost : List SeatRef) :
    OthersKept k a (s.loseLines k lost) := by
  unfold State.loseLines
  split
  iterate 2 exact State.renewalShrunk_others (State.linesChanged_others (State.modLane_others h _))
  iterate 3 exact State.renewalShrunk_others (State.modLane_others h _)
  all_goals exact h

theorem State.confirmClaim_others {k : LaneIx} {a s : State} (h : OthersKept k a s) : OthersKept k a (s.confirmClaim k) := by
  unfold State.confirmClaim
  simp only
  refine State.endPick_others ?_ _ _
  have hm : ∀ f g, OthersKept k a ((((s.mapSeats (s.lane k).claim.code (s.lane k).claim.seatRefs
      fun st => if st.claimedBy k then .held k else st).modLane k f).linesChanged k).modLane k g) := fun f g =>
    State.modLane_others (State.linesChanged_others (State.modLane_others
      (State.mapSeats_others h _ _ _ (HeldKept.ofClaimed k k _)) f)) g
  split
  · exact State.modLane_others (hm _ _) _
  · split
    · exact State.offerRenew_others (hm _ _) _ _
    · exact hm _ _

theorem State.takePick_others {k : LaneIx} {a s : State} (h : OthersKept k a s) (code : Nat) (entries : List ClaimSeat) :
    OthersKept k a (s.takePick k code entries) := by
  have hf : ∀ st, HeldKept k st (if st = SeatState.free then SeatState.claiming k else st) := by
    rintro st m _ rfl
    rfl
  unfold State.takePick
  exact State.offer_others (State.setPhase_others
    (State.mapSeats_others (State.modLane_others h _) code (entries.map ClaimSeat.seat) _ hf) _ _) _ _ _ _

theorem State.runPick_others {k : LaneIx} {a s : State} (h : OthersKept k a s) (code : Nat) (entries : List ClaimSeat) :
    OthersKept k a (s.runPick k code entries) := by
  unfold State.runPick
  split
  · exact State.setPhase_others h _ _
  · split
    · exact State.endWord_others h _ _
    · exact State.takePick_others h _ _

/-! ### Vouchers -/

theorem State.issueLines_rest (s : State) (l : LaneIx) (vs : List VoucherLine) :
    (s.issueLines l vs).2.lanes = s.lanes ∧ (s.issueLines l vs).2.slots = s.slots := by
  induction vs generalizing s with
  | nil => exact ⟨rfl, rfl⟩
  | cons v vs ih =>
    unfold State.issueLines
    cases v.code with
    | some c => exact ih s
    | none =>
      have h1 := ih (s.issueLine l v).2
      have h2 := State.enterRecord_rest (s.drawVoucher.2.modItem v.item fun i =>
        { i with reserved := i.reserved - 1, issued := i.issued + 1 }) l
      exact ⟨h1.1.trans (h2 _).2.1, h1.2.trans (h2 _).2.2⟩

theorem State.issueVouchers_others {k : LaneIx} {a s : State} (h : OthersKept k a s) : OthersKept k a (s.issueVouchers k) := by
  unfold State.issueVouchers
  exact State.modLane_others (h.ofRest _ (s.issueLines_rest _ _).1 (s.issueLines_rest _ _).2) _

/-! ### Orders and payment -/

theorem State.modOrder_others {k : LaneIx} {a s : State} (h : OthersKept k a s) (f : Order → Order) :
    OthersKept k a (s.modOrder k f) := State.modLane_others h _

theorem State.modTerm_others {k : LaneIx} {a s : State} (h : OthersKept k a s) (f : Terminal → Terminal) :
    OthersKept k a (s.modTerm k f) := State.modLane_others h _

theorem State.sendTerminal_others {k : LaneIx} {a s : State} (h : OthersKept k a s) (x : ExchangeKind) (i : TenderIx)
    (n : Nat) : OthersKept k a (s.sendTerminal k x i n) := State.modTerm_others h _

theorem State.sendVoid_others {k : LaneIx} {a s : State} (h : OthersKept k a s) : OthersKept k a (s.sendVoid k) := by
  unfold State.sendVoid
  split
  · split
    · exact State.sendTerminal_others h _ _ _
    · exact h
  · exact h

theorem State.unwind_others {k : LaneIx} {a s : State} (h : OthersKept k a s) (c : UnwindCause) :
    OthersKept k a (s.unwind k c) := State.sendVoid_others (State.modLane_others (State.modLane_others h _) _)

theorem State.finishCancel_others {k : LaneIx} {a s : State} (h : OthersKept k a s) : OthersKept k a (s.finishCancel k) :=
  State.endCancelWait_others (State.returnToEmpty_others (State.modLane_others (State.release_others h _ _) _)) _ _

theorem State.cancelOrder_others {k : LaneIx} {a s : State} (h : OthersKept k a s) : OthersKept k a (s.cancelOrder k) := by
  unfold State.cancelOrder
  split
  · exact State.release_others h _ _
  iterate 2 exact State.finishCancel_others h
  · simp only
    split
    · exact State.sendVoid_others (State.modLane_others h _)
    · exact State.finishCancel_others (State.modLane_others h _)
  · exact State.modLane_others h _
  · exact State.sendVoid_others (State.modLane_others h _)
  all_goals exact h

theorem State.cancelRefusingPick_others {k : LaneIx} {a s : State} (h : OthersKept k a s) (x : Claim)
    (c : Code) : OthersKept k a (s.cancelRefusingPick k x c) := by
  unfold State.cancelRefusingPick
  simp only
  split
  · exact State.endPick_others (State.cancelOrder_others h) _ _
  · exact State.cancelOrder_others h

theorem State.raise_others {k : LaneIx} {a s : State} (h : OthersKept k a s) (r : Report) : OthersKept k a (s.raise r) :=
  h.ofRest _ rfl rfl

theorem State.applyHeldLapse_others {k : LaneIx} {a s : State} (h : OthersKept k a s) :
    OthersKept k a (s.applyHeldLapse k) := by
  unfold State.applyHeldLapse
  split
  · split
    iterate 3 exact State.cancelOrder_others (State.raise_others (State.modLane_others h _) _)
    iterate 3 exact h
    all_goals exact State.modLane_others h _
  · exact h

theorem State.afterStep_others {k : LaneIx} {a s : State} (h : OthersKept k a s) : OthersKept k a (s.afterStep k) := by
  have hl := State.applyHeldLapse_others h
  unfold State.afterStep State.drainEntry
  split
  · exact hl
  · split
    iterate 3 exact State.cancelOrder_others hl
    all_goals exact hl

theorem State.lapse_others {k : LaneIx} {a s : State} (h : OthersKept k a s) : OthersKept k a (s.lapse k) := by
  unfold State.lapse
  simp only
  have hs := State.modLane_others h fun x => { x with attendance := none }
  split
  iterate 3 exact State.cancelRefusingPick_others (State.raise_others hs _) _ _
  iterate 3 exact State.raise_others (State.modLane_others hs _) _
  iterate 3 exact State.raise_others hs _
  · exact State.returnToEmpty_others (State.raise_others hs _)
  · exact hs

theorem State.openRefused_others {k : LaneIx} {a s : State} (h : OthersKept k a s) (c : Code) (n : Nat)
    (lost : List SeatRef) : OthersKept k a (s.openRefused k c n lost) :=
  State.afterStep_others (State.endPay_others (State.modLane_others h _) _ _)

theorem State.settleTo_others {k : LaneIx} {a s : State} (h : OthersKept k a s) (t : OrderState) (c : Code) :
    OthersKept k a (s.settleTo k t c) := by
  unfold State.settleTo
  simp only
  split
  · exact State.afterStep_others (State.endPay_others (State.modLane_others h _) _ _)
  · split
    · exact State.unwind_others h _
    · exact State.openRefused_others h _ _ _

theorem State.sendCapture_others {k : LaneIx} {a s : State} (h : OthersKept k a s) : OthersKept k a (s.sendCapture k) := by
  unfold State.sendCapture
  split
  · exact State.sendTerminal_others (State.modLane_others h _) _ _ _
  · exact h

theorem State.offerSale_others {k : LaneIx} {a s : State} (h : OthersKept k a s) : OthersKept k a (s.offerSale k) := by
  unfold State.offerSale
  simp only
  split
  · exact h
  · exact State.offer_others (State.modLane_others h _) _ _ _ _

theorem State.sellOrder_others {k : LaneIx} {a s : State} (h : OthersKept k a s) : OthersKept k a (s.sellOrder k) := by
  unfold State.sellOrder
  exact State.modLane_others (State.endPay_others (State.issueVouchers_others (State.offerSale_others
    (State.mapSeats_others (State.modLane_others h _) _ _ _ (HeldKept.ofHeld k _)))) _ _) _

theorem State.commit_others {k : LaneIx} {a s : State} (h : OthersKept k a s) : OthersKept k a (s.commit k) := by
  unfold State.commit
  simp only
  split
  · split
    · exact State.sendCapture_others (State.modLane_others h _)
    · exact State.sellOrder_others h
  · split
    · exact State.unwind_others h _
    · exact State.openRefused_others h _ _ _

theorem State.captureFailed_others {k : LaneIx} {a s : State} (h : OthersKept k a s) (i : TenderIx) :
    OthersKept k a (s.captureFailed k i) := State.unwind_others (State.modLane_others h _) _

theorem State.captured_others {k : LaneIx} {a s : State} (h : OthersKept k a s) (i : TenderIx) :
    OthersKept k a (s.captured k i) := by
  unfold State.captured
  simp only
  split
  · exact State.sendCapture_others (State.modLane_others h _)
  · exact State.sellOrder_others (State.modLane_others h _)

theorem State.becomeUnresolved_others {k : LaneIx} {a s : State} (h : OthersKept k a s) :
    OthersKept k a (s.becomeUnresolved k) :=
  State.endCancelWait_others (State.endPay_others
    (State.raise_others (State.modLane_others (State.modLane_others h _) _) _) _ _) _ _

theorem State.unwindingEnd_others {k : LaneIx} {a s : State} (h : OthersKept k a s) : OthersKept k a (s.unwindingEnd k) := by
  unfold State.unwindingEnd
  simp only
  have ht : OthersKept k a (s.modTerm k fun t => { t with cause := none }) := State.modLane_others h _
  split
  · exact State.becomeUnresolved_others ht
  · split
    · exact State.finishCancel_others ht
    · split
      iterate 3 exact State.settleTo_others ht _ _
      · exact State.openRefused_others ht _ _ _
      · exact State.endPay_others (State.returnToEmpty_others (State.release_others ht _ _)) _ _
      · exact State.finishCancel_others ht

theorem State.advanceUnwinding_others {k : LaneIx} {a s : State} (h : OthersKept k a s) :
    OthersKept k a (s.advanceUnwinding k) := by
  unfold State.advanceUnwinding
  split
  · exact State.sendVoid_others h
  · exact State.unwindingEnd_others h

theorem State.voided_others {k : LaneIx} {a s : State} (h : OthersKept k a s) (i : TenderIx) :
    OthersKept k a (s.voided k i) := State.advanceUnwinding_others (State.modLane_others h _)

theorem State.voidFailed_others {k : LaneIx} {a s : State} (h : OthersKept k a s) (i : TenderIx) :
    OthersKept k a (s.voidFailed k i) := State.advanceUnwinding_others (State.modLane_others h _)

theorem State.endUnresolved_others {k : LaneIx} {a s : State} (h : OthersKept k a s) (q : ReportQual) :
    OthersKept k a (s.endUnresolved k q) := by
  unfold State.endUnresolved
  exact State.returnToEmpty_others (State.modLane_others (State.raise_others
    (State.release_others h _ _) _) _)

theorem State.authEnded_others {k : LaneIx} {a s : State} (h : OthersKept k a s) (i : TenderIx) (e : AuthEnd) :
    OthersKept k a (s.authEnded k i e) := by
  unfold State.authEnded
  simp only
  have ho : OthersKept k a (s.modOrder k fun o => o.modTender i (Tender.authEnd e)) := State.modLane_others h _
  split
  · unfold State.cancelAfterAuth
    simp only
    split
    · exact State.sendVoid_others (State.modLane_others (State.modLane_others ho _) _)
    · exact State.finishCancel_others (State.modLane_others ho _)
  · split
    · split
      · exact State.commit_others ho
      · split
        · exact State.unwind_others ho _
        · exact State.settleTo_others ho _ _
    · exact State.settleTo_others ho _ _
    · exact State.sendVoid_others (State.modLane_others (State.modLane_others ho _) _)

theorem State.terminalRx_others {k : LaneIx} {a s : State} (h : OthersKept k a s) (m : TerminalRx) :
    OthersKept k a (s.terminalRx k m) := by
  have he : OthersKept k a (s.endExchange k) := State.modTerm_others h _
  unfold State.terminalRx
  split
  · exact h
  · unfold State.terminalMessage
    split
    · exact h
    · split
      · split
        · exact State.authEnded_others he _ _
        · exact State.captured_others he _
        · exact State.captureFailed_others he _
        · exact State.voided_others he _
        · exact State.voidFailed_others he _
        all_goals exact h
      · exact h

theorem State.runPay_others {k : LaneIx} {a s : State} (h : OthersKept k a s) (c : Option Nat) :
    OthersKept k a (s.runPay k c) := by
  unfold State.runPay
  simp only
  split
  · exact State.endWord_others h _ _
  · split
    · exact State.commit_others (State.setPhase_others h _ _)
    · exact State.sendTerminal_others (State.modOrder_others (State.setPhase_others h _ _) _) _ _ _

/-! ### Printing -/

theorem State.sendItem_rest (s : State) (p : PortIx) (l : LaneIx) :
    (s.sendItem p l).lanes = s.lanes ∧ (s.sendItem p l).slots = s.slots := by
  unfold State.sendItem
  split
  · exact ⟨rfl, rfl⟩
  · split
    · exact ⟨rfl, rfl⟩
    · split
      · exact ⟨rfl, rfl⟩
      · rename_i i _
        have : ∀ k, (s.drawTicket l k i).2.lanes = s.lanes ∧ (s.drawTicket l k i).2.slots = s.slots := by
          intro k
          unfold State.drawTicket
          split <;> exact ⟨rfl, rfl⟩
        exact this _

theorem State.assignAt_rest (n : Nat) (s : State) : (s.assignAt n).lanes = s.lanes ∧ (s.assignAt n).slots = s.slots := by
  induction n generalizing s with
  | zero => exact ⟨rfl, rfl⟩
  | succ n ih =>
    unfold State.assignAt
    split
    · have h2 := State.sendItem_rest
      exact ⟨(ih _).1.trans (h2 _ _ _).1, (ih _).2.trans (h2 _ _ _).2⟩
    · exact ⟨rfl, rfl⟩

theorem State.modJobs_others {k : LaneIx} {a s : State} (h : OthersKept k a s) (f : List Job → List Job) :
    OthersKept k a (s.modJobs f) := h.ofRest _ rfl rfl

theorem State.assign_others {k : LaneIx} {a s : State} (h : OthersKept k a s) : OthersKept k a s.assign :=
  h.ofRest _ (State.assignAt_rest 2 s).1 (State.assignAt_rest 2 s).2

theorem State.buildJob_others {k : LaneIx} {a s : State} (h : OthersKept k a s) : OthersKept k a (s.buildJob k) :=
  State.assign_others (State.modJobs_others (State.modOrder_others h _) _)

/-! ### Order words, timers and terminal lines -/

theorem State.applyDrop_others {k : LaneIx} {a s : State} (h : OthersKept k a s) (seats : List SeatRef) :
    OthersKept k a (s.applyDrop k seats) :=
  State.endWord_others (State.linesChanged_others (State.modOrder_others (State.release_others h _ _) _)) _ _

theorem State.applyRemove_others {k : LaneIx} {a s : State} (h : OthersKept k a s) (item count : Nat) :
    OthersKept k a (s.applyRemove k item count) := by
  unfold State.applyRemove
  exact State.endWord_others (State.linesChanged_others (State.modOrder_others
    (State.returnLines_others h _) _)) _ _

theorem State.pickWord_others (k : LaneIx) (s : State) : OthersKept k s (s.pickWord k) := by
  unfold State.pickWord
  split
  · exact State.runPick_others (OthersKept.refl k s) _ _
  · exact OthersKept.refl k s

theorem State.dropWord_others (k : LaneIx) (s : State) : OthersKept k s (s.dropWord k) := by
  unfold State.dropWord
  split
  · unfold State.runDrop
    simp only
    split_ifs
    · exact State.endWord_others (OthersKept.refl k s) _ _
    · exact State.endWord_others (OthersKept.refl k s) _ _
    · exact State.applyDrop_others (OthersKept.refl k s) _
    · exact State.endWord_others (OthersKept.refl k s) _ _
  · exact OthersKept.refl k s

theorem State.setTypeWord_others (k : LaneIx) (s : State) : OthersKept k s (s.setTypeWord k) := by
  unfold State.setTypeWord
  split
  · unfold State.runSetType
    simp only
    split
    · exact State.endWord_others (OthersKept.refl k s) _ _
    · split
      · exact State.endWord_others (OthersKept.refl k s) _ _
      · split
        · exact State.endWord_others (OthersKept.refl k s) _ _
        · split
          · exact State.endWord_others (OthersKept.refl k s) _ _
          · split
            · exact State.endWord_others (OthersKept.refl k s) _ _
            · exact State.endWord_others (State.linesChanged_others (State.modOrder_others (OthersKept.refl k s) _)) _ _
  · exact OthersKept.refl k s

theorem State.addVoucherWord_others (k : LaneIx) (s : State) : OthersKept k s (s.addVoucherWord k) := by
  unfold State.addVoucherWord
  split
  · unfold State.runAdd
    split
    · exact State.endWord_others (OthersKept.refl k s) _ _
    · exact State.endWord_others (State.linesChanged_others (State.modOrder_others
        ((OthersKept.refl k s).ofRest (State.modItem _ _ _) rfl rfl) _)) _ _
  · exact OthersKept.refl k s

theorem State.removeVoucherWord_others (k : LaneIx) (s : State) : OthersKept k s (s.removeVoucherWord k) := by
  unfold State.removeVoucherWord
  split
  · unfold State.runRemove
    split_ifs
    · exact State.endWord_others (OthersKept.refl k s) _ _
    · exact State.endWord_others (OthersKept.refl k s) _ _
    · exact State.endWord_others (OthersKept.refl k s) _ _
    · exact State.applyRemove_others (OthersKept.refl k s) _ _
  · exact OthersKept.refl k s

theorem State.quoteWord_others (k : LaneIx) (s : State) : OthersKept k s (s.quoteWord k) := by
  unfold State.quoteWord
  split
  · unfold State.runQuote
    simp only
    split_ifs
    · exact State.endWord_others (OthersKept.refl k s) _ _
    · exact State.endWord_others (OthersKept.refl k s) _ _
    · exact State.endWord_others (OthersKept.refl k s) _ _
    · exact State.endWord_others (State.modOrder_others (OthersKept.refl k s) _) _ _
  · exact OthersKept.refl k s

theorem State.payWord_others (k : LaneIx) (s : State) : OthersKept k s (s.payWord k) := by
  unfold State.payWord
  split
  · exact State.runPay_others (OthersKept.refl k s) _
  · exact OthersKept.refl k s

theorem State.printWord_others (k : LaneIx) (s : State) : OthersKept k s (s.printWord k) := by
  unfold State.printWord
  split
  · unfold State.runPrint
    split
    · exact State.buildJob_others (State.setPhase_others (OthersKept.refl k s) _ _)
    · exact State.endWord_others (OthersKept.refl k s) _ _
  · exact OthersKept.refl k s

theorem State.finishWord_others (k : LaneIx) (s : State) : OthersKept k s (s.finishWord k) := by
  unfold State.finishWord
  split
  · unfold State.runFinish
    split
    · exact State.endWord_others (State.returnToEmpty_others (OthersKept.refl k s)) _ _
    all_goals exact State.endWord_others (OthersKept.refl k s) _ _
  · exact OthersKept.refl k s

theorem State.cancelWord_others (k : LaneIx) (s : State) : OthersKept k s (s.cancelWord k) := by
  unfold State.cancelWord
  split
  · unfold State.runCancel
    split
    · exact State.endWord_others (OthersKept.refl k s) _ _
    iterate 2 exact State.endWord_others (State.cancelOrder_others (OthersKept.refl k s)) _ _
    iterate 3 exact State.cancelOrder_others (State.setPhase_others (OthersKept.refl k s) _ _)
    · exact State.endWord_others (State.endUnresolved_others (OthersKept.refl k s) _) _ _
    all_goals exact State.endWord_others (OthersKept.refl k s) _ _
  · exact OthersKept.refl k s

theorem State.contestEnd_others (k : LaneIx) (s : State) : OthersKept k s (s.contestEnd k) := by
  unfold State.contestEnd
  split
  · exact State.confirmClaim_others (OthersKept.refl k s)
  · exact OthersKept.refl k s

theorem State.passMark_others (k : LaneIx) (s : State) (i : Nat) : OthersKept k s (s.passMark k i) :=
  State.modLane_others (OthersKept.refl k s) _

theorem State.dueMark_others (k : LaneIx) (i : Nat) (s : State) : OthersKept k s (s.dueMark k i) := by
  unfold State.dueMark
  split
  · exact State.offerRenew_others (s.passMark_others k _) _ _
  · exact OthersKept.refl k s

theorem State.demandMark_others (k : LaneIx) (i : Nat) (s : State) : OthersKept k s (s.demandMark k i) := by
  unfold State.demandMark
  split
  · unfold State.promoteRenew
    split
    · exact State.modLink_others (s.passMark_others k _) _
    · exact s.passMark_others k _
  · exact OthersKept.refl k s

theorem State.expiryMark_others (k : LaneIx) (i : Nat) (s : State) : OthersKept k s (s.expiryMark k i) := by
  unfold State.expiryMark
  split
  · split
    · exact s.passMark_others k _
    · unfold State.expireHold
      simp only
      split
      · exact s.passMark_others k _
      · split
        · exact s.passMark_others k _
        · exact State.raise_others (State.loseLines_others
            (State.mapSeats_others (s.passMark_others k _) _ _ _ (HeldKept.ofHeld k _)) _) _
  · exact OthersKept.refl k s

theorem State.attendanceEnd_others (k : LaneIx) (s : State) : OthersKept k s (s.attendanceEnd k) := by
  unfold State.attendanceEnd
  split
  · exact State.lapse_others (OthersKept.refl k s)
  · exact OthersKept.refl k s

theorem State.terminalBytes_others (k : LaneIx) (bytes : List RxByte) (s : State) :
    OthersKept k s (s.terminalBytes k bytes) :=
  foldl_others _ (fun s m => State.terminalRx_others (OthersKept.refl k s) m) _ _

theorem State.openExchange_others (k : LaneIx) (s : State) : OthersKept k s (s.openExchange k) := by
  unfold State.openExchange
  split
  · exact OthersKept.refl k s
  · exact State.modTerm_others (OthersKept.refl k s) _

theorem State.endExchange_others (k : LaneIx) (s : State) : OthersKept k s (s.endExchange k) :=
  State.modTerm_others (OthersKept.refl k s) _

theorem State.authTimedOut_others (k : LaneIx) (s : State) : OthersKept k s (s.authTimedOut k) := by
  unfold State.authTimedOut
  split
  · exact State.authEnded_others (s.endExchange_others k) _ _
  · exact OthersKept.refl k s

theorem State.captureTimedOut_others (k : LaneIx) (s : State) : OthersKept k s (s.captureTimedOut k) := by
  unfold State.captureTimedOut
  split
  · exact State.captureFailed_others (s.endExchange_others k) _
  · exact OthersKept.refl k s

theorem State.voidTimedOut_others (k : LaneIx) (s : State) : OthersKept k s (s.voidTimedOut k) := by
  unfold State.voidTimedOut
  split
  · exact State.voidFailed_others (s.endExchange_others k) _
  · exact OthersKept.refl k s

theorem State.pinEnd_others (k : LaneIx) (s : State) : OthersKept k s (s.pinEnd k) := by
  unfold State.pinEnd
  split
  · exact State.endUnresolved_others (OthersKept.refl k s) _
  · exact OthersKept.refl k s

/-! ### The close of a step -/

theorem settle_lanes (before after : State) : (settle before after).lanes = after.lanes := by
  unfold settle State.testDrained
  split <;> rfl

theorem settle_slots (before after : State) : (settle before after).slots = after.slots := by
  unfold settle State.testDrained
  split <;> rfl

theorem State.acted_others {k : LaneIx} (s : State) (f : State → State) (h : OthersKept k s (f s)) :
    OthersKept k s (s.acted f) := by
  unfold State.acted
  split
  · exact OthersKept.refl k s
  · exact h.ofRest _ (settle_lanes _ _) (settle_slots _ _)

/-- What closes a step changes nothing else. -/
theorem settle_closed (before after : State) : ClosedFrom after (settle before after) := by
  have hc : (after.modLink Link.choose).link = { after.link with contention := after.link.choose.contention }
      ∧ (after.link.contention.phase ≠ .idle → after.link.choose.contention = after.link.contention) := by
    show after.link.choose = _ ∧ _
    unfold Link.choose
    split
    · split
      · exact ⟨rfl, fun _ => rfl⟩
      · rename_i h _ _ _
        exact ⟨rfl, fun e => absurd h.1 e⟩
    · exact ⟨rfl, fun _ => rfl⟩
  unfold settle State.testDrained
  split
  · rename_i h
    refine ⟨rfl, rfl, rfl, rfl, rfl, rfl, hc.1, hc.2, rfl, fun e => absurd h.1 e⟩
  · exact ⟨rfl, rfl, rfl, rfl, rfl, rfl, hc.1, hc.2, rfl, fun _ => ⟨rfl, rfl⟩⟩

/-- A command that acts on a part that runs has its own effect for its effect: what closes the step is settle. -/
theorem effects_of_acted {c : Instr} {s : State} {f : State → State} (h : exec c s = .next (s.acted f)) (live : Live s) :
    Effects c s (f s) :=
  ⟨settle s (f s), by rw [Completes, h]; simp [State.acted, live], rfl, settle_closed _ _⟩

end Sys2Proof.Machine
end

