-- ==== Sys2Proof/Laws/PerInstr.lean ====
section
/-! SUPPORT. Statements about every command as syntax, made one command at a time. -/

namespace Sys2Proof.Laws.Operands

open Sys2Proof Sys2Proof.Machine

/-- A well-formed command carries no notice but one that passes the form check of R32, from a station 1–250, and no
processor store but one that lies in the processor's memory. -/
def Statement (i : Instr) : Prop :=
  i.wf = true → (∀ n, i.notice = some n → stationOk n.1 = true ∧ n.2.ok = true) ∧ hostOpsWf i.stores = true

/-- A command that is no notice received and no register write. -/
theorem plain (i : Instr) (n : i.notice = none) (m : i.stores = []) : Statement i :=
  fun _ => ⟨fun x h => (by rw [n] at h; cases h), by rw [m]; rfl⟩

/-- A command that is a notice received. -/
theorem ofNotice (i : Instr) (sender : Nat) (x : Notice) (n : i.notice = some (sender, x)) (m : i.stores = [])
    (w : i.wf = noticeWf sender x) : Statement i := by
  intro h
  refine ⟨fun y hy => ?_, by rw [m]; rfl⟩
  rw [n] at hy
  obtain rfl := Option.some.inj hy
  rw [w] at h
  exact Bool.and_eq_true_iff.mp h

theorem setup : Statement .setup := plain _ rfl rfl
theorem loadScreening : Statement .loadScreening := plain _ rfl rfl
theorem unloadScreening : Statement .unloadScreening := plain _ rfl rfl
theorem loadCatalog : Statement .loadCatalog := plain _ rfl rfl
theorem order : Statement .order := plain _ rfl rfl
theorem inquire : Statement .inquire := plain _ rfl rfl
theorem abort : Statement .abort := plain _ rfl rfl
theorem resume : Statement .resume := plain _ rfl rfl
theorem pick (lane : LaneIx) : Statement (.pick lane) := plain _ rfl rfl
theorem drop (lane : LaneIx) : Statement (.drop lane) := plain _ rfl rfl
theorem setType (lane : LaneIx) : Statement (.setType lane) := plain _ rfl rfl
theorem addVoucher (lane : LaneIx) : Statement (.addVoucher lane) := plain _ rfl rfl
theorem removeVoucher (lane : LaneIx) : Statement (.removeVoucher lane) := plain _ rfl rfl
theorem quote (lane : LaneIx) : Statement (.quote lane) := plain _ rfl rfl
theorem pay (lane : LaneIx) : Statement (.pay lane) := plain _ rfl rfl
theorem print (lane : LaneIx) : Statement (.print lane) := plain _ rfl rfl
theorem finish (lane : LaneIx) : Statement (.finish lane) := plain _ rfl rfl
theorem cancel (lane : LaneIx) : Statement (.cancel lane) := plain _ rfl rfl
theorem requestKick (value : BitVec 64) (mem : List HostOp) : Statement (.requestKick value mem) := fun h => ⟨nofun, h⟩
theorem reportKick (value : BitVec 32) (mem : List HostOp) : Statement (.reportKick value mem) := fun h => ⟨nofun, h⟩
theorem causeWrite (value : BitVec 32) (mem : List HostOp) : Statement (.causeWrite value mem) := fun h => ⟨nofun, h⟩
theorem maskWrite (value : BitVec 32) (mem : List HostOp) : Statement (.maskWrite value mem) := fun h => ⟨nofun, h⟩
theorem otherRegisterWrite (offset : Nat) (value : BitVec 32) (mem : List HostOp) : Statement (.otherRegisterWrite offset value mem) :=
    fun h => ⟨nofun, (Bool.and_eq_true_iff.mp h).2⟩
theorem holdReceived (sender code life : Nat) (seats : List SeatRef) : Statement (.holdReceived sender code life seats) :=
    ofNotice _ _ _ rfl rfl rfl
theorem renewReceived (sender code life : Nat) (seats : List SeatRef) : Statement (.renewReceived sender code life seats) :=
    ofNotice _ _ _ rfl rfl rfl
theorem releaseReceived (sender code : Nat) (seats : List SeatRef) : Statement (.releaseReceived sender code seats) :=
    ofNotice _ _ _ rfl rfl rfl
theorem objectReceived (sender code claimant : Nat) (seats : List SeatRef) : Statement (.objectReceived sender code claimant seats) :=
    ofNotice _ _ _ rfl rfl rfl
theorem saleReceived (sender code : Nat) (seats : List SeatRef) : Statement (.saleReceived sender code seats) :=
    ofNotice _ _ _ rfl rfl rfl
theorem censusCallReceived (sender code : Nat) : Statement (.censusCallReceived sender code) :=
    ofNotice _ _ _ rfl rfl rfl
theorem censusReplyReceived (sender code : Nat) (sect : Section) (owner remaining : Nat) (seats : List SeatRef) : Statement (.censusReplyReceived sender code sect owner remaining seats) :=
    ofNotice _ _ _ rfl rfl rfl
theorem verifyReceived (sender : Nat) (voucher : VCode) : Statement (.verifyReceived sender voucher) :=
    ofNotice _ _ _ rfl rfl rfl
theorem redeemReceived (sender : Nat) (voucher : VCode) : Statement (.redeemReceived sender voucher) :=
    ofNotice _ _ _ rfl rfl rfl
theorem voucherStateReceived (sender : Nat) (voucher : VCode) (item : Nat) (answer : Answer) : Statement (.voucherStateReceived sender voucher item answer) :=
    ofNotice _ _ _ rfl rfl rfl
theorem runtReceived (bytes : List Byte) : Statement (.runtReceived bytes) := plain _ rfl rfl
theorem noticeCheckFailed (bytes : List Byte) : Statement (.noticeCheckFailed bytes) := plain _ rfl rfl
theorem gapComplete : Statement .gapComplete := plain _ rfl rfl
theorem collisionDetected : Statement .collisionDetected := plain _ rfl rfl
theorem jamComplete (draw : Nat) : Statement (.jamComplete draw) := plain _ rfl rfl
theorem backoffExpiry : Statement .backoffExpiry := plain _ rfl rfl
theorem noticeTransmitted (instant : Nat) : Statement (.noticeTransmitted instant) := plain _ rfl rfl
theorem jabberCutoff : Statement .jabberCutoff := plain _ rfl rfl
theorem censusWindowEnd (slot : Nat) : Statement (.censusWindowEnd slot) := plain _ rfl rfl
theorem peerHeldExpiry (slot : Nat) (seat : SeatRef) : Statement (.peerHeldExpiry slot seat) := plain _ rfl rfl
theorem contestTimerExpiry (lane : LaneIx) : Statement (.contestTimerExpiry lane) := plain _ rfl rfl
theorem dueMark (lane : LaneIx) (instant : Nat) : Statement (.dueMark lane instant) := plain _ rfl rfl
theorem demandMark (lane : LaneIx) (instant : Nat) : Statement (.demandMark lane instant) := plain _ rfl rfl
theorem expiryMark (lane : LaneIx) (instant : Nat) : Statement (.expiryMark lane instant) := plain _ rfl rfl
theorem attendanceLapse (lane : LaneIx) : Statement (.attendanceLapse lane) := plain _ rfl rfl
theorem resultReceived (lane : LaneIx) (tag index : Nat) (outcome : ResultOutcome) (approved : Nat) (auth : BitVec 48) : Statement (.resultReceived lane tag index outcome approved auth) :=
    plain _ rfl rfl
theorem capturedReceived (lane : LaneIx) (tag index : Nat) : Statement (.capturedReceived lane tag index) :=
    plain _ rfl rfl
theorem voidedReceived (lane : LaneIx) (tag index : Nat) : Statement (.voidedReceived lane tag index) := plain _ rfl rfl
theorem terminalFrameDiscarded (lane : LaneIx) (bytes : List RxByte) : Statement (.terminalFrameDiscarded lane bytes) :=
    plain _ rfl rfl
theorem terminalByteGapTimeout (lane : LaneIx) : Statement (.terminalByteGapTimeout lane) := plain _ rfl rfl
theorem terminalFrameSent (lane : LaneIx) : Statement (.terminalFrameSent lane) := plain _ rfl rfl
theorem authTimeout (lane : LaneIx) : Statement (.authTimeout lane) := plain _ rfl rfl
theorem captureTimeout (lane : LaneIx) : Statement (.captureTimeout lane) := plain _ rfl rfl
theorem voidTimeout (lane : LaneIx) : Statement (.voidTimeout lane) := plain _ rfl rfl
theorem pinDeadline (lane : LaneIx) : Statement (.pinDeadline lane) := plain _ rfl rfl
theorem voucherExpiry (index : Nat) : Statement (.voucherExpiry index) := plain _ rfl rfl
theorem presentReceived (port : PortIx) : Statement (.presentReceived port) := plain _ rfl rfl
theorem doneReceived (port : PortIx) (tag : ItemTag) : Statement (.doneReceived port tag) := plain _ rfl rfl
theorem faultReceived (port : PortIx) (tag : Option ItemTag) (cause : Nat) : Statement (.faultReceived port tag cause) :=
    plain _ rfl rfl
theorem printerFrameDiscarded (port : PortIx) (bytes : List RxByte) : Statement (.printerFrameDiscarded port bytes) :=
    plain _ rfl rfl
theorem printerByteGapTimeout (port : PortIx) : Statement (.printerByteGapTimeout port) := plain _ rfl rfl
theorem printerFrameSent (port : PortIx) : Statement (.printerFrameSent port) := plain _ rfl rfl
theorem itemTimeout (port : PortIx) : Statement (.itemTimeout port) := plain _ rfl rfl
theorem probeTimeout (port : PortIx) : Statement (.probeTimeout port) := plain _ rfl rfl
theorem probeIntervalEnd (port : PortIx) : Statement (.probeIntervalEnd port) := plain _ rfl rfl
theorem faultLineAsserted (port : PortIx) (line : FaultLine) : Statement (.faultLineAsserted port line) :=
    plain _ rfl rfl
theorem faultLineReleased (port : PortIx) (line : FaultLine) : Statement (.faultLineReleased port line) :=
    plain _ rfl rfl
theorem paperLowAsserted (port : PortIx) : Statement (.paperLowAsserted port) := plain _ rfl rfl
theorem paperLowReleased (port : PortIx) : Statement (.paperLowReleased port) := plain _ rfl rfl
theorem supplyWarningAsserted : Statement .supplyWarningAsserted := plain _ rfl rfl
theorem supplyWarningReleased : Statement .supplyWarningReleased := plain _ rfl rfl
theorem resetAsserted : Statement .resetAsserted := plain _ rfl rfl
theorem resetReleased : Statement .resetReleased := plain _ rfl rfl
theorem houseClockAdvance : Statement .houseClockAdvance := plain _ rfl rfl
theorem mitigationTimerExpiry (cause : MitCause) : Statement (.mitigationTimerExpiry cause) := plain _ rfl rfl

end Sys2Proof.Laws.Operands
end

