-- ==== Sys2Proof/Laws/Seats.lean ====
section
/-! SUPPORT. What the model's one operation on seats does: it replaces the named seats and keeps all else (SeatsBecome). -/

namespace Sys2Proof.Machine

/-- The model's change of seats is the replacement of the named seats. -/
theorem State.mapSeats_eq_withSeats (s : State) (code : Nat) (seats : List SeatRef) (f : SeatState → SeatState) :
    s.mapSeats code seats f = s.withSeats code seats f := by
  simp [State.mapSeats, State.modScreening, State.withSeats, Screening.mapSeats, Screening.withSeats]

/-- A change of screenings that keeps their codes commutes with finding one by its code. -/
theorem findScreening_map (c : Nat) (g : Screening → Screening) (hg : ∀ x, (g x).code = x.code) (ys : List (Option Screening)) :
    (ys.map fun o => o.map g).findSome? (fun o => o.filter fun x => x.code = c)
      = (ys.findSome? fun o => o.filter fun x => x.code = c).map g := by
  induction ys with
  | nil => rfl
  | cons o ys ih =>
    cases o with
    | none => simpa using ih
    | some x =>
      by_cases hx : x.code = c
      · simp [Option.filter, hg, hx]
      · simpa [Option.filter, hg, hx] using ih

/-- The loaded screening of a code, after seats have been replaced. -/
theorem State.screening_withSeats (s : State) (code : Nat) (seats : List SeatRef) (f : SeatState → SeatState) (c : Nat) :
    (s.withSeats code seats f).screening c
      = (s.screening c).map fun x => if x.code = code then x.withSeats seats f else x :=
  findScreening_map c _ (fun x => by split <;> rfl) s.slots

/-- A seat looked up after seats have been replaced. -/
theorem Screening.seat_withSeats (x : Screening) (seats : List SeatRef) (f : SeatState → SeatState) (r : SeatRef) :
    (x.withSeats seats f).seat r = (x.seat r).map fun st => if r ∈ seats then f st else st := by
  have h : ∀ ps : List (SeatRef × SeatState),
      (ps.map fun p => (p.1, if p.1 ∈ seats then f p.2 else p.2)).lookup r
        = (ps.lookup r).map fun st => if r ∈ seats then f st else st := by
    intro ps
    induction ps with
    | nil => rfl
    | cons p ps ih =>
      obtain ⟨q, st⟩ := p
      by_cases hp : r = q
      · subst hp; simp
      · have : (r == q) = false := by simpa using hp
        simpa only [List.map_cons, List.lookup, this] using ih
  exact h x.seats

/-- The model's change of seats changes nothing but the named seats of the one screening. -/
theorem State.seatsBecome_mapSeats (s : State) (code : Nat) (seats : List SeatRef) (f : SeatState → SeatState) :
    SeatsBecome s (s.mapSeats code seats f) code seats f := by
  rw [State.mapSeats_eq_withSeats]
  have hs : ∀ c x, s.screening c = some x → x.code = c := by
    intro c x h
    obtain ⟨o, -, ho⟩ := List.exists_of_findSome?_eq_some h
    simpa using (Option.filter_eq_some_iff.mp ho).2
  refine ⟨rfl, fun r => ?_, fun c r hc => ?_⟩
  · unfold State.seat
    rw [State.screening_withSeats]
    cases h : s.screening code with
    | none => rfl
    | some x => simp [hs _ _ h, Screening.seat_withSeats]
  · unfold State.seat
    rw [State.screening_withSeats]
    cases h : s.screening c with
    | none => rfl
    | some x => simp [hs _ _ h, hc]

end Sys2Proof.Machine
end

