-- ==== Sys2Proof/Tests/Slice0.lean ====
section
/-! SUPPORT. Tests of the model's author: an ill-formed command for each check of WellFormed, values that the spec gives, and
for each statement with hypotheses one state and operands that meet them, clause by clause. -/

namespace Sys2Proof.Tests

open Sys2Proof Sys2Proof.Machine

/-! ### Helpers: a part after setup, and small records on it -/

/-- Station 12 with four lanes and two printers, as in the worked sequences. -/
def cfg : SetupRecord :=
  ⟨12, 4, 2, .lenient, 60, 180, 500, 120, 90, 10, 8, 10, 60, 500, 800, 1000, 40000, 5000, 9600, 1, 0, 4096, 4, 8192, 4, 50000⟩

/-- The part after setup at house clock 50,000, with an ACTIVE link, IDLE terminal lines and enabled ports. -/
def up : State :=
  { State.reset with
    house := ⟨some cfg, true, 50000, true, .clear⟩
    link := { Link.reset with state := .active, station := some 12 }
    lanes :=
      ⟨{ Lane.reset with term := { Terminal.off with line := .idle } }, { Lane.reset with term := { Terminal.off with line := .idle } },
        { Lane.reset with term := { Terminal.off with line := .idle } },
        { Lane.reset with term := { Terminal.off with line := .idle } }⟩
    vouchers := { Vouchers.reset with serial := 5000 }
    printing := ⟨⟨{ Printer.reset with enabled := true }, { Printer.reset with enabled := true }⟩, [], 40000⟩ }

/-- Seats A1 to A4. -/
def a1 : SeatRef := ⟨0, 1⟩
def a2 : SeatRef := ⟨0, 2⟩
def a3 : SeatRef := ⟨0, 3⟩
def a4 : SeatRef := ⟨0, 4⟩

/-- A READY screening 4102 of one row, A1 blocked, with the states of A2, A3 and A4 given. -/
def scr (x y z : SeatState) : Screening :=
  ⟨4102, 60000, 900, 100, 1100, [900, 1200, 0, 0],
    [⟨1000, true⟩, ⟨600, true⟩, ⟨0, false⟩, ⟨0, false⟩, ⟨0, false⟩, ⟨0, false⟩],
    [[⟨0, true⟩, ⟨0, false⟩, ⟨1, false⟩, ⟨0, false⟩]], [(a1, .blocked), (a2, x), (a3, y), (a4, z)], .ready, .idle, none, none⟩

/-- The part with a screening in slot 0. -/
def showing (x : Screening) : State := { up with slots := some x :: List.replicate 15 none }

/-- An order of screening 4102 with tag 3310. -/
def order (st : OrderState) (lines : List SeatLine) : Order :=
  { Order.blank with state := st, tag := some 3310, screening := some ⟨0, 4102⟩, seatLines := lines }

/-- A line of ticket type 0. -/
def line (r : SeatRef) : SeatLine := ⟨r, 0, some 1090, false⟩

/-- Lane 0's request descriptor. -/
def ref : RequestRef := ⟨.request, 0, 4096, 16384, 32⟩

/-- A block of lane 0 whose word 0 is running. -/
def block (w : OrderWord) (ph : WordPhase) : Block := ⟨ref, 3310, [w], .running 0 ph⟩

/-- The state with lane 0's order, and with a block of one word or none. -/
def with0 (s : State) (o : Order) (b : Option Block) : State := s.modLane 0 fun x => { x with order := o, block := b }

/-- The state with a request taken and waiting for its owner. -/
def taking (s : State) (k : RequestKind) (lane : Nat) (bytes : List Byte) : State :=
  s.modRing fun r => { r with taken := [⟨ref, k, lane, bytes⟩] }

/-- An entry of the transmit queue with id 0. -/
def entry (n : Notice) (c : Machine.Class) (l : Option LaneIx) : Entry := ⟨0, n, c, l, some 3310, false, none⟩

/-- The state with one entry queued, in contention in a phase after some collisions. -/
def contending (s : State) (e : Entry) (p : Phase) (n : Nat) : State :=
  s.modLink fun k => { k with queue := [e], nextId := 1, contention := ⟨p, some 0, n, none⟩ }

/-! ### WellFormed refuses an ill-formed command for each of its checks -/

theorem test_wf_refuses_each_check :
    ([.requestKick 0 [.store 18446744073709551615 [1, 2]], .reportKick 0 [.failRead 18446744073709551616],
      .causeWrite 0 [.healRead 18446744073709551616], .maskWrite 0 [.store 18446744073709551616 [0]],
      .otherRegisterWrite 0x14 0 [], .otherRegisterWrite 0x18 0 [.failRead 18446744073709551616],
      .holdReceived 0 4102 180 [a1], .holdReceived 251 4102 180 [a1], .holdReceived 9 0 180 [a1], .holdReceived 9 65536 180 [a1],
      .holdReceived 9 4102 0 [a1], .renewReceived 9 4102 3601 [a1], .releaseReceived 9 4102 [], .saleReceived 9 4102 [a1, a1],
      .saleReceived 9 4102 [⟨26, 1⟩], .saleReceived 9 4102 [⟨0, 0⟩], .saleReceived 9 4102 [⟨0, 41⟩],
      .saleReceived 9 4102 ((List.range 17).map fun i => ⟨0, i + 1⟩), .objectReceived 9 4102 251 [a1], .censusCallReceived 9 0,
      .censusReplyReceived 9 4102 .held 0 10 [a1], .censusReplyReceived 9 4102 .held 7 3601 [a1],
      .censusReplyReceived 9 4102 .sold 251 0 [a1], .verifyReceived 9 ⟨0, 1⟩, .redeemReceived 9 ⟨12, 1048576⟩,
      .voucherStateReceived 9 ⟨12, 0⟩ 7 .valid, .voucherStateReceived 9 ⟨12, 1⟩ 65536 .valid,
      .runtReceived (List.replicate 8 0), .noticeCheckFailed (List.replicate 7 0), .jamComplete 256, .censusWindowEnd 16,
      .peerHeldExpiry 16 a1, .peerHeldExpiry 0 ⟨26, 1⟩, .resultReceived 0 0 1 .approved 1 0, .resultReceived 0 1 3 .approved 1 0,
      .resultReceived 0 1 1 .approved 1000000 0, .capturedReceived 0 65536 1, .voidedReceived 0 1 0, .voucherExpiry 1024,
      .doneReceived 0 ⟨4, 0, 0⟩, .doneReceived 0 ⟨0, 19, 0⟩, .doneReceived 0 ⟨0, 0, 3⟩, .faultReceived 0 none 256,
      .faultReceived 1 (some ⟨0, 0, 3⟩) 0] : List Instr).all (fun c => !c.wf) = true := by decide

theorem test_wf_accepts_the_ends_of_the_ranges :
    ([.requestKick 0 [.store 18446744073709551615 [1]], .otherRegisterWrite 0x18 0 [], .holdReceived 250 65535 3600 [⟨25, 40⟩],
      .saleReceived 1 1 ((List.range 16).map fun i => ⟨0, i + 1⟩), .voucherStateReceived 9 ⟨250, 1048575⟩ 65535 .valid,
      .runtReceived [], .jamComplete 255, .peerHeldExpiry 15 ⟨25, 40⟩, .resultReceived 3 65535 2 .approved 999999 0,
      .doneReceived 1 ⟨3, 18, 2⟩, .faultReceived 0 none 255] : List Instr).all Instr.wf = true := by decide

/-! ### Values that the spec gives -/

/-- The table gives the rows no bits. -/
theorem test_no_word_decodes : decodeTableWord 16 0x1234 = none ∧ State.reset.withFetchWord 16 0x1234 = State.reset := by decide

/-- The CRC-16 of the nine digits is 29B1h: the check value of this polynomial, initial value and bit order (R191). -/
theorem test_crc_of_the_digits :
    crc16 [0x31, 0x32, 0x33, 0x34, 0x35, 0x36, 0x37, 0x38, 0x39] = 0x29B1#16 := by decide +kernel

/-- A HOLD of A2 in screening 4102 (1006h) for 180 s (00B4h) from station 12, byte by byte but for its CRC. -/
theorem test_hold_bytes :
    ((Notice.hold 4102 180 [a2]).encode 12).take 11 = [1, 12, 7, 0, 0x10, 0x06, 0x00, 0xB4, 1, 0, 2] := by decide

/-- A CAPTURE of 2000 (07D0h) for tender 1 of order 3303 (0CE7h), its start byte, length, type and body. -/
theorem test_capture_bytes :
    (TerminalMsg.frame ⟨.capture, 3303, .one, 2000⟩).take 10 = [0xA5, 8, 2, 0x0C, 0xE7, 1, 0, 0, 0x07, 0xD0] := by decide

/-- A catalog item of the worked cases: not combo-eligible with a combo discount of 0. -/
def snack (code price discount : Nat) : CatalogItem := ⟨code, price, discount != 0, discount, 100, 0, 0⟩

/-- A voucher line of an item, not quoted. -/
def voucher (code : Nat) : VoucherLine := ⟨code, false, none, none, none⟩

/-- The peak-evening order: total 5544, taxes 278 and 217 (05_price_computation.md, worked case). -/
theorem test_peak_evening_quote :
    (priceOrder
        (some { scr .free .free .free with
                surcharge := 200, tiers := [1250, 1250, 0, 0], types := [⟨1000, true⟩, ⟨650, true⟩] })
        [snack 1 650 150, snack 2 300 0] { cfg with discountCap := 2000, ticketTax := 700, concessionTax := 2000 }
        [⟨a2, 0, none, false⟩, ⟨a3, 0, none, false⟩, ⟨a4, 1, none, false⟩] [voucher 1, voucher 1, voucher 2]).quote
      = ⟨false, 2, 4244, 1600, 300, 1300, 5544, 278, 217, 495⟩ := by decide +kernel

/-- Pairing and the cap of 250: discounts 100, 0, 120, 30, 0, total 4570, tax 489 (worked case). -/
theorem test_pairing_and_cap :
    let p :=
      priceOrder (some { scr .free .free .free with surcharge := 0, band := 1000, tiers := [900, 900, 0, 0] })
        [snack 1 300 100, snack 2 400 0, snack 3 120 200, snack 4 650 150]
        { cfg with discountCap := 250, ticketTax := 700, concessionTax := 2000 }
        [⟨a2, 0, none, false⟩, ⟨a3, 0, none, false⟩, ⟨a4, 0, none, false⟩]
        [voucher 1, voucher 2, voucher 3, voucher 4, voucher 4]
    p.voucherFigures.map (fun f => f.2.2) = [100, 0, 120, 30, 0] ∧ p.quote.total = 4570 ∧ p.quote.taxTotal = 489 := by decide

/-- Tax at exact halves rounds to even (worked case, rounding at the boundaries). -/
theorem test_tax_halves : [1502, 1503, 1509, 1510].map (fun n => taxOf n 2000) = [250, 250, 252, 252] := by decide

/-! ### Helpers for the witnesses -/

/-- Lane 0 with an order of two HELD seats, A2 and A3, and no block. -/
def holding (st : OrderState) : State := with0 (showing (scr (.held 0) (.held 0) .free)) (order st [line a2, line a3]) none

/-- The same with a renewal timer. -/
def renewing (st : OrderState) : State :=
  (holding st).modLane 0 fun x => { x with renewal := some ⟨⟨49000, 1000⟩, 0⟩, attendance := some 50000 }

/-- Lane 0 with a claim of A2 and A3 and its PICK running. -/
def claimingSeats (st : ClaimState) : State :=
  (with0 (showing (scr (.claiming 0) (.claiming 0) .free)) { Order.blank with tag := some 3310 }
    (some (block (.pick 4102 [⟨a2, 0⟩, ⟨a3, 1⟩]) .taken))).modLane 0 fun x =>
      { x with claim := ⟨st, some 3310, 0, 4102, [⟨a2, 0⟩, ⟨a3, 1⟩], some ⟨49990, 1000⟩, some 60⟩ }

/-- Lane 0 with a word that has not yet run, for an order. -/
def running (s : State) (o : Order) (w : OrderWord) : State := with0 s o (some (block w .fresh))

/-- A quote of 2000. -/
def quoteOf (total : Nat) : Quote := ⟨false, 0, total, 0, 0, 0, total, 148, 0, 148⟩

/-- A tender. -/
def tender (st : TenderState) (approved : Option Nat) : Tender := ⟨st, 2000, approved, 0, none⟩

/-- Lane 0 with an exchange whose deadline is now, two tenders and its PAY running. -/
def paying (st : OrderState) (t1 t2 : Tender) (k : ExchangeKind) : State :=
  (with0 (showing (scr (.held 0) (.held 0) .free))
    { order st [line a2, line a3] with quote := some (quoteOf 2000), quoteCurrent := true, tender1 := t1, tender2 := t2 }
    (some (block (.pay none) .taken))).modLane 0 fun x =>
      { x with term := ⟨.awaiting, none, some ⟨⟨k, 3310, .one, 2000⟩, 50000⟩, some .timeout, some 50000⟩ }

/-- The part with printer 0 in a state, with something outstanding whose deadline is now. -/
def printerIn (st : PrinterState) (m : Option PrinterMsg) : State :=
  up.modPrinter 0 fun x =>
    { x with state := st, outstanding := m.map fun m => ⟨m, 50000⟩, sending := some .probe, interval := some 50000 }

/-- The part with lane 0's job on printer 0, its item 1 sent. -/
def printing (spoils : Nat) : State :=
  let s :=
    up.modPrinter 0 fun x =>
      { x with
        state := .busy, job := some 0
        outstanding := some ⟨.item ⟨0, 1, spoils⟩ (.stub ⟨12, 1⟩ 7 60000 450 0), 50000⟩ }
  { s with
    printing :=
      { s.printing with
        jobs :=
          [⟨0, 3310, none, [⟨.stub, some 0, .done, 0, none⟩, ⟨.receipt, none, .sent, spoils, none⟩], .onPrinter 0, none⟩] } }

/-- A descriptor of the K4 at an address: kind, lane, block of `n` bytes at 32768, status at 16384. -/
def descriptor (addr kind lane n : Nat) : HostOp :=
  .store addr ([1, Byte.ofNat kind, Byte.ofNat lane, 0] ++ leBytes 4 n ++ leBytes 8 32768 ++ leBytes 8 16384 ++ [2])

/-- A SETUP block with the record `cfg`. -/
def setupBlock : List Byte :=
  [12, 4, 2, 2] ++ leBytes 2 60 ++ leBytes 2 180 ++ leBytes 2 500 ++ leBytes 2 120 ++ leBytes 2 90 ++ [10, 8, 10, 60]
    ++ leBytes 2 500 ++ leBytes 2 800 ++ leBytes 2 1000 ++ leBytes 4 40000 ++ leBytes 4 5000 ++ leBytes 4 9600 ++ [1, 0, 0, 0]
    ++ leBytes 8 4096 ++ leBytes 2 4 ++ leBytes 2 4 ++ leBytes 8 8192 ++ leBytes 4 50000

/-- A LOAD-SCREENING block of code 4103 and one seat. -/
def loadBlock : List Byte :=
  leBytes 2 4103 ++ leBytes 2 900 ++ leBytes 4 60000 ++ leBytes 2 0 ++ leBytes 2 1000 ++ leBytes 8 0 ++ List.replicate 24 0
    ++ [1, 0] ++ [1, 0, 0]

/-! ### A state and operands for each statement with hypotheses, clause by clause -/

theorem test_witness_StepRunsFrontCommand :
    State.reset.pending = [] ∧ ({ up with pending := [.resume, .abort] } : State).pending = .resume :: [.abort]
      ∧ ∃ t, exec .resume up = .next t := ⟨rfl, rfl, _, rfl⟩

theorem test_witness_StepKeepsInvariants :
    Capacities up ∧ up.io.host.wf = true ∧ SerialsInRange up ∧ step up = .next up :=
  ⟨⟨⟨by decide, by decide, by decide, by decide, by decide, by decide, by decide, by decide⟩, ⟨by decide, by decide⟩, by decide,
    by decide, by decide⟩, by decide, fun _ => by decide, rfl⟩

/-- Two lanes with lines of item 7, one line issued, and every voucher of it reserved or issued. -/
def reserving : State :=
  { (up.modOrder 0 fun o => { o with voucherLines := [voucher 7, { voucher 7 with code := some ⟨12, 1⟩ }, voucher 8] }).modOrder 2
      fun o => { o with voucherLines := [voucher 7] } with
    vouchers := { up.vouchers with catalog := [⟨7, 450, true, 100, 3, 1, 2⟩, ⟨8, 300, false, 0, 100, 0, 1⟩, ⟨9, 1, false, 0, 0, 0, 0⟩] } }

theorem test_witness_StepKeepsInvariants_counts :
    VoucherCounts reserving ∧ reserving.unissued 7 = 2 ∧ step reserving = .next reserving :=
  ⟨⟨by decide, by decide, by decide⟩, by decide, rfl⟩

theorem test_witness_StepKeepsScreenings :
    (showing (scr .free (.sold 7) .free)).slots.length = Config.slotCount ∧ ∃ t, step (showing (scr .free .free .free)) = .next t :=
  ⟨rfl, _, rfl⟩

theorem test_witness_SetupAndLatchHold :
    up.house.lock = true ∧ Instr.resume ≠ .resetAsserted ∧ (∃ t, exec .resume up = .next t)
      ∧ ({ up with house := { up.house with drain := .draining } } : State).house.drain ≠ .clear
      ∧ Instr.abort ≠ .resume ∧ ∃ t, exec .abort up = .next t := ⟨rfl, by decide, ⟨_, rfl⟩, by decide, by decide, _, rfl⟩

theorem test_witness_LanesAreSeparate :
    (Instr.cancel 3).ofLane 3 ∧ ∃ t, exec (.cancel 3) (holding .opened) = .next t := ⟨rfl, _, rfl⟩

/-- The part held in reset, with the supply warning at a level. -/
def heldInReset (supply : Bool) : State := { State.reset with pins := { Pins.quiet with reset := true, supply := supply } }

theorem test_witness_ResetInput_HeldInReset :
    (heldInReset true).pins.reset = true ∧ (heldInReset true).pins.supply = true ∧ (heldInReset false).pins.supply = false
      ∧ (heldInReset true).lanes = State.reset.lanes ∧ (heldInReset true).slots = State.reset.slots
      ∧ (heldInReset true).link = State.reset.link ∧ Instr.setup ≠ .resetAsserted ∧ Instr.setup ≠ .resetReleased
      ∧ (Instr.causeWrite 0 [.store 8192 [1]]).stores ≠ []
      ∧ (Instr.supplyWarningReleased.levels (heldInReset true).pins).supply = false := by decide

theorem test_witness_DrainLatched :
    up.pins.reset = false ∧ up.house.drain = .clear
      ∧ ({ up with house := { up.house with drain := .drained } } : State).house.drain ≠ .clear
      ∧ ([.empty, .paying, .committing, .sold, .printing, .complete, .unwinding, .unresolved, .opened, .quoted, .short] :
          List OrderState).all (fun st => ((holding st).lane 0).order.state = st) = true := by decide

/-- A seat PEER-HELD until the next value of the house clock. -/
def ticking : State := showing (scr (.peerHeld 31 50001) .free .free)

/-- The advance to the value of an expiry frees the seat, whatever rows wait next (R14, R182). -/
theorem test_advance_frees_the_seat :
    (match exec .houseClockAdvance { ticking with pending := [.voucherExpiry 3, .abort] } with
      | .next t => some (t.seat 4102 a2, t.house.clock)
      | _ => none) = some (some .free, 50001) := by decide +kernel

theorem test_witness_HouseClockAdvances :
    up.pins.reset = false ∧ up.house.counting = true ∧ State.reset.house.counting = false ∧ up.tick.dueEvents = []
      ∧ ([.voucherExpiry 3, .abort] : List Instr) = ([.voucher 3] : List TimedEvent).map TimedEvent.command ++ [.abort]
      ∧ timedRow .abort = none
      ∧ ticking.tick.dueEvents = [.peerHeld 0 a2] ∧ (renewing .opened).dueEvents = [.attendance 0]
      ∧ (paying .paying (tender .authorizing none) (tender .none none) .auth).dueEvents = [.auth 0, .pin 0]
      ∧ (printing 2).dueEvents = [.item 0] ∧ (printerIn .offline (some .probe)).dueEvents = [.probe 0, .interval 0] := by
  decide +kernel

theorem test_witness_MitigationTimers :
    up.pins.reset = false ∧ up.io.ring.mitRequest.timer = none ∧ up.io.ring.mitReport.timer = none
      ∧ (up.modRing fun r => { r with mitRequest := ⟨1, some 5⟩, mitReport := ⟨1, some 5⟩ }).io.ring.mitRequest.timer.isSome = true
      ∧ ((2 : Nat) ≤ (⟨1, some 5⟩ : Mitigation).pending + 1)
      ∧ ((⟨0, none⟩ : Mitigation).pending + 1 < 2 ∧ (5 : Nat) ≠ 0)
      ∧ ((⟨1, some 5⟩ : Mitigation).pending + 1 < 3 ∧ (⟨1, some 5⟩ : Mitigation).pending ≠ 0) := by decide

theorem test_witness_CauseAndMask :
    up.pins.reset = false ∧ (0x18 : Nat) ≠ 0x10 ∧ (0x18 : Nat) ≠ 0x14 ∧ (0x18 : Nat) ∉ ([0x00, 0x08, 0x10, 0x14] : List Nat) := by
  decide

theorem test_witness_HandBack :
    up.io.host.wf = true ∧ ref.descAddr < 2 ^ 64 ∧ ref.statusAddr + ref.statusLen < 2 ^ 64 ∧ ref.descAddr < ref.statusAddr
      ∧ ({ ref with descAddr := 16416 } : RequestRef).statusAddr + ref.statusLen ≤ 16416
      ∧ (∃ b, (Status.plain .done).bytes[0]? = some b) ∧ ref.ring = .request ∧ ({ ref with ring := .boot } : RequestRef).ring = .boot :=
  ⟨by decide, by decide, by decide, by decide, by decide, ⟨_, rfl⟩, rfl, rfl⟩

/-- The part with the report descriptor at the cursor the K4's. -/
def reportReady : State := up.hostOps [.store 8192 [1]]

/-- The part with reports waiting. -/
def waitingReports (n : Nat) : State := up.modRing fun r => { r with waiting := List.replicate n (Report.of .drained .none) }

theorem test_witness_ReportsRaised :
    reportReady.io.host.wf = true ∧ up.house.record = some cfg ∧ cfg.reportBase + 128 * (up.io.ring.reportCursor + 1) ≤ 2 ^ 64
      ∧ reportReady.io.ring.waiting = [] ∧ reportReady.io.host.read 8192 1 = some [1] ∧ up.io.host.read 8192 1 ≠ some [1]
      ∧ (waitingReports 15).io.ring.waiting.length < 16 ∧ (waitingReports 16).io.ring.waiting.length = 16 := by decide

/-- Two reports waiting, and both descriptors from the cursor on the K4's: the looks of one kick, one after another. -/
def twoLooks : Nat → Io
  | 0 => ((waitingReports 2).hostOps [.store 8192 [1], .store 8320 [1]]).io
  | n + 1 =>
    writeReport cfg (Report.of .drained .none) { twoLooks n with ring := { (twoLooks n).ring with waiting := (twoLooks n).ring.waiting.tail } }

theorem test_witness_ReportKick_two_reports :
    (∀ i, i < 2 → reportFree (reportAddr cfg (twoLooks i).ring) (twoLooks i).host = true
        ∧ (twoLooks i).ring.waiting.head? = some (Report.of .drained .none))
      ∧ (twoLooks 2).ring.waiting = [] := by decide +kernel

theorem test_witness_ReportKick :
    up.pins.reset = false ∧ State.reset.house.record = none ∧ up.io.ring.waiting = []
      ∧ (waitingReports 1).io.ring.waiting = [Report.of .drained .none] ∧ reportFree 8192 up.io.host = false
      ∧ reportFree 8192 reportReady.io.host = true
      ∧ reportFree 8320 (writeReport cfg (Report.of .drained .none) reportReady.io).host = false := by decide

theorem test_witness_RequestKick :
    State.reset.house.lock = false ∧ up.house.lock = true ∧ (4096#64 : BitVec 64) ≠ 0
      ∧ (∃ bytes, State.reset.io.host.read 4096 32 = some bytes ∧ (readDescriptor bytes).ownedByK4 = false)
      ∧ (State.reset.hostOps [.failRead 4127]).io.host.read 4096 32 = none
      ∧ (∃ bytes, (State.reset.hostOps [descriptor 4096 1 0 4096]).io.host.read 4096 32 = some bytes
          ∧ (readDescriptor bytes).ownedByK4 = true ∧ (readDescriptor bytes).kind = 1
          ∧ (readDescriptor bytes).blockLength ≤ 4096)
      ∧ 0 ∈ (up.modRing fun r => { r with marks := [0] }).io.ring.marks
      ∧ (∃ bytes, (up.hostOps [descriptor 4096 8 0 0]).io.host.read 4096 32 = some bytes
          ∧ (readDescriptor bytes).ownedByK4 = true ∧ readKind (readDescriptor bytes).kind = some .resume
          ∧ (readDescriptor bytes).blockLength = 0)
      ∧ (up.hostOps [descriptor 4096 8 0 0]).io.host.read 32768 0 = some []
      ∧ (∃ other, (up.hostOps [descriptor 4096 8 0 0]).io.host.read 4128 32 = some other
          ∧ (readDescriptor other).ownedByK4 = false) := by
  refine ⟨rfl, rfl, by decide, ⟨_, rfl, by decide⟩, by decide, ⟨_, rfl, by decide, by decide, by decide⟩, by decide,
    ⟨_, rfl, by decide, by decide, by decide⟩, by decide,
    ⟨_, rfl, by decide⟩⟩

theorem test_witness_StartRequest :
    readKind 9 = none ∧ readKind 8 = some .resume ∧ up.io.host.read 32768 0 = some []
      ∧ (up.hostOps [.failRead 32768]).io.host.read 32768 1 = none ∧ ref.ring = .request
      ∧ ({ ref with ring := .boot } : RequestRef).ring = .boot := by decide

theorem test_witness_SetupTaken :
    (taking State.reset .setup 0 setupBlock).nextTaken .setup = some ⟨ref, .setup, 0, setupBlock⟩
      ∧ State.reset.house.lock = false ∧ readSetup setupBlock = some cfg ∧ State.reset.printing.jobs = [] := by decide

theorem test_witness_SetupRefused :
    (taking up .setup 0 []).nextTaken .setup = some ⟨ref, .setup, 0, []⟩ ∧ up.house.lock = true ∧ readSetup [] = none
      ∧ (taking State.reset .resume 0 []).nextTaken .resume = some ⟨ref, .resume, 0, []⟩ := by decide

theorem test_witness_LoadScreening :
    (taking up .loadScreening 0 loadBlock).nextTaken .loadScreening = some ⟨ref, .loadScreening, 0, loadBlock⟩
      ∧ (∃ x, readScreening ref loadBlock = some x ∧ x.code = 4103) ∧ up.slots[0]? = some none
      ∧ (showing (scr .free .free .free)).slots[1]? = some none ∧ readScreening ref [] = none
      ∧ none ∉ ({ up with slots := List.replicate 16 (some (scr .free .free .free)) } : State).slots
      ∧ up.link.queue.length < 24 := ⟨by decide, ⟨_, rfl, by decide⟩, by decide, by decide, by decide, by decide, by decide⟩

theorem test_witness_UnloadScreening :
    (taking up .unloadScreening 0 [6, 16]).nextTaken .unloadScreening = some ⟨ref, .unloadScreening, 0, [6, 16]⟩
      ∧ readUnload [6, 16] = some 4102 ∧ readUnload [6] = none ∧ up.screening 4102 = none
      ∧ (showing (scr .free .free .free)).screening 4102 = some (scr .free .free .free)
      ∧ (∀ l, ((showing (scr .free .free .free)).lane l).order.state = .empty)
      ∧ (∀ l, ((showing (scr .free .free .free)).lane l).claim.state = .none)
      ∧ ((holding .complete).lane 0).order.code = some 4102 := by decide

/-- The entry of a claim's HOLD of A2 and A3. -/
def holdEntry : Entry := entry (.hold 4102 180 [a2, a3]) .hold (some 0)

theorem test_witness_UnloadScreening_calls_and_claims :
    let call := entry (.censusCall 4102) .censusCall none
    let s := contending (showing { scr .free .free .free with phase := .calling }) call .deferring 0
    let q := contending (claimingSeats .queued) holdEntry
    s.link.callOf 4102 = some call ∧ s.link.onPair 0 = false ∧ NothingOwed s.link
      ∧ (contending s call .sending 0).link.onPair 0 = true
      ∧ ((q .deferring 0).lane 0).claim.state = .queued ∧ (q .deferring 0).link.holdOf 0 = some holdEntry
      ∧ (q .deferring 0).link.onPair 0 = false ∧ (q .sending 0).link.onPair 0 = true
      ∧ ((claimingSeats .contest).lane 0).claim.state = .contest ∧ QueueOpen (claimingSeats .contest).link
      ∧ ((claimingSeats .contest).lane 0).claim.code = 4102 ∧ ((claimingSeats .contest).lane 0).order.state = .empty :=
  ⟨by decide, by decide, ⟨by decide, by decide⟩, by decide, by decide, by decide, by decide, by decide, by decide,
    ⟨by decide, by decide⟩, by decide, by decide⟩

theorem test_witness_LoadCatalog :
    readCatalog [] = none ∧ readCatalog ([1, 0, 0, 0, 0, 0, 0, 0]) = some (1, [])
      ∧ (∀ l, (up.lane l).order.voucherLines = [])
      ∧ ((with0 up { order .opened [] with voucherLines := [voucher 7] } none).lane 0).order.voucherLines ≠ [] := by decide

theorem test_witness_OrderRequest :
    up.cfg.laneCount ≤ 4 ∧ 3 < up.cfg.laneCount ∧ ((up.lane 3).block = none)
      ∧ (∃ words, readOrderBlock (leBytes 2 1 ++ [1, 0] ++ [6, 0, 0, 0]) = .block 1 words)
      ∧ (∃ o c, readOrderBlock [] = .malformed o c) ∧ up.cfg.policy = .lenient
      ∧ ((running up (order .opened []) .quote).lane 0).block ≠ none ∧ ((holding .opened).lane 0).order.tag = some 3310 :=
  ⟨by decide, by decide, by decide, ⟨_, rfl⟩, ⟨_, _, rfl⟩, by decide, by decide, by decide⟩

/-- The state under the STRICT policy. -/
def strict (s : State) : State := { s with house := { s.house with record := some { cfg with policy := .strict } } }

/-- An order with a tender AUTHORIZED. -/
def paid (st : OrderState) : Order := { order st [line a2, line a3] with tender1 := tender .authorized (some 100) }

theorem test_witness_OrderRequest_strict :
    (strict up).cfg.policy = .strict
      ∧ ([.opened, .quoted, .paying, .short, .unwinding] : List OrderState).all (fun st =>
          ((strict (with0 up (paid st) none)).lane 0).order.state = st ∧ ((strict (with0 up (paid st) none)).lane 0).block = none)
      ∧ ((paid .short).voidFrom .authorized).tender1.state = .voiding ∧ (up.lane 0).term.line = .idle
      ∧ (up.lane 0).term.sending = none ∧ (up.lane 0).term.exchange = none
      ∧ ((paying .unwinding (tender .voiding none) (tender .authorized (some 1)) .void).lane 0).term.exchange ≠ none := by decide

theorem test_witness_InquireRequest_AbortRequest :
    (taking up .inquire 3 []).nextTaken .inquire = some ⟨ref, .inquire, 3, []⟩
      ∧ (taking up .abort 3 []).nextTaken .abort = some ⟨ref, .abort, 3, []⟩ ∧ (up.lane 3).order.seatLines.length ≤ 10
      ∧ ((running up (order .committing []) .quote).lane 0).block = some (block .quote .fresh)
      ∧ ((running up (order .paying []) .quote).lane 0).order.state = .paying
      ∧ ((running up (order .quoted []) .quote).lane 0).order.state = .quoted
      ∧ ((running up (paid .short) .quote).lane 0).order.state = .short ∧ ((paid .short).voidFrom .authorized).tender1.state = .voiding
      ∧ ((claimingSeats .contest).lane 0).order.state = .empty
      ∧ ((claimingSeats .contest).lane 0).block = some (block (.pick 4102 [⟨a2, 0⟩, ⟨a3, 1⟩]) .taken)
      ∧ (contending (claimingSeats .queued) holdEntry .backoff 1).link.onPair holdEntry.id = false
      ∧ (claimingSeats .contest).seat 4102 a2 = some (.claiming 0) := by decide

theorem test_witness_ResumeRequest :
    (taking up .resume 0 []).nextTaken .resume = some ⟨ref, .resume, 0, []⟩ ∧ up.pins.supply = false
      ∧ (heldInReset true).pins.supply = true ∧ ([0] : List Byte) ≠ [] := by decide

theorem test_witness_WordEnds :
    ((running up (order .opened []) .quote).lane 0).block = some (block .quote .fresh)
      ∧ (block .quote .fresh).mode = .running 0 .fresh ∧ (block .quote .fresh).words.length ≤ 0 + 1
      ∧ 0 + 1 < ({ block .quote .fresh with words := [.quote, .cancel] } : Block).words.length := by decide

theorem test_witness_WordsRefusedAlike :
    (running up Order.blank (.drop [])).freshWord 0 = some (.drop []) ∧ (OrderWord.drop []).formOk = false
      ∧ (OrderWord.drop [a1]).formOk = true ∧ OrderState.empty ∉ (OrderWord.drop [a1]).takenIn
      ∧ (up.lane 0).claim.state ≠ .withdrawing
      ∧ ({ up with house := { up.house with drain := .draining } } : State).house.drain ≠ .clear
      ∧ OrderState.quoted ∈ (OrderWord.pay (some 999999)).takenIn ∧ (OrderWord.pay (some 999999)).formOk = true
      ∧ (OrderWord.pay (some 1000000)).formOk = false := by decide

/-- The state with a queue of `n` RELEASEs, in the classes given. -/
def crowded (s : State) (n : Nat) (cls : Nat → Machine.Class) : State :=
  s.modLink fun k =>
    { k with queue := (List.range n).map fun i => ⟨i, .release 4102 [a1], cls i, none, none, false, none⟩, nextId := n }

/-- An EMPTY order that holds its block's tag. -/
def fresh : Order := { Order.blank with tag := some 3310 }

theorem test_witness_PickTaken :
    let s := running (showing (scr .free .free .free)) fresh (.pick 4102 [⟨a2, 0⟩, ⟨a3, 1⟩])
    s.freshWord 0 = some (.pick 4102 [⟨a2, 0⟩, ⟨a3, 1⟩]) ∧ (OrderWord.pick 4102 [⟨a2, 0⟩, ⟨a3, 1⟩]).formOk = true
      ∧ (s.lane 0).claim.state ≠ .withdrawing ∧ (s.lane 0).order.state ∈ (OrderWord.pick 4102 []).takenIn
      ∧ s.screening 4102 = some (scr .free .free .free) ∧ s.house.clock < 60000 + 900 ∧ (s.lane 0).order.screening = none
      ∧ s.link.state = .active ∧ (scr .free .free .free).seat a2 = some .free ∧ (scr .free .free .free).offers 1 = true
      ∧ s.link.queue.length < 24
      ∧ 24 ≤ (crowded s 24 fun _ => .hold).link.queue.length := by decide

theorem test_witness_PickRefused :
    let s := running (showing (scr .free (.sold 7) .free)) fresh (.pick 4102 [⟨a1, 0⟩])
    let x := scr .free (.sold 7) .free
    s.freshWord 0 = some (.pick 4102 [⟨a1, 0⟩]) ∧ s.screening 1 = none ∧ x.seat a1 = some .blocked
      ∧ x.seat a3 = some (.sold 7) ∧ x.seat ⟨0, 5⟩ = none ∧ x.offers 5 = false
      ∧ ({ x with sync := .syncing } : Screening).sync = .syncing
      ∧ ({ x with start := 49100 } : Screening).start + x.lateOffset ≤ s.house.clock
      ∧ ((holding .opened).lane 0).order.code ≠ some 1
      ∧ 10 < (order .opened (List.replicate 10 (line a2))).seatLines.length + 1
      ∧ ((claimingSeats .withdrawing).lane 0).claim.state = .withdrawing := by decide

theorem test_witness_SetTypeWord :
    let s := running (holding .quoted) (order .quoted [line a2]) (.setType a2 1)
    s.freshWord 0 = some (.setType a2 1) ∧ (OrderWord.setType a2 1).formOk = true
      ∧ (s.lane 0).order.state ∈ (OrderWord.setType a2 1).takenIn ∧ (s.lane 0).order.tag.isSome = true
      ∧ (s.lane 0).order.seatLines.find? (fun v => v.seat = a2) = some (line a2)
      ∧ (s.lane 0).order.code.bind s.screening = some (scr (.held 0) (.held 0) .free)
      ∧ (scr (.held 0) (.held 0) .free).offers 1 = true ∧ (scr (.held 0) (.held 0) .free).offers 5 = false
      ∧ (line a2).type = 0 ∧ (∀ v ∈ (s.lane 0).order.seatLines, v.seat ≠ a3) := by decide

theorem test_witness_VoucherWords :
    let s := { running up fresh (.addVoucher 7 8) with vouchers := { up.vouchers with catalog := [⟨7, 450, true, 100, 8, 0, 0⟩] } }
    s.freshWord 0 = some (.addVoucher 7 8) ∧ (OrderWord.addVoucher 7 8).formOk = true ∧ (s.lane 0).order.tag.isSome = true
      ∧ s.vouchers.catalog.find? (fun i => i.code = 7) = some ⟨7, 450, true, 100, 8, 0, 0⟩
      ∧ (∀ i ∈ s.vouchers.catalog, i.code ≠ 9) ∧ (s.lane 0).order.voucherLines.length + 8 ≤ 8 ∧ 0 + 0 + 8 ≤ 8
      ∧ 8 < ([voucher 7] : List VoucherLine).length + 8
      ∧ (running up { order .opened [] with voucherLines := [voucher 7, voucher 8] } (.removeVoucher 7 1)).freshWord 0
          = some (.removeVoucher 7 1)
      ∧ ([voucher 7, voucher 8] : List VoucherLine).countP (fun v => v.item = 7) = 1 ∧ (voucher 7).code = none
      ∧ ([voucher 8] : List VoucherLine).countP (fun v => v.item = 7) < 1 := by decide

theorem test_witness_QuoteWord :
    (running (holding .opened) (order .opened [line a2]) .quote).freshWord 0 = some .quote
      ∧ OrderState.opened ∈ OrderWord.quote.takenIn ∧ (order .opened [line a2]).seatLines ≠ []
      ∧ (priceOrder (some (scr .free .free .free)) [] cfg [line a2] []).quote.total ≤ 999999
      ∧ 999999 < (priceOrder none [⟨1, 65535, false, 0, 99, 0, 0⟩] cfg [] (List.replicate 16 (voucher 1))).quote.total := by
  decide

theorem test_witness_DropWord :
    let s := running (holding .quoted) (order .quoted [line a2, line a3]) (.drop [a3])
    s.freshWord 0 = some (.drop [a3]) ∧ (OrderWord.drop [a3]).formOk = true ∧ (s.lane 0).order.code = some 4102
      ∧ (s.lane 0).order.state ∈ (OrderWord.drop [a3]).takenIn ∧ (s.lane 0).order.tag.isSome = true
      ∧ a3 ∈ (s.lane 0).order.seatLines.map SeatLine.seat ∧ a4 ∉ (s.lane 0).order.seatLines.map SeatLine.seat
      ∧ s.seat 4102 a3 = some (.held 0) ∧ s.link.queue.length < 32 := by decide

theorem test_witness_PayWord :
    let o := { order .quoted [line a2, line a3] with quote := some (quoteOf 999999), quoteCurrent := true }
    let s := running (holding .quoted) o (.pay (some 999999))
    s.freshWord 0 = some (.pay (some 999999)) ∧ (OrderWord.pay (some 999999)).formOk = true
      ∧ (s.lane 0).order.state ∈ (OrderWord.pay none).takenIn ∧ (s.lane 0).order.quote = some (quoteOf 999999)
      ∧ 0 < (quoteOf 999999).total ∧ (quoteOf 0).total = 0 ∧ (∀ v ∈ o.seatLines, v.lost = false)
      ∧ (∀ v ∈ o.seatLines, s.seat 4102 v.seat = some (.held 0)) ∧ o.tender1.state ≠ .authorized
      ∧ (order .quoted []).quoteCurrent = false := by decide

theorem test_witness_PrintWord :
    let s := running up (order .sold [line a2]) .print
    s.freshWord 0 = some .print ∧ (order .sold [line a2]).progress = none ∧ s.printing.jobs = []
      ∧ (∀ p, (s.printer p).enabled = false ∨ (s.printer p).state ≠ .ready)
      ∧ ((printerIn .ready none).printer 0).state = .ready ∧ ((printerIn .ready none).printer 1).state ≠ .ready
      ∧ ({ order .sold [] with progress := some (.failed [⟨.receipt, none, .pending, 0, none⟩]) } : Order).progress
          = some (.failed [⟨.receipt, none, .pending, 0, none⟩])
      ∧ (line a2 ∈ (order .sold [line a2]).seatLines) ∧ (order .sold [line a2]).code = some 4102
      ∧ (showing (scr .free .free .free)).screening 4102 = some (scr .free .free .free)
      ∧ (∀ p, (((up.modPrinter 0 fun x => { x with state := .ready }).modPrinter 1 fun x => { x with state := .ready }).printer p).state
          = .ready)
      ∧ (∀ p, (up.printer p).enabled = true) := by decide

theorem test_witness_FinishAndCancel :
    (running up (order .complete []) .finish).freshWord 0 = some .finish
      ∧ ([.empty, .opened, .quoted, .paying, .unwinding, .unresolved] : List OrderState).all (fun st =>
          (running up (order st []) .cancel).freshWord 0 = some .cancel
            ∧ ((running up (order st []) .cancel).lane 0).order.state = st) = true
      ∧ ((paying .unwinding (tender .voiding none) (tender .authorized (some 1)) .void).lane 0).term.exchange ≠ none
      ∧ ((running up (paid .short) .cancel).lane 0).order.state = .short
      ∧ ((running up (paid .short) .cancel).lane 0).term = { Terminal.off with line := .idle }
      ∧ ((paid .short).voidFrom .authorized).tender1.state = .voiding := by decide

theorem test_witness_Discounts_PricesAndTaxes :
    (800 : Nat) ≤ 5000 ∧ (∃ p, p = priceOrder (some (scr .free .free .free)) [] cfg [line a2] [voucher 7]) ∧
      capDiscounts 20 [100, 120, 150] = ([100, 120, 130], 0) ∧ (130 : Nat) < 150 := ⟨by decide, ⟨_, rfl⟩, by decide, by decide⟩

/-- A station other than 12 is heard. -/
theorem hears {s : State} (h : s.link = up.link) (n : Nat) (r : 1 ≤ n ∧ n ≤ 250) (o : n ≠ 12) : Hears s n := by
  refine ⟨?_, ?_, ?_, r, ?_⟩ <;> rw [h] <;> simp [up] <;> first | decide | omega

theorem test_witness_PeerReleaseAndSale_PeerHolds :
    let s := showing (scr .free (.peerHeld 31 50000) (.sold 7))
    Live s ∧ Hears s 250 ∧ (Notice.release 4102 [a1, a2, a3, a4]).ok = true ∧ (Notice.sale 65535 [⟨25, 40⟩]).ok = true
      ∧ s.screening 4102 ≠ none ∧ NoLocalSeat s 4102 [a1, a2, a3, a4] ∧ (Notice.hold 4102 3600 [a2]).ok = true
      ∧ (Notice.object 4102 250 [a2]).ok = true ∧ (Notice.censusReply 4102 .held 12 0 [a2]).ok = true
      ∧ (Notice.censusReply 4102 .sold 12 0 [a2]).ok = true ∧ s.link.station = some 12 ∧ NoPrintingSeat s [a1, a2, a3, a4] :=
  ⟨rfl, hears (by decide) _ (by decide) (by decide), by decide, by decide, by decide, by unfold NoLocalSeat; decide, by decide, by decide,
    by decide, by decide, by decide, by unfold NoPrintingSeat; decide⟩

theorem test_witness_LocalSeatsDefended :
    Live (holding .sold) ∧ Hears (holding .sold) 1 ∧ AllHeld (holding .sold) 0 4102 [a3, a2]
      ∧ (Notice.hold 4102 1 [a3, a2]).ok = true ∧ QueueOpen (holding .sold).link ∧ OrderState.sold.committingOrLater = true
      ∧ (Notice.object 4102 12 [a3, a2]).ok = true ∧ (Notice.object 4102 13 [a3, a2]).ok = true
      ∧ (Notice.sale 4102 [a3, a2]).ok = true ∧ (Notice.censusReply 4102 .sold 12 0 [a3, a2]).ok = true :=
  ⟨rfl, hears (by decide) _ (by decide) (by decide), by unfold AllHeld; decide, by decide, ⟨by decide, by decide⟩, by decide, by decide,
    by decide, by decide, by decide⟩

theorem test_witness_LocalSeatsDefended_contest_and_printing :
    let p := with0 (showing (scr (.sold 12) (.sold 12) .free)) (order .printing [line a2, line a3]) none
    InContest (claimingSeats .contest) 0 4102 [a3, a2] ∧ QueueOpen (claimingSeats .contest).link
      ∧ Hears (claimingSeats .contest) 250 ∧ (p.lane 0).order.state = .printing ∧ (p.lane 0).order.code = some 4102
      ∧ (∀ r ∈ [a3, a2], r ∈ (p.lane 0).order.liveSeats ∧ p.seat 4102 r = some (.sold p.cfg.station))
      ∧ (∀ k, k ≠ 0 → (p.lane k).order.state ≠ .printing) :=
  ⟨⟨by decide, by decide, by decide⟩, ⟨by decide, by decide⟩, hears (by decide) _ (by decide) (by decide), by decide, by decide,
    by decide, by decide⟩

theorem test_witness_SeatsLostToPeers :
    let s := claimingSeats .contest
    Live s ∧ Hears s 31 ∧ (Notice.sale 4102 [a3, a4]).ok = true
      ∧ (s.lane 0).block = some (block (.pick 4102 [⟨a2, 0⟩, ⟨a3, 1⟩]) .taken)
      ∧ ((claimingSeats .queued).lane 0).claim.state = .queued ∧ QueueOpen s.link
      ∧ ([a2, a3].filter fun r => [a3, a4].contains r) = [a3]
      ∧ (∀ r ∈ [a2, a3], s.seat 4102 r = some (.claiming 0)) ∧ s.seat 4102 a4 = some .free
      ∧ AllHeld (holding .unwinding) 0 4102 [a3] ∧ ((holding .unwinding).lane 0).order.tag = some 3310
      ∧ (Notice.object 4102 12 [a3]).ok = true ∧ (Notice.hold 4102 180 [a3]).ok = true ∧ NothingOwed s.link
      ∧ (contending (claimingSeats .queued) holdEntry .deferring 0).link.holdOf 0 = some holdEntry ∧ NoPrintingSeat s [a3, a4] :=
  ⟨rfl, hears (by decide) _ (by decide) (by decide), by decide, rfl, rfl, ⟨by decide, by decide⟩, by decide, by decide, by decide,
    by unfold AllHeld; decide, rfl, by decide, by decide, ⟨rfl, by decide⟩, by decide, by unfold NoPrintingSeat; decide⟩

theorem test_witness_CensusAnswered :
    let s := holding .opened
    s.screening 4102 = some (scr (.held 0) (.held 0) .free) ∧ (Notice.censusCall 4102).ok = true
      ∧ s.link.queue.length + (s.censusAnswer (scr (.held 0) (.held 0) .free)).length ≤ 24
      ∧ (s.censusAnswer (scr (.held 0) (.held 0) .free)).length = 1 := by decide

/-- A record of voucher 12/5000. -/
def record (st : VoucherStatus) (printed : Bool) (by' : Option Nat) : VoucherRecord :=
  ⟨⟨12, 5000⟩, 7, some 4102, 50000, st, printed, by'⟩

theorem test_witness_VoucherNotices :
    Live up ∧ Hears up 200 ∧ (Notice.verify ⟨12, 1048575⟩).ok = true ∧ up.link.station = some 12 ∧ QueueOpen up.link
      ∧ (∀ r ∈ up.vouchers.table, r.code ≠ ⟨12, 5000⟩)
      ∧ ([record .void true none, record .issued true none, record .expired true none] : List VoucherRecord)
          = [record .void true none, record .issued true none] ++ record .expired true none :: []
      ∧ (record .issued false none).printed = false ∧ (record .redeemed true (some 200)).redeemedBy = some 200
      ∧ (record .issued true none).expiry ≤ up.house.clock
      ∧ ({ up with link := { up.link with state := .mute } } : State).link.state = .mute :=
  ⟨rfl, hears (by decide) _ (by decide) (by decide), by decide, rfl, ⟨by decide, by decide⟩, by decide, by decide, rfl, rfl, by decide, rfl⟩

theorem test_witness_VoucherNotices_issue_and_reissue :
    let o := { order .sold [line a2] with voucherLines := [voucher 7, { voucher 7 with code := some ⟨12, 5000⟩ }] }
    let s := with0 (showing (scr (.sold 12) .free .free)) o none
    (s.lane 0).order.code = some 4102 ∧ s.screening 4102 = some (scr (.sold 12) .free .free)
      ∧ ({ o with screening := none } : Order).code = none
      ∧ (s.lane 0).order.voucherLines[1]? = some { voucher 7 with code := some ⟨12, 5000⟩ }
      ∧ (1 : Nat) < o.voucherLines.length ∧ 5000 + o.voucherLines.length ≤ 1048576
      ∧ ([record .issued false none] : List VoucherRecord) = [] ++ record .issued false none :: [] ∧ s.vouchers.table.length < 1024
      ∧ 1024 ≤ (List.replicate 1024 (record .issued true none)).length ∧ (record .void true none).status ≠ .issued
      ∧ (record .issued true none).expiry ≤ s.house.clock
      ∧ s.house.clock < ({ record .issued true none with expiry := 50001 } : VoucherRecord).expiry := by decide +kernel

theorem test_witness_Reception :
    Live up ∧ Hears up 9 ∧ ([1, 2, 3, 4, 5, 6, 7] : List Byte).length < 8
      ∧ readReception [1, 2, 3, 4, 5, 6, 7, 8] = .badCrc
      ∧ (up.modLink fun k => { k with receiveErrors := 7 }).link.receiveErrors = 7
      ∧ (∀ x, some x ∈ up.slots → x.sync = .ready → x.phase ≠ .idle) ∧ State.reset.link.state = .off
      ∧ Instr.notice (.censusCallReceived 12 1) = some (12, .censusCall 1) ∧ up.screening 1 = none
      ∧ up.link.station = some 12 ∧ up.link.station ≠ some (⟨13, 1⟩ : VCode).station ∧ (Notice.redeem ⟨13, 1⟩).ok = true :=
  ⟨rfl, hears (by decide) _ (by decide) (by decide), by decide, by decide +kernel, rfl,
    fun x h => absurd h (by simp [up, State.reset, State.freeSlots]), rfl, rfl, by decide, rfl, by decide, by decide⟩

theorem test_witness_NoticeRoundTrip :
    (Notice.censusReply 65535 .sold 250 0 [⟨25, 40⟩]).ok = true ∧ (Notice.hold 1 3600 [a1, ⟨25, 40⟩]).ok = true := by decide

/-- An entry that announces the giving up of A2. -/
def releaseEntry : Entry := entry (.release 4102 [a2]) .release (some 0)

theorem test_witness_NextNotice :
    up.link.queue = [] ∧ ((contending up releaseEntry .idle 0).link.queue = [] ++ releaseEntry :: [])
      ∧ (contending up releaseEntry .idle 0).link.contention.phase = .idle ∧ up.link.state = .active
      ∧ (contending up releaseEntry .deferring 0).link.contention.phase ≠ .idle ∧ up.pins.reset = false
      ∧ (heldInReset true).link = Link.reset ∧ (heldInReset true).lanes = State.reset.lanes := by decide

theorem test_witness_NextNotice_offers :
    let s := crowded up 32 fun i => if i = 31 then .renewDemand else if i % 2 = 0 then .release else .voucherState
    (∃ older v, s.link.queue = older ++ v :: s.link.queue.drop 30 ∧ Evictable s.link .object v ∧ v.cls = .voucherState
        ∧ (∀ x ∈ older, Evictable s.link .object x → x.cls.rank ≤ v.cls.rank)
        ∧ ∀ x ∈ s.link.queue.drop 30, Evictable s.link .object x → x.cls.rank < v.cls.rank)
      ∧ (crowded up 23 fun _ => .hold).link.queue.length < 24 ∧ 24 ≤ (crowded up 24 fun _ => .hold).link.queue.length
      ∧ (crowded up 31 fun _ => .hold).link.queue.length < 32
      ∧ (∀ x ∈ (crowded up 32 fun _ => .sale).link.queue, ¬Evictable (crowded up 32 fun _ => .sale).link .sale x)
      ∧ (s.link.queue[31]?.map Entry.cls = some .renewDemand) ∧ s.link.contention.entry = none
      ∧ (contending (renewing .opened) (entry (.renew 4102 180 [a2]) .renewNormal (some 0)) .sending 0).link.onPair 0 = true
      ∧ (renewing .opened).renewalSeats 0 ≠ [] ∧ (renewing .empty).renewalSeats 1 = [] := by
  refine ⟨⟨(crowded up 32 fun i => if i = 31 then .renewDemand else if i % 2 = 0 then .release else .voucherState).link.queue.take 29,
    ⟨29, .release 4102 [a1], .voucherState, none, none, false, none⟩, ?_, ?_, ?_, ?_, ?_⟩, ?_, ?_, ?_, ?_, ?_, ?_, ?_, ?_, ?_⟩ <;>
    (try unfold Evictable) <;> decide +kernel

theorem test_witness_ContentionEvents :
    Live up ∧ ([.deferring, .sending, .backoff, .jamming] : List Phase).all (fun p =>
        (contending up releaseEntry p 15).link.contention.phase = p) = true
      ∧ (contending up releaseEntry .jamming 15).link.current = some releaseEntry ∧ releaseEntry.leaving = false
      ∧ (∀ x ∈ (contending up releaseEntry .jamming 15).link.queue, x.kept = none)
      ∧ up.link.station = some 12 ∧ NothingOwed up.link ∧ ({ releaseEntry with leaving := true } : Entry).notice.isHold = false
      ∧ ((claimingSeats .withdrawing).lane 0).claim.state = .withdrawing ∧ holdEntry.notice.isHold = true
      ∧ (∀ w, (claimingSeats .withdrawing).runningWord 0 ≠ some (w, .waiting))
      ∧ (claimingSeats .withdrawing).seat 4102 a2 = some (.claiming 0) ∧ 256 % 2 ^ min 15 8 = 0 ∧ 255 % 2 ^ min 15 8 = 255 :=
  ⟨rfl, by decide, by decide, rfl, by decide, rfl, ⟨rfl, by decide⟩, rfl, rfl, rfl,
    fun w h => by simp [show (claimingSeats .withdrawing).runningWord 0 = some (.pick 4102 [⟨a2, 0⟩, ⟨a3, 1⟩], .taken) by decide] at h,
    by decide, by decide, by decide⟩

/-- The state with the abort count given. -/
def aborted (n : Nat) (s : State) : State := s.modLink fun k => { k with aborts := n }

theorem test_witness_Aborts :
    (contending up releaseEntry .jamming 16).link.current = some releaseEntry
      ∧ (contending up releaseEntry .jamming 16).link.contention.collisions = 16
      ∧ (contending up releaseEntry .sending 0).link.contention.phase = .sending
      ∧ (aborted 2 up).link.aborts + 1 = 3 ∧ up.link.aborts + 1 < 3 ∧ (entry (.sale 1 [a1]) .sale none).notice.isSale = true
      ∧ (entry (.renew 1 1 [a1]) .renewNormal none).notice.isRenew = true ∧ (∀ l, up.link.owed.get l = false)
      ∧ up.link.overflow = none
      ∧ (entry (.hold 4102 180 [a2, a3]) .hold (some 0)).notice.isHold = true
      ∧ ((claimingSeats .queued).lane 0).claim.state = .queued ∧ (claimingSeats .queued).seat 4102 a2 = some (.claiming 0)
      ∧ (contending up (entry (.object 4102 9 [a2]) .object (some 0)) .sending 0).link.current
          = some (entry (.object 4102 9 [a2]) .object (some 0))
      ∧ (contending up (entry (.censusCall 4102) .censusCall none) .jamming 16).link.current
          = some (entry (.censusCall 4102) .censusCall none)
      ∧ (showing { scr .free .free .free with sync := .syncing, phase := .calling, request := some ref }).screening 4102
          = some { scr .free .free .free with sync := .syncing, phase := .calling, request := some ref } := by
  decide

theorem test_witness_NoticeTransmitted :
    (contending (renewing .opened) (entry (.renew 4102 180 [a2, a3]) .renewNormal (some 0)) .sending 0).link.current
        = some (entry (.renew 4102 180 [a2, a3]) .renewNormal (some 0))
      ∧ (renewing .opened).renewalSeats 0 = [a2, a3] ∧ ((renewing .opened).lane 0).renewal ≠ none
      ∧ ((renewing .opened).lane 0).order.tag = some 3310 ∧ NothingOwed up.link
      ∧ ((up.modLane 0 fun x => { x with sale := some ⟨0, [a2]⟩ }).lane 0).sale = some ⟨0, [a2]⟩
      ∧ (entry (.censusCall 4102) .censusCall none).leaving = false ∧ releaseEntry.notice.isHold = false :=
  ⟨by decide, by decide, by decide, by decide, ⟨rfl, by decide⟩, by decide, by decide, by decide⟩

theorem test_witness_NoticeTransmitted_owners_and_places :
    ((claimingSeats .withdrawing).lane 0).claim.seats ≠ [] ∧ ((claimingSeats .withdrawing).lane 0).claim.state = .withdrawing
      ∧ ({ entry (.renew 4102 180 [a2]) .renewNormal (some 0) with kept := some ⟨.renew 4102 180 [a2, a3], .renewNormal⟩ } :
          Entry).notice.isRenew = true
      ∧ (up.modLink fun k => { k with overflow := some (entry (.sale 4102 [a2]) .sale (some 1)) }).link.overflow ≠ none
      ∧ ((renewing .opened).modLink fun k => { k with owed := k.owed.set 0 true }).link.owed.get 0 = true
      ∧ (∀ j, j ≠ 0 → ((renewing .opened).modLink fun k => { k with owed := k.owed.set 0 true }).link.owed.get j = false)
      ∧ (renewing .opened).renewalSeats 0 ≠ [] := by decide

theorem test_witness_SeatTimers :
    let x := { scr (.peerHeld 31 50000) .free .free with phase := .listening, censusTimer := some 1 }
    (showing x).slots[0]? = some (some x) ∧ (showing x).screening x.code = some x
      ∧ ({ x with sync := .syncing, request := some ref } : Screening).request = some ref
      ∧ ((claimingSeats .contest).lane 0).claim.contestTimer ≠ none
      ∧ (claimingSeats .contest).runningWord 0 = some (.pick 4102 [⟨a2, 0⟩, ⟨a3, 1⟩], .taken)
      ∧ ((claimingSeats .contest).lane 0).claim.holdEnd = some ⟨49990, 1000⟩
      ∧ (claimingSeats .contest).link.renewOf 0 (some 3310) = none := by decide

theorem test_witness_RenewalMarks :
    ((renewing .opened).lane 0).renewal = some ⟨⟨49000, 1000⟩, 0⟩ ∧ (renewing .opened).cfg.holdLifetime = 180
      ∧ 90999 < 1000 + 500 * 180 ∧ 1000 + 500 * 180 ≤ 91000 ∧ 1000 + 750 * 180 ≤ 136000 ∧ 1000 + 1000 * 180 ≤ 181000
      ∧ (renewing .opened).link.renewOf 0 (some 3310) = none ∧ (renewing .opened).renewalSeats 0 ≠ []
      ∧ ((renewing .opened).lane 0).order.code = some 4102 ∧ ((renewing .opened).lane 0).sale = none
      ∧ (contending (renewing .opened) (entry (.renew 4102 180 [a2]) .renewNormal (some 0)) .deferring 0).link.renewOf 0 (some 3310)
          = some (entry (.renew 4102 180 [a2]) .renewNormal (some 0))
      ∧ ([1, 2] : List Nat).all (fun n => (((renewing .opened).modLane 0 fun y =>
          { y with renewal := some ⟨⟨49000, 1000⟩, n⟩ }).lane 0).renewal = some ⟨⟨49000, 1000⟩, n⟩) := by decide

theorem test_witness_AttendanceLapse :
    ((renewing .opened).lane 0).attendance = some 50000 ∧ (50000 : Nat) ≤ (renewing .opened).house.clock
      ∧ ((renewing .opened).modLane 0 fun x => { x with attendance := some 50001 }).house.clock < 50001
      ∧ ((renewing .quoted).lane 0).block = none ∧ QueueOpen (renewing .quoted).link :=
  ⟨by decide, by decide, by decide, by decide, ⟨by decide, by decide⟩⟩

theorem test_witness_AuthExchange :
    let s := paying .paying (tender .authorizing none) (tender .none none) .auth
    (s.lane 0).term.exchange = some ⟨⟨.auth, 3310, .one, 2000⟩, 50000⟩ ∧ (s.lane 0).term.line = .awaiting
      ∧ s.runningWord 0 = some (.pay none, .taken) ∧ (TerminalRx.result 3310 1 .declined 0 0).ok = true
      ∧ (TerminalRx.result 3310 1 .approved 999999 0).ok = true ∧ (50000 : Nat) ≤ s.house.clock
      ∧ (∀ v ∈ (s.lane 0).order.seatLines, v.lost = false ∧ s.seat 4102 v.seat = some (.held 0))
      ∧ ((s.lane 0).order.modTender .one fun t => { t with state := .authorized, approved := some 2000 }).due = 0
      ∧ ((s.lane 0).order.modTender .one fun t => { t with state := .authorized, approved := some 1999 }).due = 1
      ∧ (scanFrames false .hunt [some 0xA5, none]).filterMap readTerminal = []
      ∧ ((paying .paying (tender .authorized (some 1)) (tender .authorizing none) .auth).lane 0).order.tender1.state = .authorized
      ∧ ((up.modTerm 0 fun t => { t with sending := some ⟨.auth, 1, .two, 1⟩ }).lane 0).term.sending = some ⟨.auth, 1, .two, 1⟩ := by
  decide

theorem test_witness_CaptureExchange :
    let s := paying .committing (tender .capturing (some 2000)) (tender .authorized (some 1)) .capture
    (s.lane 0).term.exchange = some ⟨⟨.capture, 3310, .one, 2000⟩, 50000⟩ ∧ codeOk 3310 = true
      ∧ ((s.lane 0).order.tender TenderIx.one.other).state = .authorized ∧ (tender .none none).state ≠ .authorized
      ∧ (50000 : Nat) ≤ s.house.clock ∧ (TerminalRx.result 3310 1 .terminalError 0 0).ok = true
      ∧ s.seat 4102 a2 = some (.held 0) := by decide

theorem test_witness_VoidExchange :
    let s := paying .unwinding (tender .voiding none) (tender .voided none) .void
    (s.lane 0).term.exchange = some ⟨⟨.void, 3310, .one, 2000⟩, 50000⟩ ∧ (s.lane 0).order.state = .unwinding
      ∧ (s.lane 0).term.cause = some .timeout ∧ s.runningWord 0 = some (.pay none, .taken) ∧ (s.lane 0).order.lapseHeld = false
      ∧ (tender .voiding none).state = .voiding ∧ ({ (s.lane 0).order with cancelPending := true } : Order).cancelPending = true
      ∧ ((paying .unresolved (tender .unresolved none) (tender .none none) .void).lane 0).term.pinDeadline = some 50000
      ∧ (50000 : Nat) ≤ s.house.clock := by decide

theorem test_witness_PrinterMessages :
    ((printerIn .offline none).printer 0).enabled = true ∧ ((printerIn .offline none).printer 0).sending = some .probe
      ∧ ((printerIn .faulted (some .probe)).printer 0).outstanding = some ⟨.probe, 50000⟩ ∧ up.linesClear 0 = true
      ∧ ({ up with pins := { Pins.quiet with ports := ⟨⟨true, false, false⟩, PortLines.quiet⟩ } } : State).linesClear 0 = false
      ∧ up.printing.jobs = [] ∧ ((printerIn .ready none).printer 0).job = none
      ∧ ((printing 2).printer 0).job = some 0
      ∧ (([⟨.stub, some 0, .done, 0, none⟩, ⟨.receipt, none, .sent, 2, none⟩] : List Item).set 1 ⟨.receipt, none, .done, 2, none⟩).all
          (fun e => e.state = .done) = true
      ∧ (scanFrames true .hunt [some 0xA5, some 0, none]).filterMap readPrinter = [] := by decide

/-- The part with printer 0 recovering while jobs of lanes 0, 1 and 2 wait, at these places and start times. -/
def recovering (jobs : List (Place × Option Nat × Nat)) : State :=
  let s := printerIn .faulted (some .probe)
  { s with
    printing :=
      { s.printing with
        jobs :=
          (jobs.zip ([0, 1, 2] : List LaneIx)).map fun (j, l) =>
            ⟨l, 3310, some (4102, j.2.2), [⟨.receipt, none, .pending, 0, none⟩], j.1, j.2.1⟩ } }

/-- The earliest returned job first, then the oldest urgent one, then the oldest (R154). -/
theorem test_assignment_order :
    ([[(.waiting, none, 99999), (.returned, some 1, 50000), (.returned, some 0, 99999)],
      [(.waiting, none, 99999), (.waiting, none, 50600), (.waiting, none, 50000)],
      [(.waiting, none, 99999), (.waiting, none, 99999)]] : List (List (Place × Option Nat × Nat))).map (fun jobs =>
        match exec (.presentReceived 0) (recovering jobs) with
        | .next t => (t.printer 0).job
        | _ => none) = [some 2, some 1, some 0] := by decide +kernel

theorem test_witness_PrinterTimersAndInputs :
    ((printerIn .offline (some .probe)).printer 0).outstanding = some ⟨.probe, 50000⟩ ∧ (50000 : Nat) ≤ up.house.clock
      ∧ ((printerIn .offline none).printer 0).interval = some 50000 ∧ (printing 2).isReady (1 - 0) = false
      ∧ ((printing 2).printer 0).job = some 0
      ∧ ((printing 2).printer 0).outstanding = some ⟨.item ⟨0, 1, 2⟩ (.stub ⟨12, 1⟩ 7 60000 450 0), 50000⟩
      ∧ up.pins.ports.get 0 ≠ ⟨true, false, false⟩ ∧ up.pins.ports.get 0 ≠ ⟨false, false, true⟩
      ∧ (PerPort.get ⟨(⟨true, false, false⟩ : PortLines), PortLines.quiet⟩ 0) ≠ PortLines.quiet
      ∧ (up.pins.ports.get 0).paperLow = false := by decide

theorem test_witness_DrainedReport :
    let s := { up with house := { up.house with drain := .draining } }
    s.house.drain = .draining ∧ up.house.drain ≠ .draining ∧ s.link.queue = [] ∧ s.link.contention.entry = none
      ∧ s.link.overflow = none ∧ (∀ l, (s.lane l).order.state ∈ ([.empty, .sold, .complete, .unresolved] : List OrderState))
      ∧ (contending up releaseEntry .sending 0).link.queue ≠ []
      ∧ ((holding .opened).lane 0).order.state ∉ ([.empty, .sold, .complete, .unresolved] : List OrderState) := by decide

/-! ### One state and operands for all the hypotheses of a clause, where a clause has many -/

/-- What holds of the one value of an option holds of every value of it. -/
theorem of_some {α : Type} {p : α → Prop} {o : Option α} {a : α} (h : o = some a) (hp : p a) : ∀ e, o = some e → p e := by
  intro e he; rw [h] at he; cases he; exact hp

/-- The PICK of the claims below. -/
def pickWord : OrderWord := .pick 4102 [⟨a2, 0⟩, ⟨a3, 1⟩]

/-- A claim in flight of an order in a state, with its HOLD in contention in a phase where it is QUEUED. -/
def inFlight (st : OrderState) (c : ClaimState) (p : Phase) : State :=
  let s :=
    (claimingSeats c).modLane 0 fun x =>
      { x with
        order := { order st [] with screening := if st = .empty then none else some ⟨0, 4102⟩ }
        attendance := if st = .empty then none else some 50000 }
  if c = .queued then contending s holdEntry p 0 else s

/-- The same with `n` RELEASEs queued besides, and orders of other lanes in OPEN and SHORT, with no claim. -/
def drainMeets (st : OrderState) (c : ClaimState) (p : Phase) (n : Nat) : State :=
  (((inFlight st c p).modLink fun k =>
      { k with
        queue := k.queue ++ (List.range n).map fun i => ⟨i + 1, .release 9 [a1], .renewDemand, none, none, false, none⟩
        nextId := n + 1 }).modLane 1 fun x => { x with order := order .opened [line a4] }).modLane 2
    fun x => { x with order := paid .short }

theorem test_meets_DrainLatched_claim :
    (([(.empty, .queued, .deferring, 31), (.opened, .queued, .backoff, 3), (.quoted, .contest, .idle, 32)] :
        List (OrderState × ClaimState × Phase × Nat)).all fun (st, c, p, n) =>
      let s := drainMeets st c p n;
      Live s ∧ s.house.drain = .clear ∧ (s.lane 0).claim.state = c
        ∧ (c = .queued ∧ s.link.holdOf 0 = some holdEntry ∧ s.link.onPair holdEntry.id = false ∨ s.link.holdOf 0 = none)
        ∧ (s.lane 0).claim.seats.map ClaimSeat.seat = [a2, a3]
        ∧ (s.lane 0).order.state ∈ ([.empty, .opened, .quoted] : List OrderState)
        ∧ ((s.lane 0).order.code = none ∨ (s.lane 0).order.code = some (s.lane 0).claim.code)
        ∧ (s.lane 0).block = some (block pickWord .taken)
        ∧ (∀ k, k ≠ 0 → (s.lane k).claim.state = .none ∧ (s.lane k).block = none)
        ∧ ((s.link.state = .active ∧ s.link.queue.length < 24) ∨ s.link.queue.all (fun e =>
          match e.notice with
          | .censusCall _ | .object _ _ _ => false
          | _ => true) = true)) = true := by decide

/-- Two QUEUED claims at a full queue, the lower lane with a HELD seat to release. -/
def fullQueue : State :=
  let s :=
    ((drainMeets .opened .queued .deferring 31).modOrder 0 fun o => { o with seatLines := [line a4] }).modLane 1 fun x =>
      { x with
        order := order .opened []
        block := some { block pickWord .taken with ref := { ref with index := 1, statusAddr := 20480 } }
        claim := ⟨.queued, some 3310, 0, 4102, [⟨a3, 0⟩], none, none⟩ }
  { s with
    slots := some (scr (.claiming 0) (.claiming 1) (.held 0)) :: List.replicate 15 none
    link :=
      { s.link with
        queue := s.link.queue.map fun e => if e.id = 1 then { e with notice := .hold 4102 180 [a3], cls := .hold, lane := some 1 } else e } }

/-- Both PICKs end ORDER/DRAINING: no RELEASE evicts the other lane's HOLD (R186). -/
theorem test_drain_at_a_full_queue :
    (match exec .supplyWarningAsserted fullQueue with
      | .next t =>
        decide (fullQueue.link.queue.length = 32)
          && ([(16384, [a2, a3]), (20480, [a3])] : List (Nat × List SeatRef)).all fun (a, refs) =>
            t.io.host.read a 16 = some ((Status.bytes
              ⟨.refused, some 0, some .orderDraining, some (.seats refs), some .empty, none, []⟩).take 16)
      | _ => false) = true := by decide +kernel

theorem test_meets_HouseClockAdvances :
    Live { ticking with pending := [.voucherExpiry 3, .abort] } ∧ ticking.house.counting = true
      ∧ ([.voucherExpiry 3, .abort] : List Instr) = ([.voucher 3] : List TimedEvent).map TimedEvent.command ++ [.abort]
      ∧ (∀ (e : TimedEvent) cs, ([.abort] : List Instr) ≠ e.command :: cs) ∧ up.tick.dueEvents = [] ∧ up.house.counting = true
      ∧ up.pending = [] := by
  refine ⟨rfl, rfl, rfl, ?_, by decide, rfl, rfl⟩
  intro e cs h; cases e <;> simp [TimedEvent.command] at h

theorem test_meets_HandBack_ReportsRaised :
    (up.io.host.wf = true ∧ ref.descAddr < 2 ^ 64 ∧ ref.statusAddr + ref.statusLen < 2 ^ 64 ∧ ref.descAddr < ref.statusAddr
        ∧ ref.ring = .request)
      ∧ (reportReady.io.host.wf = true ∧ reportReady.house.record = some cfg
        ∧ cfg.reportBase + 128 * (reportReady.io.ring.reportCursor + 1) ≤ 2 ^ 64 ∧ reportReady.io.ring.waiting = []
        ∧ reportReady.io.host.read (cfg.reportBase + 128 * reportReady.io.ring.reportCursor) 1 = some [1])
      ∧ ([15, 16] : List Nat).all (fun n =>
          let s := waitingReports n;
          s.io.host.wf = true ∧ s.house.record = some cfg ∧ cfg.reportBase + 128 * (s.io.ring.reportCursor + 1) ≤ 2 ^ 64
            ∧ s.io.ring.waiting ≠ [] ∧ (s.io.ring.waiting.length < 16 ∨ s.io.ring.waiting.length = 16)) = true := by decide

/-- A descriptor of a request that the part owns at the cursor of the boot ring, or of the request ring after setup. -/
def kicked (s : State) (kind : Nat) : State := s.hostOps [descriptor 4096 kind 0 0]

theorem test_meets_RequestKick :
    (∃ bytes other, (kicked State.reset 1).io.host.read 4096 32 = some bytes ∧ (readDescriptor bytes).ownedByK4 = true
        ∧ (kicked up 8).io.host.read 4096 32 = some other ∧ (readDescriptor other).ownedByK4 = true
        ∧ (readDescriptor bytes).kind = 1 ∧ (readDescriptor bytes).blockLength ≤ 4096
        ∧ (kicked State.reset 1).io.host.read (readDescriptor bytes).blockAddr (readDescriptor bytes).blockLength = some []
        ∧ readKind (readDescriptor other).kind = some .resume ∧ (readDescriptor other).blockLength ≤ 4096
        ∧ (kicked up 8).io.host.read (readDescriptor other).blockAddr (readDescriptor other).blockLength = some [])
      ∧ Live (kicked State.reset 1) ∧ (kicked State.reset 1).house.lock = false ∧ (4096 : BitVec 64) ≠ 0
      ∧ (kicked State.reset 1).io.ring.taken = [] ∧ (kicked State.reset 1).io.ring.bootCursor ∉ (kicked State.reset 1).io.ring.marks
      ∧ Live (kicked up 8) ∧ (kicked up 8).house.lock = true ∧ (kicked up 8).io.ring.requestCursor ∉ (kicked up 8).io.ring.marks
      ∧ 0 < (kicked up 8).cfg.requestLength
      ∧ (∃ next, (kicked up 8).io.host.read ((kicked up 8).cfg.requestBase + 32 * 1) 32 = some next
          ∧ (readDescriptor next).ownedByK4 = false) :=
  ⟨⟨_, _, rfl, by decide, rfl, by decide, by decide, by decide, by decide, by decide, by decide, by decide⟩, rfl, rfl, by decide,
    by decide, by decide, rfl, rfl, by decide, by decide, ⟨_, rfl, by decide⟩⟩

theorem test_meets_SetupTaken_SetupRefused :
    (let s := taking State.reset .setup 0 setupBlock;
      Live s ∧ s.nextTaken .setup = some ⟨ref, .setup, 0, setupBlock⟩ ∧ s.house.lock = false ∧ readSetup setupBlock = some cfg
        ∧ s.printing.jobs = [])
      ∧ (let s := taking State.reset .setup 0 [];
        Live s ∧ s.nextTaken .setup = some ⟨ref, .setup, 0, []⟩ ∧ s.house.lock = false ∧ readSetup [] = none) := by decide

/-- The part with a request of this kind at the head of those taken, its queue holding `n` HOLDs. -/
def loading (n : Nat) : State := taking (crowded up n fun _ => .hold) .loadScreening 0 loadBlock

theorem test_meets_LoadScreening :
    (∃ x, readScreening ref loadBlock = some x ∧ x.code = 4103)
      ∧ ([0, 24] : List Nat).all (fun n =>
        Live (loading n) ∧ (loading n).house.lock = true
          ∧ (loading n).nextTaken .loadScreening = some ⟨ref, .loadScreening, 0, loadBlock⟩ ∧ (loading n).slots[0]? = some none
          ∧ (loading n).house.drain = .clear ∧ (loading n).link.state = .active
          ∧ (loading n).link.queue.length = n) = true
      ∧ ∀ n y, some y ∉ (loading n).slots :=
  ⟨⟨_, rfl, by decide⟩, by decide, fun _ _ h => by
    simp [loading, taking, State.modRing, crowded, up, State.reset, State.freeSlots, State.modLink] at h⟩

/-- An UNLOAD-SCREENING of 4102 taken. -/
def unloading (s : State) : State := taking s .unloadScreening 0 [6, 16]

/-- A CENSUS-CALL for screening 4102. -/
def callEntry : Entry := entry (.censusCall 4102) .censusCall none

theorem test_meets_UnloadScreening :
    (let s := unloading (showing (scr .free .free .free));
      Live s ∧ s.house.lock = true ∧ s.nextTaken .unloadScreening = some ⟨ref, .unloadScreening, 0, [6, 16]⟩
        ∧ readUnload [6, 16] = some 4102 ∧ s.screening 4102 = some (scr .free .free .free) ∧ (scr .free .free .free).sync = .ready
        ∧ (scr .free .free .free).phase ≠ .calling
        ∧ (∀ l, (s.lane l).order.state ≠ .empty → (s.lane l).order.code ≠ some 4102)
        ∧ (∀ l, (s.lane l).claim.state = .queued ∨ (s.lane l).claim.state = .contest → (s.lane l).claim.code ≠ 4102))
      ∧ (let s := unloading (holding .complete);
        Live s ∧ s.house.lock = true ∧ s.nextTaken .unloadScreening = some ⟨ref, .unloadScreening, 0, [6, 16]⟩
          ∧ s.screening 4102 = some (scr (.held 0) (.held 0) .free) ∧ (s.lane 0).order.state ≠ .empty
          ∧ (s.lane 0).order.code = some 4102) := by decide

theorem test_meets_UnloadScreening_calling :
    let s := fun p => unloading (contending (showing { scr .free .free .free with phase := .calling }) callEntry p 0)
    (([.deferring, .sending] : List Phase).all fun p =>
        Live (s p) ∧ (s p).house.lock = true ∧ (s p).nextTaken .unloadScreening = some ⟨ref, .unloadScreening, 0, [6, 16]⟩
          ∧ (s p).screening 4102 = some { scr .free .free .free with phase := .calling }
          ∧ (∀ l, (s p).lane l = up.lane l) ∧ (∀ l, (up.lane l).order.state = .empty ∧ (up.lane l).claim.state = .none)
          ∧ (s p).link.overflow = none ∧ (∀ l, (s p).link.owed.get l = false) ∧ (s p).link.callOf 4102 = some callEntry
          ∧ (s p).link.onPair callEntry.id = (p == .sending)) = true := by decide

theorem test_meets_UnloadScreening_claim :
    (([unloading (inFlight .empty .queued .deferring), unloading (inFlight .empty .queued .sending),
        unloading (inFlight .empty .contest .idle)] : List State).all fun s =>
      Live s ∧ s.house.lock = true ∧ s.nextTaken .unloadScreening = some ⟨ref, .unloadScreening, 0, [6, 16]⟩
        ∧ s.screening 4102 = some (scr (.claiming 0) (.claiming 0) .free)
        ∧ (∀ l, (s.lane l).order.state ≠ .empty → (s.lane l).order.code ≠ some 4102)
        ∧ s.link.overflow = none ∧ (∀ l, s.link.owed.get l = false) ∧ (s.lane 0).claim.code = 4102
        ∧ (∀ k, k ≠ 0 → (s.lane k).claim.state = .none) ∧ (s.lane 0).block = some (block pickWord .taken)
        ∧ (s.lane 0).claim.seats.map ClaimSeat.seat = [a2, a3]
        ∧ ((s.lane 0).claim.state = .contest ∧ s.link.state = .active ∧ s.link.queue.length < 24
          ∨ (s.lane 0).claim.state = .queued ∧ s.link.holdOf 0 = some holdEntry)) = true := by decide

/-- An order block of tag 3310 with the one word QUOTE. -/
def orderBlock : List Byte := leBytes 2 3310 ++ [1, 0] ++ [6, 0, 0, 0]

theorem test_meets_OrderRequest :
    (∃ words, readOrderBlock orderBlock = .block 3310 words)
      ∧ (let s := taking (holding .opened) .order 0 orderBlock;
        Live s ∧ s.house.lock = true ∧ s.nextTaken .order = some ⟨ref, .order, 0, orderBlock⟩ ∧ (0 : LaneIx).val < s.cfg.laneCount
          ∧ (s.lane 0).block = none ∧ (s.lane 0).order.state ≠ .empty ∧ (s.lane 0).order.tag = some 3310)
      ∧ (let s := taking (with0 up { order .opened [] with tag := some 1 } none) .order 0 orderBlock;
        Live s ∧ s.nextTaken .order = some ⟨ref, .order, 0, orderBlock⟩ ∧ (s.lane 0).block = none
          ∧ (s.lane 0).order.state ≠ .empty ∧ (s.lane 0).order.tag ≠ some 3310) :=
  ⟨⟨_, rfl⟩, by decide, by decide⟩

/-- A malformed block on lane 0 under the STRICT policy, for an order with tender 1 AUTHORIZED and a terminal that is busy
or not. -/
def strictly (st : OrderState) (busy : Bool) : State :=
  (strict (taking (with0 (showing (scr (.held 0) (.held 0) .free)) (paid st) none) .order 0 [])).modTerm 0 fun t =>
    { t with sending := if busy then some ⟨.void, 3310, .two, 0⟩ else none }

theorem test_meets_OrderRequest_malformed :
    (∃ offset code, readOrderBlock [] = .malformed offset code)
      ∧ ([.opened, .quoted, .paying, .short, .unwinding] : List OrderState).all (fun st =>
        let s := strictly st (st = .unwinding);
        Live s ∧ s.house.lock = true ∧ s.nextTaken .order = some ⟨ref, .order, 0, []⟩ ∧ 0 < s.cfg.laneCount
          ∧ (s.lane 0).block = none ∧ s.cfg.policy = .strict ∧ (s.lane 0).order.state = st
          ∧ ((s.lane 0).order.voidFrom .authorized).tender1.state = .voiding
          ∧ (st = .short → (s.lane 0).term.line = .idle ∧ (s.lane 0).term.sending = none ∧ (s.lane 0).term.exchange = none)
          ∧ (st = .unwinding → (s.lane 0).term.sending ≠ none)) = true
      ∧ (let s := taking (holding .opened) .order 0 [];
        Live s ∧ s.nextTaken .order = some ⟨ref, .order, 0, []⟩ ∧ (s.lane 0).block = none ∧ s.cfg.policy = .lenient) :=
  ⟨⟨_, _, rfl⟩, by decide, by decide⟩

/-- An ABORT of lane 0 taken. -/
def aborting (s : State) : State := taking s .abort 0 []

theorem test_meets_AbortRequest :
    ([.committing, .sold, .printing, .complete, .unresolved, .paying, .opened, .quoted, .short, .unwinding] : List OrderState).all
      (fun st =>
        let s := (aborting (with0 (holding st) (paid st) (some (block .quote .fresh)))).modTerm 0 fun t =>
          { t with sending := if st = .unwinding then some ⟨.void, 3310, .two, 0⟩ else none };
        Live s ∧ s.house.lock = true ∧ s.nextTaken .abort = some ⟨ref, .abort, 0, []⟩ ∧ 0 < s.cfg.laneCount
          ∧ (s.lane 0).block = some (block .quote .fresh) ∧ (s.lane 0).order.state = st
          ∧ (st = .opened ∨ st = .quoted →
            (s.lane 0).order.code = some 4102 ∧ (s.lane 0).claim.state ≠ .queued ∧ (s.lane 0).claim.state ≠ .contest
              ∧ s.link.state = .active ∧ s.link.queue.length < 24 ∧ s.link.overflow = none ∧ (∀ l, s.link.owed.get l = false)
              ∧ (s.lane 0).sale = none ∧ s.link.renewOf 0 (some 3310) = none ∧ (s.lane 0).order.liveSeats = [a2, a3]
              ∧ ∀ x ∈ (s.lane 0).order.liveSeats, s.seat 4102 x = some (.held 0))
          ∧ (st = .short → (s.lane 0).term = { Terminal.off with line := .idle }
            ∧ ((s.lane 0).order.voidFrom .authorized).tender1.state = .voiding)
          ∧ (st = .unwinding → (s.lane 0).term.sending ≠ none)) = true := by decide

theorem test_meets_AbortRequest_claim :
    (([aborting (inFlight .empty .queued .deferring), aborting (inFlight .empty .contest .idle),
        aborting (inFlight .opened .queued .backoff), aborting (inFlight .quoted .contest .idle)] : List State).all fun s =>
      Live s ∧ s.house.lock = true ∧ s.nextTaken .abort = some ⟨ref, .abort, 0, []⟩ ∧ 0 < s.cfg.laneCount
        ∧ (s.lane 0).block = some (block pickWord .taken) ∧ s.link.state = .active ∧ s.link.queue.length < 24
        ∧ s.link.overflow = none ∧ (∀ l, s.link.owed.get l = false) ∧ (s.lane 0).sale = none
        ∧ s.link.renewOf 0 (s.lane 0).order.tag = none
        ∧ ((s.lane 0).order.state = .empty ∧ (s.lane 0).order.screening = none
          ∨ ((s.lane 0).order.state = .opened ∨ (s.lane 0).order.state = .quoted) ∧ (s.lane 0).order.code = some 4102)
        ∧ (s.lane 0).claim.code = 4102 ∧ (s.lane 0).claim.seats.map ClaimSeat.seat = [a2, a3]
        ∧ ((s.lane 0).claim.state = .contest
          ∨ (s.lane 0).claim.state = .queued ∧ s.link.holdOf 0 = some holdEntry ∧ s.link.onPair holdEntry.id = false)
        ∧ ∀ x ∈ [a2, a3], s.seat 4102 x = some (.claiming 0)) = true := by decide

theorem test_meets_WordsRefusedAlike :
    (let s := running (holding .opened) (order .opened []) (.drop []);
      Live s ∧ s.freshWord 0 = some (.drop []) ∧ (OrderWord.drop []).formOk = false ∧ (s.lane 0).claim.state ≠ .withdrawing)
      ∧ (let s := running (holding .sold) (order .sold []) (.drop [a2]);
        Live s ∧ s.freshWord 0 = some (.drop [a2]) ∧ (OrderWord.drop [a2]).formOk = true
          ∧ (s.lane 0).claim.state ≠ .withdrawing ∧ (s.lane 0).order.state ∉ (OrderWord.drop [a2]).takenIn)
      ∧ (let s : State :=
          { running (holding .quoted) { order .quoted [] with quoteCurrent := true } (.pay none) with
            house := { up.house with drain := .draining } };
        Live s ∧ s.freshWord 0 = some (.pay none) ∧ (OrderWord.pay none).formOk = true
          ∧ (s.lane 0).claim.state ≠ .withdrawing ∧ (s.lane 0).order.state ∈ (OrderWord.pay none).takenIn
          ∧ s.house.drain ≠ .clear ∧ (s.lane 0).order.quoteCurrent = true) := by decide

/-- A PICK about to run, with `n` HOLDs queued. -/
def picking (n : Nat) : State := crowded (running (showing (scr .free .free .free)) fresh pickWord) n fun _ => .hold

theorem test_meets_PickTaken :
    (([picking 0, picking 24] : List State).all fun s =>
      Live s ∧ s.freshWord 0 = some pickWord ∧ pickWord.formOk = true ∧ (s.lane 0).claim.state ≠ .withdrawing
        ∧ (s.lane 0).order.state ∈ pickWord.takenIn ∧ s.house.drain = .clear
        ∧ s.screening 4102 = some (scr .free .free .free) ∧ (scr .free .free .free).sync = .ready
        ∧ s.house.clock < (scr .free .free .free).start + (scr .free .free .free).lateOffset
        ∧ (s.lane 0).order.screening = none ∧ s.link.state = .active ∧ (s.lane 0).order.seatLines.length + 2 ≤ 10
        ∧ (∀ r ∈ [a2, a3], (scr .free .free .free).seat r = some .free)
        ∧ (∀ t ∈ ([0, 1] : List Nat), (scr .free .free .free).offers t = true)
        ∧ (24 ≤ s.link.queue.length ∨ s.link.queue.length < 24)) = true := by decide

/-- A PICK of these entries about to run in a screening, for an order with these lines. -/
def refusing (x : Screening) (es : List ClaimSeat) (lines : List SeatLine) : State :=
  running (showing x) (order .opened lines) (.pick 4102 es)

theorem test_meets_PickRefused :
    let x := scr (.sold 7) .free .free
    (([(x, [⟨a1, 0⟩], []), (x, [⟨a2, 0⟩], []), (x, [⟨⟨0, 5⟩, 0⟩], []), (x, [⟨a3, 5⟩], []), (x, [⟨a3, 0⟩], List.replicate 10 (line a4)),
        ({ x with sync := .syncing }, [⟨a3, 0⟩], []), ({ x with start := 49000 }, [⟨a3, 0⟩], [])] :
        List (Screening × List ClaimSeat × List SeatLine)).all fun (x, es, lines) =>
      let s := refusing x es lines;
      Live s ∧ s.freshWord 0 = some (.pick 4102 es) ∧ (s.lane 0).claim.state ≠ .withdrawing
        ∧ (OrderWord.pick 4102 es).formOk = true ∧ (s.lane 0).order.state ∈ (OrderWord.pick 4102 es).takenIn
        ∧ s.house.drain = .clear ∧ s.screening 4102 = some x ∧ (s.lane 0).order.code = some 4102 ∧ s.link.state = .active
        ∧ (x.sync = .syncing ∨ x.start + x.lateOffset ≤ s.house.clock ∨ 10 < (s.lane 0).order.seatLines.length + es.length
          ∨ es.any (fun e => x.seat e.seat = some .blocked) ∨ es.any (fun e => x.seat e.seat = some (.sold 7))
          ∨ es.any (fun e => x.seat e.seat = none) ∨ es.any (fun e => !x.offers e.type))) = true := by decide

theorem test_meets_VoucherWords_DropWord_SetTypeWord :
    (let s : State := { running up fresh (.addVoucher 7 8) with vouchers := { up.vouchers with catalog := [⟨7, 450, true, 100, 8, 0, 0⟩] } };
      Live s ∧ s.freshWord 0 = some (.addVoucher 7 8) ∧ (OrderWord.addVoucher 7 8).formOk = true
        ∧ (s.lane 0).order.state ∈ (OrderWord.addVoucher 7 8).takenIn ∧ s.house.drain = .clear ∧ (s.lane 0).order.tag.isSome = true
        ∧ s.vouchers.catalog.find? (fun i => i.code = 7) = some ⟨7, 450, true, 100, 8, 0, 0⟩
        ∧ (s.lane 0).order.voucherLines.length + 8 ≤ 8 ∧ 0 + 0 + 8 ≤ 8)
      ∧ (([(1, [voucher 8], [voucher 7, voucher 8]), (2, [voucher 7], [voucher 7, voucher 8, voucher 7]),
            (8, [], List.replicate 8 (voucher 7))] : List (Nat × List VoucherLine × List VoucherLine)).all fun (n, older, newer) =>
        let s := running up { order .opened [] with voucherLines := older ++ newer } (.removeVoucher 7 n);
        Live s ∧ s.freshWord 0 = some (.removeVoucher 7 n) ∧ (OrderWord.removeVoucher 7 n).formOk = true
          ∧ (s.lane 0).order.state ∈ (OrderWord.removeVoucher 7 n).takenIn ∧ (s.lane 0).order.tag.isSome = true
          ∧ (s.lane 0).order.voucherLines = older ++ newer ∧ newer.countP (fun v => v.item = 7) = n
          ∧ ∀ v ∈ newer, v.item = 7 → v.code = none) = true
      ∧ (let s := running (holding .quoted) (order .quoted [line a2, line a3]) (.drop [a3]);
        Live s ∧ s.freshWord 0 = some (.drop [a3]) ∧ (OrderWord.drop [a3]).formOk = true
          ∧ (s.lane 0).order.state ∈ (OrderWord.drop [a3]).takenIn ∧ (s.lane 0).order.code = some 4102
          ∧ (s.lane 0).order.tag.isSome = true ∧ (∀ r ∈ [a3], r ∈ (s.lane 0).order.seatLines.map SeatLine.seat)
          ∧ (∀ r ∈ [a3], s.seat 4102 r = some (.held 0)) ∧ s.link.state = .active ∧ s.link.queue.length < 32)
      ∧ (let s := running (holding .quoted) (order .quoted [line a2]) (.setType a2 1);
        Live s ∧ s.freshWord 0 = some (.setType a2 1) ∧ (OrderWord.setType a2 1).formOk = true
          ∧ (s.lane 0).order.state ∈ (OrderWord.setType a2 1).takenIn ∧ (s.lane 0).order.tag.isSome = true
          ∧ (s.lane 0).order.seatLines.find? (fun v => v.seat = a2) = some (line a2)
          ∧ (s.lane 0).order.code.bind s.screening = some (scr (.held 0) (.held 0) .free)
          ∧ (scr (.held 0) (.held 0) .free).offers 1 = true ∧ (line a2).type ≠ 1) := by decide

theorem test_meets_PayWord :
    (([quoteOf 2000, quoteOf 0] : List Quote).all fun q =>
      let s := running (holding .quoted) { order .quoted [line a2, line a3] with quote := some q, quoteCurrent := true } (.pay none);
      Live s ∧ s.freshWord 0 = some (.pay none) ∧ (OrderWord.pay none).formOk = true
        ∧ (s.lane 0).order.state ∈ (OrderWord.pay none).takenIn ∧ (s.lane 0).order.quoteCurrent = true
        ∧ (s.lane 0).order.quote = some q ∧ s.house.drain = .clear ∧ (0 < q.total ∨ q.total = 0)
        ∧ (s.lane 0).order.code = some 4102
        ∧ (∀ v ∈ (s.lane 0).order.seatLines, v.lost = false ∧ s.seat 4102 v.seat = some (.held 0))
        ∧ (s.lane 0).order.tender1.state ≠ .authorized ∧ (s.lane 0).order.tender2.state ≠ .authorized) = true := by decide

/-- A PAY about to run with a line that fails the hold check: lost, or with a quote total of 0 not HELD by the lane. -/
def failing (total : Nat) (lost : Bool) (t1 t2 : TenderState) : State :=
  let st : OrderState := if t1 = .authorized ∨ t2 = .authorized then .short else .quoted
  running (holding st)
    { order st [{ line a2 with lost := lost }, if lost then line a3 else line a4] with
      quote := some (quoteOf total), quoteCurrent := true, tender1 := tender t1 (some 3), tender2 := tender t2 (some 4) } (.pay none)

theorem test_meets_PayWord_failing :
    (([(2000, true, .authorized, .none), (2000, true, .declined, .authorized), (0, false, .none, .none), (0, true, .voided, .none)] :
        List (Nat × Bool × TenderState × TenderState)).all fun (total, lost, t1, t2) =>
      let s := failing total lost t1 t2;
      Live s ∧ s.freshWord 0 = some (.pay none) ∧ (OrderWord.pay none).formOk = true
        ∧ (s.lane 0).order.state ∈ (OrderWord.pay none).takenIn ∧ (s.lane 0).order.quoteCurrent = true
        ∧ (s.lane 0).order.quote = some (quoteOf total) ∧ s.house.drain = .clear
        ∧ ((s.lane 0).order.seatLines.filter fun v => v.lost = true ∨ s.seat 4102 v.seat ≠ some (.held 0)).map SeatLine.seat
          = (if lost then [a2] else [a4])
        ∧ (total = 0 ∨ lost = true) ∧ (s.lane 0).order.tender1.state ≠ .voiding ∧ (s.lane 0).order.tender2.state ≠ .voiding
        ∧ (s.lane 0).term.line = .idle ∧ (s.lane 0).term.sending = none ∧ (s.lane 0).term.exchange = none
        ∧ ((s.lane 0).order.tender1.state = .authorized ∨ (s.lane 0).order.tender2.state = .authorized
          ∨ (s.lane 0).order.lapseHeld = false)) = true := by decide

/-- A PRINT about to run for a SOLD order with these lines and this progress, and printer 0 READY. -/
def toPrint (lines : List SeatLine) (vs : List VoucherLine) (p : Option Progress) : State :=
  (running (showing (scr (.sold 12) .free .free))
    { order .sold lines with voucherLines := vs, progress := p, quote := some (quoteOf 2000) } .print).modPrinter 0
      fun x => { x with state := .ready }

theorem test_meets_PrintWord :
    (let s := toPrint [line a2] [] none;
      Live s ∧ s.freshWord 0 = some .print ∧ (s.lane 0).order.state = .sold ∧ (s.lane 0).order.progress = none
        ∧ (s.printer 0).enabled = true ∧ (s.printer 0).state = .ready ∧ (s.printer 1).state ≠ .ready ∧ s.printing.jobs = []
        ∧ (s.lane 0).order.seatLines[0]? = some (line a2) ∧ (s.lane 0).order.code = some 4102
        ∧ s.screening 4102 = some (scr (.sold 12) .free .free))
      ∧ (let s := toPrint [] [] (some (.failed [⟨.receipt, none, .pending, 3, none⟩]));
        Live s ∧ s.freshWord 0 = some .print ∧ (s.lane 0).order.state = .sold
          ∧ (s.lane 0).order.progress = some (.failed [⟨.receipt, none, .pending, 3, none⟩])
          ∧ (([⟨.receipt, none, .pending, 3, none⟩] : List Item).filter fun i => i.state ≠ .done).map
              (fun i => (⟨i.kind, i.line, .pending, 0, none⟩ : Item)) = [⟨.receipt, none, .pending, 0, none⟩]
          ∧ (s.printer 0).enabled = true ∧ (s.printer 0).state = .ready ∧ (s.printer 1).state ≠ .ready ∧ s.printing.jobs = []
          ∧ (s.lane 0).order.quote = some (quoteOf 2000))
      ∧ (let s : State :=
          { toPrint [] [{ voucher 7 with code := some ⟨12, 5000⟩ }] none with
            vouchers := { up.vouchers with table := [⟨⟨12, 5000⟩, 7, some 4102, 50000, .issued, false, none⟩] } };
        Live s ∧ s.freshWord 0 = some .print ∧ (s.lane 0).order.state = .sold ∧ (s.lane 0).order.progress = none
          ∧ (s.printer 0).state = .ready ∧ (s.printer 1).state ≠ .ready ∧ s.printing.jobs = []
          ∧ (s.lane 0).order.voucherLines[0]? = some { voucher 7 with code := some ⟨12, 5000⟩ }
          ∧ s.vouchers.table = [] ++ ⟨⟨12, 5000⟩, 7, some 4102, 50000, .issued, false, none⟩ :: []) := by decide

theorem test_meets_FinishAndCancel_short :
    let s := running (holding .short) (paid .short) .cancel
    let o1 : Order := { (s.lane 0).order.voidFrom .authorized with state := .unwinding, cancelPending := true }
    Live s ∧ s.freshWord 0 = some .cancel ∧ (s.lane 0).order.state = .short ∧ (s.lane 0).term.line = .idle
      ∧ (s.lane 0).term.sending = none ∧ (s.lane 0).term.exchange = none ∧ o1.tender1.state = .voiding := by decide

theorem test_meets_FinishAndCancel_returned :
    (([.opened, .quoted, .unresolved, .complete] : List OrderState).all fun st =>
      let w := if st = .complete then OrderWord.finish else .cancel;
      let s := (running (holding st) { paid st with voucherLines := [voucher 7] } w).modTerm 0 fun t => { t with pinDeadline := some 60000 };
      Live s ∧ s.freshWord 0 = some w ∧ (s.lane 0).order.state = st ∧ s.link.state = .active ∧ s.link.queue.length < 24
        ∧ (s.lane 0).order.code = some 4102 ∧ (∀ r ∈ (s.lane 0).order.liveSeats, s.seat 4102 r = some (.held 0))) = true := by decide

/-! Notices. -/

/-- The link of a state is that of `up`, or it has one entry in contention in a phase in which notices are heard. -/
theorem hears_at {s : State} (h : s.link.state = .active) (st : s.link.station = some 12)
    (p : s.link.contention.phase = .deferring ∨ s.link.contention.phase = .idle) (n : Nat) (r : 1 ≤ n ∧ n ≤ 250) (o : n ≠ 12) :
    Hears s n := by
  refine ⟨by simp [h], ?_, ?_, r, by rw [st]; simpa using fun e => o e.symm⟩ <;> rcases p with p | p <;> simp [p]

theorem test_meets_PeerHolds :
    let s := showing (scr .free (.peerHeld 31 50000) (.sold 7))
    Live s ∧ Hears s 31 ∧ s.screening 4102 ≠ none ∧ NoLocalSeat s 4102 [a2, a3] ∧ NoPrintingSeat s [a2, a3]
      ∧ (Notice.hold 4102 180 [a2, a3]).ok = true ∧ (Notice.object 4102 9 [a2, a3]).ok = true
      ∧ (Notice.censusReply 4102 .held 9 0 [a2, a3]).ok = true ∧ s.link.station ≠ some 9
      ∧ (Notice.censusReply 4102 .sold 9 0 [a2, a3]).ok = true ∧ (Notice.release 4102 [a2, a3]).ok = true
      ∧ (Notice.sale 4102 [a2, a3]).ok = true :=
  ⟨rfl, hears (by decide) _ (by decide) (by decide), by decide, by unfold NoLocalSeat; decide, by unfold NoPrintingSeat; decide,
    by decide, by decide, by decide, by decide, by decide, by decide, by decide⟩

theorem test_meets_LocalSeatsDefended :
    (∀ s, s = holding .committing ∨ s = claimingSeats .contest →
        Live s ∧ Hears s 31 ∧ QueueOpen s.link ∧ (AllHeld s 0 4102 [a3, a2] ∨ InContest s 0 4102 [a3, a2]))
      ∧ (holding .committing).link.station = some 12 ∧ OrderState.committing.committingOrLater = true
      ∧ AllHeld (holding .committing) 0 4102 [a3, a2] ∧ ((holding .committing).lane 0).order.state = .committing
      ∧ (Notice.sale 4102 [a3, a2]).ok = true ∧ (Notice.object 4102 12 [a3, a2]).ok = true := by
  refine ⟨?_, by decide, by decide, by unfold AllHeld; decide, by decide, by decide, by decide⟩
  rintro s (rfl | rfl)
  · exact ⟨rfl, hears (by decide) _ (by decide) (by decide), ⟨by decide, by decide⟩, .inl (by unfold AllHeld; decide)⟩
  · exact ⟨rfl, hears (by decide) _ (by decide) (by decide), ⟨by decide, by decide⟩, .inr ⟨by decide, by decide, by decide⟩⟩

/-- What SeatsLostToPeers asks of a claim: lane 0's claim of A2 and A3, which a notice for A3 and A4 names. -/
def ClaimNamed (s : State) : Prop :=
  Live s ∧ Hears s 31 ∧ (s.lane 0).block = some (block pickWord .taken) ∧ (s.lane 0).claim.code = 4102
    ∧ (s.lane 0).claim.seats.map ClaimSeat.seat = [a2, a3] ∧ ([a2, a3].filter fun r => [a3, a4].contains r) ≠ []
    ∧ (∀ r ∈ [a2, a3], s.seat 4102 r = some (.claiming 0)) ∧ s.seat 4102 a4 = some .free ∧ NoPrintingSeat s [a3, a4]

theorem test_meets_SeatsLostToPeers :
    (ClaimNamed (inFlight .empty .queued .deferring) ∧ ((inFlight .empty .queued .deferring).lane 0).claim.state = .queued
        ∧ NothingOwed (inFlight .empty .queued .deferring).link)
      ∧ (ClaimNamed (inFlight .empty .contest .idle) ∧ ((inFlight .empty .contest .idle).lane 0).claim.state = .contest
        ∧ QueueOpen (inFlight .empty .contest .idle).link)
      ∧ (Notice.hold 4102 180 [a3, a4]).ok = true ∧ (Notice.sale 4102 [a3, a4]).ok = true
      ∧ (Notice.object 4102 12 [a3, a4]).ok = true
      ∧ ([.opened, .quoted, .paying, .short, .unwinding] : List OrderState).all (fun st =>
          ((holding st).lane 0).order.state = st ∧ ((holding st).lane 0).order.tag = some 3310
            ∧ ∀ r ∈ [a3], (holding st).seat 4102 r = some (.held 0)) = true := by
  refine ⟨⟨?_, by decide, ⟨by decide, by decide⟩⟩, ⟨?_, by decide, ⟨by decide, by decide⟩⟩, by decide, by decide, by decide, by decide⟩ <;>
    exact ⟨rfl, hears_at (by decide) (by decide) (by decide) _ (by decide) (by decide), by decide, by decide, by decide, by decide,
      by decide, by decide, by unfold NoPrintingSeat; decide⟩

/-- The part with a record of voucher 12/5000 in the table, between records of other codes. -/
def stocked (r : VoucherRecord) : State :=
  { up with vouchers := { up.vouchers with table := [{ r with code := ⟨12, 1⟩ }, r, { r with code := ⟨12, 2⟩ }] } }

theorem test_meets_VoucherNotices :
    (∀ r : VoucherRecord, r.code = ⟨12, 5000⟩ →
        Live (stocked r) ∧ Hears (stocked r) 200 ∧ QueueOpen (stocked r).link
          ∧ (stocked r).vouchers.table = [{ r with code := ⟨12, 1⟩ }] ++ r :: [{ r with code := ⟨12, 2⟩ }]
          ∧ ∀ w ∈ [{ r with code := (⟨12, 2⟩ : VCode) }], w.code ≠ ⟨12, 5000⟩)
      ∧ (Notice.verify ⟨12, 5000⟩).ok = true ∧ (stocked (record .issued true none)).link.station = some 12
      ∧ (record .issued true none).status = .issued ∧ (record .issued true none).printed = true
      ∧ (record .redeemed true (some 200)).redeemedBy = some 200 :=
  ⟨fun _ _ => ⟨rfl, hears (by rfl) _ (by decide) (by decide), ⟨.inl rfl, by show (0 : Nat) < 24; decide⟩, rfl, by simp⟩, by decide,
    rfl, rfl, rfl, rfl⟩

theorem test_meets_VoucherNotices_issue :
    let vs := [voucher 7, { voucher 7 with code := some ⟨12, 1⟩ }, voucher 8]
    let s := (holding .sold).modOrder 0 fun o => { o with voucherLines := vs }
    (s.lane 0).order.voucherLines = vs ∧ vs[1]? = some { voucher 7 with code := some ⟨12, 1⟩ } ∧ vs[2]? = some (voucher 8)
      ∧ s.vouchers.serial + vs.length ≤ 1048576 ∧ ((vs.take 2).countP fun x => x.code = none) = 1 := by decide

theorem test_meets_VoucherNotices_reissue :
    let r := record .issued false none
    let v : VoucherLine := { voucher 7 with code := some ⟨12, 5000⟩ }
    let s := (with0 (stocked r) { order .printing [line a2] with voucherLines := [voucher 7, v] } none)
    (s.lane 0).order.voucherLines[1]? = some v ∧ v.code = some ⟨12, 5000⟩
      ∧ s.vouchers.table = [{ r with code := ⟨12, 1⟩ }] ++ r :: [{ r with code := ⟨12, 2⟩ }] ∧ r.code = ⟨12, 5000⟩
      ∧ (∀ y ∈ [{ r with code := (⟨12, 2⟩ : VCode) }], y.code ≠ ⟨12, 5000⟩) ∧ s.vouchers.table.length < 1024 := by decide

/-- Sixteen slots: two READY and IDLE, one CALLING, one SYNCING, and seven receive errors before, with `n` entries queued. -/
def eighth (n : Nat) : State :=
  let x := scr .free .free .free
  { crowded up n fun _ => .hold with
    slots :=
      [some x, none, some { x with code := 7 }, some { x with code := 8, phase := .calling }, some { x with code := 9, sync := .syncing }]
        ++ List.replicate 11 none
    link := { (crowded up n fun _ => .hold).link with receiveErrors := 7 } }

theorem test_meets_Reception_recensus :
    ([0, 22, 24] : List Nat).all (fun n =>
      let s := eighth n;
      Live s ∧ s.link.state = .active ∧ s.link.contention.phase = .idle ∧ s.link.station = some 12 ∧ s.link.receiveErrors = 7
        ∧ ((s.slots.filterMap id).filter fun x => x.sync = .ready ∧ x.phase = .idle).map Screening.code = [4102, 7]
        ∧ ((s.slots.filterMap id).map Screening.code).Nodup
        ∧ (s.link.queue.length + 2 ≤ 24 ∨ 24 ≤ s.link.queue.length)
        ∧ ∀ x ∈ s.slots.filterMap id, x.censusTimer = none ∧ x.request = none) = true
      ∧ 8 ≤ ([1, 2, 3, 4, 5, 6, 7, 8] : List Byte).length
      ∧ crcBytes ([1, 2, 3, 4, 5, 6, 7, 8].take 6) ≠ ([1, 2, 3, 4, 5, 6, 7, 8] : List Byte).drop 6 := by decide +kernel

theorem test_meets_Reception_duplicate :
    let s := contending (renewing .opened) (entry (.sale 4102 [a2]) .sale (some 0)) .deferring 0
    Live s ∧ Instr.notice (.censusCallReceived 12 1) = some (12, .censusCall 1) ∧ (Notice.censusCall 1).ok = true
      ∧ s.link.station = some 12 ∧ s.link.state = .active ∧ s.link.contention.phase ≠ .sending
      ∧ s.link.contention.phase ≠ .jamming := by decide

/-! The notice in contention. -/

/-- The state with an entry in contention and its RENEW owed, or a SALE in the overflow slot. -/
def waiting (s : State) (sale : Bool) : State :=
  s.modLink fun k =>
    if sale then { k with overflow := some ⟨9, .sale 4102 [a2], .sale, some 1, some 1, false, none⟩ }
    else { k with owed := k.owed.set 0 true }

theorem test_meets_NextNotice :
    (let s := contending (renewing .opened) (entry (.renew 4102 180 [a2]) .renewNormal (some 0)) .sending 0;
      s.link.renewOf 0 (s.lane 0).order.tag = some (entry (.renew 4102 180 [a2]) .renewNormal (some 0))
        ∧ (s.lane 0).order.code = some 4102 ∧ s.renewalSeats 0 ≠ [] ∧ s.link.onPair 0 = true)
      ∧ (let s := waiting (crowded up 32 fun i => if i = 30 then .renewDemand else .sale) true;
        s.link.state = .active ∧ 32 ≤ s.link.queue.length ∧ s.link.overflow ≠ none
          ∧ s.link.queue = s.link.queue.take 30 ++ ⟨30, .release 4102 [a1], .renewDemand, none, none, false, none⟩ :: s.link.queue.drop 31
          ∧ s.link.contention.entry ≠ some 30 ∧ (∀ x ∈ s.link.queue.drop 31, x.cls ≠ .renewDemand)
          ∧ (∀ x ∈ s.link.queue, ¬(Machine.Class.sale.rank < x.cls.rank))) := by decide +kernel

/-- A notice whose owner asked for its removal, on the pair. -/
def leavingEntry (n : Notice) : Entry := { entry n .hold (some 0) with leaving := true }

theorem test_meets_ContentionEvents :
    (([.jamming, .sending] : List Phase).all fun p =>
      let s := contending (claimingSeats .withdrawing) (leavingEntry (.hold 4102 180 [a2, a3])) p 3;
      Live s ∧ s.link.current = some (leavingEntry (.hold 4102 180 [a2, a3])) ∧ s.link.overflow = none
        ∧ (∀ l, s.link.owed.get l = false) ∧ s.link.contention.phase = p ∧ (s.lane 0).claim.state = .withdrawing
        ∧ (s.runningWord 0).map Prod.snd = some .taken
        ∧ ∀ r ∈ (s.lane 0).claim.seats.map ClaimSeat.seat, s.seat (s.lane 0).claim.code r = some (.claiming 0)) = true
      ∧ (let s := contending up releaseEntry .jamming 15;
        Live s ∧ s.link.contention.phase = .jamming ∧ s.link.contention.collisions < 16 ∧ s.link.current = some releaseEntry
          ∧ releaseEntry.leaving = false ∧ ∀ x ∈ s.link.queue, x.kept = none) := by decide

/-- A notice in contention at the sixteenth collision with two aborts before, or being sent; a screening in its census. -/
def ending (n : Notice) (cls : Machine.Class) (jam : Bool) : State :=
  let s := (claimingSeats .queued).modScreening 4102 fun x => { x with sync := .syncing, phase := .calling, request := some ref }
  let c := contending s (entry n cls (some 0)) (if jam then .jamming else .sending) (if jam then 16 else 0)
  c.modLink fun k => { k with aborts := 2 }

theorem test_meets_Aborts :
    (([true, false] : List Bool).all fun jam =>
      ([(.sale 4102 [a4], .sale), (.renew 4102 180 [a4], .renewNormal), (.release 4102 [a4], .release),
          (.hold 4102 180 [a2, a3], .hold), (.object 4102 9 [a4], .object), (.censusCall 4102, .censusCall)] :
          List (Notice × Machine.Class)).all fun (n, cls) =>
        let s := ending n cls jam;
        Live s ∧ s.link.current = some (entry n cls (some 0)) ∧ (entry n cls (some 0)).leaving = false
          ∧ (∀ x ∈ s.link.queue, x.kept = none)
          ∧ (jam = true ∧ s.link.contention.phase = .jamming ∧ s.link.contention.collisions = 16 ∧ s.link.state = .active
              ∧ 3 ≤ s.link.aborts + 1
            ∨ jam = false ∧ s.link.contention.phase = .sending)
          ∧ s.link.overflow = none ∧ (∀ l, s.link.owed.get l = false) ∧ (s.lane 0).claim.state = .queued
          ∧ (∀ r ∈ [a2, a3], s.seat 4102 r = some (.claiming 0))
          ∧ (s.screening 4102).map (fun x => (x.sync, x.request)) = some (.syncing, some ref)) = true := by decide

/-- What the statements on a notice transmitted ask of its link, with nothing waiting for its place. -/
theorem test_meets_NoticeTransmitted :
    (([(inFlight .empty .queued .sending, holdEntry),
        (contending (renewing .opened) (entry (.renew 4102 180 [a2, a3]) .renewNormal (some 0)) .sending 0,
          entry (.renew 4102 180 [a2, a3]) .renewNormal (some 0)),
        (contending (renewing .opened) (entry (.renew 4102 180 [a2]) .renewNormal (some 0)) .sending 0,
          entry (.renew 4102 180 [a2]) .renewNormal (some 0)),
        (contending ((with0 (showing (scr (.sold 12) .free .free)) (order .sold [line a2]) none).modLane 0 fun x =>
          { x with sale := some ⟨0, [a2]⟩ }) (entry (.sale 4102 [a2]) .sale (some 0)) .sending 0, entry (.sale 4102 [a2]) .sale (some 0)),
        (contending (showing { scr .free .free .free with phase := .calling }) callEntry .sending 0, callEntry)] :
        List (State × Entry)).all fun (s, e) =>
      Live s ∧ s.link.contention.phase = .sending ∧ s.link.current = some e ∧ e.kept = none ∧ s.link.overflow = none
        ∧ (∀ l, s.link.owed.get l = false) ∧ s.link.state = .active ∧ (s.link.queue.filter fun x => x.id ≠ e.id) = []
        ∧ (e.notice.isHold = true ∧ e.lane = some 0 ∧ (s.lane 0).claim.state = .queued
          ∨ e.notice.isRenew = true ∧ e.lane = some 0 ∧ e.tag = (s.lane 0).order.tag ∧ (s.lane 0).renewal ≠ none
            ∧ s.renewalSeats 0 = [a2, a3]
          ∨ e.notice.isSale = true ∧ e.lane = some 0 ∧ (s.lane 0).sale = some ⟨e.id, [a2]⟩
            ∧ (∀ r ∈ [a1, a2, a3, a4], s.seat 4102 r ≠ some (.held 0))
          ∨ e.notice = .censusCall 4102 ∧ e.leaving = false)) = true := by decide

theorem test_meets_NoticeTransmitted_owners_and_places :
    (let s := contending (claimingSeats .withdrawing) (leavingEntry (.hold 4102 180 [a2, a3])) .sending 0;
      Live s ∧ s.link.contention.phase = .sending ∧ s.link.current = some (leavingEntry (.hold 4102 180 [a2, a3]))
        ∧ s.link.state = .active ∧ s.link.overflow = none ∧ (∀ l, s.link.owed.get l = false)
        ∧ (s.lane 0).claim.state = .withdrawing ∧ (s.lane 0).claim.seats ≠ []
        ∧ (s.runningWord 0).map Prod.snd = some .taken
        ∧ ∀ r ∈ [a2, a3], s.seat 4102 r = some (.claiming 0))
      ∧ (let e := { entry (.renew 4102 180 [a2]) .renewNormal (some 0) with kept := some ⟨.renew 4102 180 [a2, a3], .renewNormal⟩ }
        let s := contending (renewing .opened) e .sending 0
        Live s ∧ s.link.contention.phase = .sending ∧ s.link.current = some e ∧ s.link.state = .active ∧ s.link.overflow = none
          ∧ (∀ l, s.link.owed.get l = false) ∧ e.notice.isRenew = true)
      ∧ (([true, false] : List Bool).all fun sale =>
        let s := waiting (contending (renewing .opened) releaseEntry .sending 0) sale;
        Live s ∧ s.link.contention.phase = .sending ∧ s.link.current = some releaseEntry ∧ s.link.state = .active
          ∧ releaseEntry.kept = none ∧ releaseEntry.notice = .release 4102 [a2]
          ∧ (sale = true ∧ s.link.overflow ≠ none ∧ (∀ l, s.link.owed.get l = false)
            ∨ s.link.overflow = none ∧ s.link.owed.get 0 = true ∧ (∀ j, j ≠ 0 → s.link.owed.get j = false)
              ∧ (s.lane 0).order.code = some 4102 ∧ s.renewalSeats 0 ≠ [])) = true := by decide

/-! Timers. -/

theorem test_meets_SeatTimers :
    (let x := { scr (.peerHeld 31 50000) .free .free with
          phase := .listening, censusTimer := some 1, sync := .syncing, request := some ref }
      let s := showing x
      Live s ∧ s.slots[0]? = some (some x) ∧ s.screening x.code = some x ∧ x.phase = .listening ∧ x.censusTimer ≠ none
        ∧ x.sync = .syncing ∧ x.request = some ref ∧ s.seat 4102 a2 = some (.peerHeld 31 50000))
      ∧ (let s := claimingSeats .contest
        Live s ∧ (s.lane 0).claim.state = .contest ∧ (s.lane 0).claim.contestTimer ≠ none
          ∧ (s.lane 0).claim.holdEnd = some ⟨49990, 1000⟩ ∧ s.runningWord 0 = some (pickWord, .taken)
          ∧ (s.lane 0).order.tag.isSome = true ∧ s.link.renewOf 0 (s.lane 0).order.tag = none
          ∧ ∀ e ∈ (s.lane 0).claim.seats, s.seat 4102 e.seat = some (.claiming 0)) := by decide

/-- An order of two HELD seats whose renewal timer has passed `n` marks, its RENEW in the queue or not. -/
def marked (st : OrderState) (n : Nat) (queued : Bool) : State :=
  let s := (renewing st).modLane 0 fun x => { x with renewal := some ⟨⟨49000, 1000⟩, n⟩ }
  if queued then contending s (entry (.renew 4102 180 [a2, a3]) .renewNormal (some 0)) .deferring 0 else s

theorem test_meets_RenewalMarks :
    (([marked .opened 0 false, marked .quoted 1 true, marked .opened 2 false, marked .paying 2 true, marked .committing 2 true] :
        List State).all fun s =>
      Live s ∧ (s.lane 0).renewal.isSome = true ∧ (s.lane 0).renewal.all (fun r => r.base = ⟨49000, 1000⟩ ∧ r.passed < 3)
        ∧ 1000 + 500 * s.cfg.holdLifetime ≤ 91000 ∧ 1000 + 750 * s.cfg.holdLifetime ≤ 136000
        ∧ 1000 + 1000 * s.cfg.holdLifetime ≤ 181000 ∧ s.renewalSeats 0 = [a2, a3] ∧ (s.lane 0).order.code = some 4102
        ∧ (s.lane 0).order.tag = some 3310 ∧ (s.lane 0).sale = none ∧ s.link.state = .active ∧ s.link.queue.length < 24
        ∧ s.link.owed.get 0 = false
        ∧ (s.link.renewOf 0 (s.lane 0).order.tag = none
          ∨ s.link.renewOf 0 (s.lane 0).order.tag = some (entry (.renew 4102 180 [a2, a3]) .renewNormal (some 0)))) = true := by
  decide

theorem test_meets_AttendanceLapse :
    (([.opened, .quoted, .short, .complete, .paying, .committing, .unwinding, .sold, .printing, .unresolved] : List OrderState).all
      fun st =>
        let s := (with0 (holding st) (paid st) none).modLane 0 fun x => { x with attendance := some 50000 };
        Live s ∧ (s.lane 0).attendance = some 50000 ∧ 50000 ≤ s.house.clock ∧ (s.lane 0).order.state = st
          ∧ (s.lane 0).block = none ∧ s.link.state = .active ∧ s.link.queue.length < 24
          ∧ (st = .short → (s.lane 0).claim.state ∉ ([.queued, .contest] : List ClaimState) ∧ (s.lane 0).term.line = .idle
            ∧ (s.lane 0).term.sending = none ∧ (s.lane 0).term.exchange = none
            ∧ ((s.lane 0).order.voidFrom .authorized).tender1.state = .voiding)) = true := by decide

theorem test_meets_AttendanceLapse_claim :
    (([inFlight .opened .queued .deferring, inFlight .quoted .contest .idle] : List State).all fun s =>
      Live s ∧ (s.lane 0).attendance = some 50000 ∧ 50000 ≤ s.house.clock
        ∧ ((s.lane 0).order.state = .opened ∨ (s.lane 0).order.state = .quoted) ∧ s.link.state = .active
        ∧ s.link.queue.length < 24
        ∧ ((s.lane 0).claim.state = .contest ∧ s.link.holdOf 0 = none
          ∨ (s.lane 0).claim.state = .queued ∧ s.link.holdOf 0 = some holdEntry ∧ s.link.onPair holdEntry.id = false)
        ∧ (s.lane 0).order.code = some (s.lane 0).claim.code ∧ (s.lane 0).claim.seats.map ClaimSeat.seat = [a2, a3]
        ∧ (s.lane 0).block = some (block pickWord .taken)
        ∧ ∀ r ∈ [a2, a3], s.seat (s.lane 0).claim.code r = some (.claiming 0)) = true := by decide

/-! Terminals. -/

/-- The state with A2's line lost, cancel pending and a lapse held as given. -/
def troubled (s : State) (lost cancel lapse : Bool) : State :=
  s.modOrder 0 fun o =>
    { o with
      cancelPending := cancel, lapseHeld := lapse
      seatLines := if lost then [{ line a2 with lost := true }, line a3] else o.seatLines }

/-- An AUTH of 2000 for tender 1 whose deadline is now, the other tender NONE or AUTHORIZED. -/
def authing (other : TenderState) : State := paying .paying (tender .authorizing none) (tender other (some 300)) .auth

theorem test_meets_AuthExchange :
    (([.none, .authorized] : List TenderState).all fun other =>
      let s := authing other
      let approve := fun n => (s.lane 0).order.modTender .one fun t =>
        { t with state := .authorized, approved := some (min n t.requested), auth := some 0 }
      Live s ∧ (s.lane 0).term.exchange = some ⟨⟨.auth, 3310, .one, 2000⟩, 50000⟩ ∧ (s.lane 0).term.line = .awaiting
        ∧ (s.lane 0).term.sending = none ∧ (s.lane 0).order.cancelPending = false ∧ (s.lane 0).order.lapseHeld = false
        ∧ s.house.drain = .clear ∧ (∀ v ∈ (s.lane 0).order.seatLines, v.lost = false)
        ∧ s.runningWord 0 = some (.pay none, .taken) ∧ ((s.lane 0).order.tender TenderIx.one.other).state = other
        ∧ (TerminalRx.result 3310 1 .approved 1 0).ok = true ∧ (approve 1).due ≠ 0
        ∧ (other = .none → (approve 2000).due = 0) ∧ (other = .authorized → (approve 1700).due = 0)
        ∧ (∀ v ∈ (s.lane 0).order.seatLines, s.seat 4102 v.seat = some (.held 0)) ∧ 50000 ≤ s.house.clock) = true := by decide

theorem test_meets_AuthExchange_lost_cancelled_or_lapsed :
    (([.none, .authorized] : List TenderState).all fun other =>
      ([(true, false, false), (false, true, false), (false, false, true), (true, false, true)] : List (Bool × Bool × Bool)).all
        fun (lost, cancel, lapse) =>
          let s := troubled (authing other) lost cancel lapse;
          Live s ∧ (s.lane 0).term.exchange = some ⟨⟨.auth, 3310, .one, 2000⟩, 50000⟩ ∧ (s.lane 0).term.line = .awaiting
            ∧ (s.lane 0).term.sending = none ∧ s.house.drain = .clear
            ∧ ((s.lane 0).order.tender TenderIx.one.other).state ≠ .voiding
            ∧ ((s.lane 0).order.seatLines.filter fun v => v.lost).map SeatLine.seat = (if lost then [a2] else [])
            ∧ (s.lane 0).order.cancelPending = cancel ∧ (s.lane 0).order.lapseHeld = lapse
            ∧ s.runningWord 0 = some (.pay none, .taken) ∧ s.link.state = .active ∧ s.link.queue.length < 24
            ∧ (TerminalRx.result 3310 1 .declined 0 0).ok = true ∧ (TerminalRx.result 3310 1 .approved 1 0).ok = true
            ∧ (TerminalRx.result 3310 1 .terminalError 0 0).ok = true ∧ 50000 ≤ s.house.clock) = true := by decide

/-- The state with a lapse held or the drain latch set. -/
def ended (s : State) (lapse drain : Bool) : State :=
  { s.modOrder 0 (fun o => { o with lapseHeld := lapse }) with house := { s.house with drain := if drain then .draining else .clear } }

/-- What a payment step meets at its end: from SHORT a tender to be voided, from QUOTED and OPEN a queue with room. -/
theorem test_meets_StepEnds :
    (([(.none, false), (.authorized, false), (.none, true)] : List (TenderState × Bool)).all fun (other, lost) =>
      ([(true, false), (false, true), (true, true)] : List (Bool × Bool)).all fun (lapse, drain) =>
        let s := ended (troubled (authing other) lost false lapse) lapse drain;
        let o1 := (s.lane 0).order.modTender .one fun t => { t with state := .declined };
        let o2 : Order := if lost then { o1 with state := .opened, quoteCurrent := false, seatLines := [line a3] }
          else { o1 with state := if other = .authorized then .short else .quoted };
        Live s ∧ (o2.lapseHeld = true ∨ s.house.drain ≠ .clear) ∧ s.runningWord 0 = some (.pay none, .taken)
          ∧ (s.lane 0).order.cancelPending = false
          ∧ (o2.state = .short ∧ (o2.cancelledShort.tender .two).state = .voiding ∧ o2.cancelledShort.tender1.state ≠ .voiding
            ∨ (o2.state = .quoted ∨ o2.state = .opened) ∧ s.link.state = .active ∧ s.link.queue.length < 24
              ∧ ∀ r ∈ o2.liveSeats, s.seat 4102 r = some (.held 0))) = true := by decide

theorem test_meets_CaptureExchange :
    (([.authorized, .captured] : List TenderState).all fun other =>
      let s := paying .committing (tender .capturing (some 2000)) (tender other (some 1)) .capture;
      Live s ∧ (s.lane 0).term.exchange = some ⟨⟨.capture, 3310, .one, 2000⟩, 50000⟩ ∧ (s.lane 0).term.line = .awaiting
        ∧ (s.lane 0).term.sending = none ∧ codeOk 3310 = true ∧ ((s.lane 0).order.tender TenderIx.one.other).state = other
        ∧ (∀ v ∈ (s.lane 0).order.seatLines, s.seat 4102 v.seat = some (.held 0)) ∧ 50000 ≤ s.house.clock
        ∧ (TerminalRx.result 3310 1 .approved 1 0).ok = true) = true := by decide

/-- The last capture sells the order: its SALE is queued, its voucher line issued, its PAY done (R119, R136). -/
theorem test_captured_sells :
    let s := paying .committing (tender .capturing (some 2000)) (tender .none none) .capture
    let s : State :=
      { s.modOrder 0 (fun o => { o with voucherLines := [voucher 7], lapseHeld := true }) with
        vouchers := { s.vouchers with catalog := [⟨7, 450, true, 100, 8, 0, 1⟩] } }
    (match exec (.capturedReceived 0 3310 1) s with
      | .next t =>
        decide (t.link.queue.map (fun e => (e.notice, e.cls, e.lane, e.tag)) = [(.sale 4102 [a2, a3], .sale, some 0, some 3310)])
          && decide ((t.lane 0).sale = some ⟨0, [a2, a3]⟩ ∧ (t.lane 0).block = none ∧ (t.lane 0).order.lapseHeld = false)
          && decide ((t.lane 0).order.voucherLines = [{ voucher 7 with code := some ⟨12, 5000⟩ }])
          && decide (t.vouchers.catalog = [⟨7, 450, true, 100, 8, 1, 0⟩] ∧ t.seat 4102 a3 = some (.sold 12))
      | _ => false) = true := by decide +kernel

/-- A VOID of tender 1 whose deadline is now, of an order that unwinds with a cause. -/
def voiding (cause : UnwindCause) (other : TenderState) : State :=
  (paying .unwinding (tender .voiding (some 2000)) (tender other none) .void).modTerm 0 fun t => { t with cause := some cause }

theorem test_meets_VoidExchange :
    (([(.timeout, false, false), (.terminal, false, false), (.shortFinal, false, false), (.seatsLost, true, false),
        (.captureFailed, false, false), (.timeout, false, true)] : List (UnwindCause × Bool × Bool)).all fun (cause, lost, cancel) =>
      let s := troubled (voiding cause .voided) lost cancel false;
      Live s ∧ (s.lane 0).term.exchange = some ⟨⟨.void, 3310, .one, 2000⟩, 50000⟩ ∧ (s.lane 0).term.line = .awaiting
        ∧ (s.lane 0).term.sending = none ∧ codeOk 3310 = true ∧ (s.lane 0).order.state = .unwinding
        ∧ ((s.lane 0).order.tender TenderIx.one.other).state
          ∉ ([.voiding, .unresolved, .authorized, .captured] : List TenderState)
        ∧ (s.lane 0).order.cancelPending = cancel ∧ (s.lane 0).order.lapseHeld = false ∧ s.house.drain = .clear
        ∧ s.runningWord 0 = some (.pay none, .taken) ∧ (s.lane 0).term.cause = some cause
        ∧ (s.lane 0).order.quote = some (quoteOf 2000)
        ∧ ((s.lane 0).order.seatLines.filter fun v => v.lost).map SeatLine.seat = (if lost then [a2] else [])
        ∧ (s.lane 0).order.code = some 4102 ∧ (∀ r ∈ (s.lane 0).order.liveSeats, s.seat 4102 r = some (.held 0))
        ∧ 50000 ≤ s.house.clock ∧ (TerminalRx.result 3310 1 .terminalError 0 0).ok = true) = true
      ∧ (let s := (paying .unresolved (tender .unresolved none) (tender .none none) .void);
        Live s ∧ (s.lane 0).order.state = .unresolved ∧ (s.lane 0).term.pinDeadline = some 50000 ∧ 50000 ≤ s.house.clock) := by
  decide

/-- The ends of an unwinding that go on to SHORT, to UNWINDING again, and to UNRESOLVED, with what waits on them. -/
theorem test_meets_VoidExchange_short_and_unresolved :
    (([(.authorized, false), (.authorized, true), (.none, true), (.unresolved, true)] : List (TenderState × Bool)).all
      fun (other, lost) =>
        let s := troubled (voiding .terminal other) lost false false;
        Live s ∧ (s.lane 0).term.exchange = some ⟨⟨.void, 3310, .one, 2000⟩, 50000⟩ ∧ (s.lane 0).term.line = .awaiting
          ∧ (s.lane 0).term.sending = none ∧ (s.lane 0).order.state = .unwinding ∧ (s.lane 0).term.cause = some .terminal
          ∧ ((s.lane 0).order.tender TenderIx.one.other).state = other
          ∧ ((s.lane 0).order.seatLines.filter fun v => v.lost).map SeatLine.seat = (if lost then [a2] else [])
          ∧ (s.lane 0).order.cancelPending = false ∧ s.runningWord 0 = some (.pay none, .taken)
          ∧ (s.lane 0).order.quote = some (quoteOf 2000) ∧ 50000 ≤ s.house.clock) = true
      ∧ (([none, some (block (.pay none) .taken), some (block .cancel .taken), some ⟨ref, 0, [], .strictWait none .formatHeader⟩] :
          List (Option Block)).all fun b =>
        let s := (troubled (voiding .timeout .voided) false true false).modLane 0 fun x => { x with block := b };
        Live s ∧ (s.lane 0).order.cancelPending = true ∧ (s.lane 0).order.state = .unwinding
          ∧ (s.lane 0).term.exchange = some ⟨⟨.void, 3310, .one, 2000⟩, 50000⟩
          ∧ ((s.lane 0).block = none ∨ s.runningWord 0 = some (.pay none, .taken) ∨ s.runningWord 0 = some (.cancel, .taken)
            ∨ (s.lane 0).block.map Block.mode = some (.strictWait none .formatHeader))) = true := by decide

/-! Printers. -/

/-- Lane 0's PRINTING order of a ticket and a voucher, its job on printer 0 with item 1 of a kind sent after some spoils, its
PRINT running or not, and printer 1 READY or not. -/
def busy (spoils : Nat) (kind : ItemKind) (runs ready : Bool) : State :=
  let r : VoucherRecord := ⟨⟨12, 4999⟩, 7, some 4102, 60000, .issued, false, none⟩
  let o : Order :=
    { order .printing [line a2] with
      voucherLines := [{ voucher 7 with code := some ⟨12, 4999⟩ }], progress := some .inQueue, quote := some (quoteOf 2000)
      quoteCurrent := true }
  let s := with0 (showing (scr (.sold 12) .free .free)) o (if runs then some (block .print .taken) else none)
  { s with
    vouchers := { s.vouchers with table := [r, { r with code := ⟨12, 1⟩ }] }
    printing :=
      ⟨⟨{ Printer.reset with
            enabled := true, state := .busy, job := some 0
            outstanding := some ⟨.item ⟨0, 1, spoils⟩ (.stub ⟨12, 4999⟩ 7 60000 450 0), 50000⟩ },
          { Printer.reset with enabled := true, state := if ready then .ready else .offline }⟩,
        [⟨0, 3310, some (4102, 60000),
          [⟨.ticket, some 0, .done, 0, some 40000⟩, ⟨kind, if kind = .receipt then none else some 0, .sent, spoils, none⟩,
            ⟨.receipt, none, .pending, 0, none⟩], .onPrinter 0, none⟩], 40001⟩ }

/-- Lane 0's job is the only one, on printer 0, and its item 1 is the first that is SENT. -/
theorem test_meets_PrinterTimersAndInputs_busy :
    (([(0, .ticket, true, false), (1, .stub, true, true), (2, .receipt, true, false), (2, .stub, false, true)] :
        List (Nat × ItemKind × Bool × Bool)).all fun (n, kind, runs, ready) =>
      let s := busy n kind runs ready;
      Live s ∧ (s.printer 0).enabled = true ∧ (s.printer 0).state = .busy ∧ (s.printer 0).job = some 0
        ∧ (s.printing.jobs.map fun j => (j.lane, j.place, j.items.length)) = [(0, .onPrinter 0, 3)]
        ∧ (s.printing.jobs.flatMap fun j => j.items.map Item.state) = [.done, .sent, .pending]
        ∧ (s.printing.jobs.flatMap fun j => j.items.map Item.spoils) = [0, n, 0] ∧ s.isReady (1 - 0) = ready
        ∧ s.pins.ports.get 0 ≠ { s.pins.ports.get 0 with coverOpen := true } ∧ s.linesClear 0 = true
        ∧ ((s.lane 0).block = none ∨ s.runningWord 0 = some (.print, .taken))
        ∧ (s.printer 0).outstanding = some ⟨.item ⟨0, 1, n⟩ (.stub ⟨12, 4999⟩ 7 60000 450 0), 50000⟩
        ∧ 50000 ≤ s.house.clock) = true := by decide

theorem test_meets_PrinterMessages_done :
    let s := busy 1 .stub true false
    Live s ∧ (s.printer 0).enabled = true ∧ (s.printer 0).job = some 0 ∧ (s.printing.jobs.map Job.lane) = [0]
      ∧ (s.printer 0).outstanding = some ⟨.item ⟨0, 1, 1⟩ (.stub ⟨12, 4999⟩ 7 60000 450 0), 50000⟩
      ∧ (s.printing.jobs.flatMap Job.items)[1]? = some ⟨.stub, some 0, .sent, 1, none⟩
      ∧ (s.lane 0).order.voucherLines[0]? = some { voucher 7 with code := some ⟨12, 4999⟩ }
      ∧ s.vouchers.table = [] ++ ⟨⟨12, 4999⟩, 7, some 4102, 60000, .issued, false, none⟩
          :: [⟨⟨12, 1⟩, 7, some 4102, 60000, .issued, false, none⟩]
      ∧ (s.printing.jobs.flatMap Job.items)[2]? = some ⟨.receipt, none, .pending, 0, none⟩ := by decide

/-- The next item after a DONE is a TICKET that has no serial yet: first sent, or sent again after a spoil. -/
theorem test_meets_PrinterMessages_ticket :
    (([.pending, .spoiled] : List ItemState).all fun st =>
      let s0 := busy 1 .ticket true false;
      let s : State :=
        { s0 with
          printing :=
            { s0.printing with
              serial := 16777215
              jobs := s0.printing.jobs.map fun j => { j with items := j.items.set 2 ⟨.ticket, some 0, st, 2, none⟩ } } };
      Live s ∧ (s.printing.jobs.flatMap Job.items)[2]? = some ⟨.ticket, some 0, st, 2, none⟩
        ∧ (s.printing.jobs.flatMap Job.items)[0]? = some ⟨.ticket, some 0, .done, 0, some 40000⟩
        ∧ (s.lane 0).order.seatLines[0]? = some (line a2) ∧ (s.lane 0).order.code = some 4102
        ∧ s.screening 4102 = some (scr (.sold 12) .free .free)) = true := by decide

/-- FAULT finds a printer READY, OFFLINE with nothing outstanding, or with a PROBE outstanding (R151). -/
theorem test_meets_PrinterMessages_fault :
    (([(.ready, none), (.offline, none), (.offline, some .probe), (.faulted, some .probe)] :
        List (PrinterState × Option PrinterMsg)).all fun (st, m) =>
      let s := printerIn st m;
      Live s ∧ (s.printer 0).enabled = true ∧ (s.printer 0).job = none
        ∧ ((s.printer 0).state = .ready ∨ (s.printer 0).state = .offline ∧ (s.printer 0).outstanding = none
          ∨ (s.printer 0).outstanding = some ⟨.probe, 50000⟩)) = true := by decide

/-- A STUB reported DONE has printed: its record says so, and no other does (R140). -/
theorem test_stub_done_is_printed :
    (match exec (.doneReceived 0 ⟨0, 1, 1⟩) (busy 1 .stub true false) with
      | .next t => some (t.vouchers.table.map VoucherRecord.printed)
      | _ => none) = some [true, false] := by decide +kernel

/-- The cover opens while printer 0 is BUSY: the report names the lane and tag, and the stub has a new code (R141, R147). -/
theorem test_cover_opens_on_a_busy_printer :
    (match exec (.faultLineAsserted 0 .coverOpen) (busy 0 .stub true false) with
      | .next t =>
        decide (t.io.ring.waiting.map (fun r => (r.kind, r.qual, r.lane, r.tag)) = [(.printerFault, .coverOpen, some 0, some 3310)])
          && decide (t.printing.jobs.map Job.place = [.returned])
          && decide ((t.lane 0).order.voucherLines.map VoucherLine.code = [some ⟨12, 5000⟩])
          && decide (t.vouchers.table.map VoucherRecord.status = [.void, .issued, .issued])
      | _ => false) = true := by decide +kernel

theorem test_meets_PrinterMessages_probe :
    (([[(.waiting, none, 99999), (.returned, some 1, 50000), (.returned, some 0, 99999)],
        [(.waiting, none, 99999), (.waiting, none, 50600), (.waiting, none, 50000)]] : List (List (Place × Option Nat × Nat))).all
      fun jobs =>
        let s := recovering jobs;
        Live s ∧ (s.printer 0).enabled = true ∧ (s.printer 0).outstanding = some ⟨.probe, 50000⟩ ∧ s.linesClear 0 = true
          ∧ s.isReady (1 - 0) = false ∧ s.printing.jobs.length = 3) = true := by decide

/-- A DRAINING part whose last order, in COMPLETE, is finished: the state before and the state after meet the test. -/
def lastOrder : State :=
  { running up (order .complete []) .finish with house := { up.house with drain := .draining } }

theorem test_meets_DrainedReport :
    (let after := with0 lastOrder Order.blank none;
      after.house.drain = .draining
        ∧ (∀ l, l.val < after.cfg.laneCount → (after.lane l).order.state ∈ ([.empty, .sold, .complete, .unresolved] : List OrderState))
        ∧ after.link.queue = [] ∧ after.link.contention.entry = none ∧ after.link.overflow = none
        ∧ (after.lane 0).order.state ≠ (lastOrder.lane 0).order.state)
      ∧ Live lastOrder ∧ Instr.finish 0 ∉ ([.supplyWarningReleased, .resetReleased, .resetAsserted, .houseClockAdvance] : List Instr) := by
  decide

/-- The step that empties it raises the DRAINED report (R188). -/
theorem test_finish_reports_drained :
    (match exec (.finish 0) lastOrder with
      | .next t => some (t.house.drain, t.io.ring.waiting.map Report.kind)
      | _ => none) = some (.drained, [.drained]) := by decide +kernel

end Sys2Proof.Tests
end

section
/-! PROOFS of O37 and O39 (05_price_computation.md). Pairing and the discount cap are each said once by position: whether a
line is paired depends on the eligible lines before it, and what the cap takes from a line on the discounts after it. The
obligations follow from these two, from one form of a quote's figures, and from the bounds of the two roundings. -/

namespace Sys2Proof.Proofs.Pricing

open Sys2Proof Sys2Proof.Machine

/-! ### Rounding -/

theorem roundHalfUp_million (n : Nat) : roundHalfUp n 1000000 = (n + 500000) / 1000000 := by
  unfold roundHalfUp
  split <;> omega

/-- `q` is a nearest whole number to `n / d`, and the even one where two are equally near. -/
structure RoundsHalfEven (n d q : Nat) : Prop where
  lower : 2 * n ≤ (2 * q + 1) * d
  upper : 2 * q * d ≤ 2 * n + d
  even_of_tie : 2 * n = (2 * q + 1) * d ∨ 2 * q * d = 2 * n + d → q % 2 = 0

theorem roundHalfEven_spec (n d : Nat) (hd : 0 < d) : RoundsHalfEven n d (roundHalfEven n d) := by
  have hn : n / d * d + n % d = n := Nat.div_add_mod' n d
  have hlt : n % d < d := Nat.mod_lt n hd
  have down (q : Nat) : (2 * q + 1) * d = 2 * (q * d) + d ∧ 2 * q * d = 2 * (q * d) := ⟨by ring, by ring⟩
  have up (q : Nat) : (2 * (q + 1) + 1) * d = 2 * (q * d) + 3 * d ∧ 2 * (q + 1) * d = 2 * (q * d) + 2 * d :=
    ⟨by ring, by ring⟩
  unfold roundHalfEven
  generalize n / d = q at *
  obtain ⟨dl, du⟩ := down q
  obtain ⟨ul, uu⟩ := up q
  split
  case isTrue above => constructor <;> omega
  case isFalse notAbove =>
    split
    case isTrue half => split <;> constructor <;> omega
    case isFalse notHalf => constructor <;> omega

theorem taxOf_spec (part rate : Nat) : RoundsHalfEven (part * rate) (10000 + rate) (taxOf part rate) :=
  roundHalfEven_spec _ _ (by omega)

/-- A contained tax is at most its part, whatever the rate: the divisor exceeds the rate. -/
theorem taxOf_le (part rate : Nat) : taxOf part rate ≤ part := by
  have h := (taxOf_spec part rate).upper
  by_contra hlt
  have : 2 * (part + 1) * (10000 + rate) ≤ 2 * taxOf part rate * (10000 + rate) :=
    Nat.mul_le_mul_right _ (by omega)
  have expand : 2 * (part + 1) * (10000 + rate) = 20000 * part + 2 * (part * rate) + 20000 + 2 * rate := by ring
  omega

/-! ### Seat-line prices -/

/-- The price of a seat line with its rounding written as one division (R96, R97). -/
theorem linePrice_eq (x : Screening) (v : SeatLine) :
    x.linePrice v = (x.basePrice v.seat * x.factor v.type * x.band + 500000) / 1000000 + x.surcharge := by
  simp only [Screening.linePrice, rawPrice, scaledPrice, roundHalfUp_million]

theorem anyClamped_iff (x : Screening) (lines : List SeatLine) :
    anyClamped (some x) lines = true ↔ ∃ v ∈ lines, 65535 < x.linePrice v := by
  simp only [anyClamped, List.any_eq_true, decide_eq_true_eq]
  rfl

/-! ### Pairing -/

/-- R98 by position: a line is paired when it is eligible and fewer than `n` eligible lines stand before it. -/
theorem pairFlags_eq_mapIdx (n : Nat) (es : List Bool) :
    pairFlags n es = es.mapIdx fun k e => e && decide ((es.take k).count true < n) := by
  induction es generalizing n with
  | nil => cases n <;> rfl
  | cons e es ih =>
    cases n with
    | zero => simp [pairFlags, ih]
    | succ n => cases e <;> simp [pairFlags, ih]

/-! ### The discount cap -/

/-- The excess left over is what the discounts could not take. -/
theorem capDiscounts_left (excess : Nat) (ds : List Nat) : (capDiscounts excess ds).2 = excess - ds.sum := by
  induction ds with
  | nil => rfl
  | cons d ds ih =>
    simp only [capDiscounts, ih, List.sum_cons]
    omega

/-- R100 by position: a line loses the excess that the lines after it could not take. -/
theorem capDiscounts_getElem? (excess : Nat) (ds : List Nat) (k : Nat) :
    (capDiscounts excess ds).1[k]? = ds[k]?.map fun d => d - (excess - (ds.drop (k + 1)).sum) := by
  induction ds generalizing k with
  | nil => rfl
  | cons d ds ih =>
    cases k with
    | zero =>
      simp only [capDiscounts, capDiscounts_left, List.getElem?_cons_zero, Option.map_some, List.drop_succ_cons,
        List.drop_zero]
      congr 1
      omega
    | succ k => simpa [capDiscounts] using ih k

theorem capDiscounts_sum (excess : Nat) (ds : List Nat) : (capDiscounts excess ds).1.sum = ds.sum - excess := by
  induction ds with
  | nil => simp [capDiscounts]
  | cons d ds ih =>
    simp only [capDiscounts, capDiscounts_left, List.sum_cons, ih]
    omega

theorem capDiscounts_le {excess k d z : Nat} {ds : List Nat} (hd : ds[k]? = some d)
    (hz : (capDiscounts excess ds).1[k]? = some z) : z ≤ d := by
  simp only [capDiscounts_getElem?, hd, Option.map_some, Option.some.injEq] at hz
  omega

theorem capDiscounts_zero (ds : List Nat) : (capDiscounts 0 ds).1 = ds :=
  List.ext_getElem? fun k => by simp [capDiscounts_getElem?]

/-- A discount and those after it sum to at most those after any earlier one. -/
theorem add_sum_drop_le {ds : List Nat} {k j d : Nat} (hkj : k < j) (hd : ds[j]? = some d) :
    d + (ds.drop (j + 1)).sum ≤ (ds.drop (k + 1)).sum := by
  obtain ⟨hj, rfl⟩ := List.getElem?_eq_some_iff.1 hd
  calc ds[j] + (ds.drop (j + 1)).sum = (ds.drop j).sum := by rw [List.drop_eq_getElem_cons hj, List.sum_cons]
    _ ≤ (ds.drop (k + 1)).sum := (List.drop_sublist_drop_left ds hkj).sum_le_sum fun _ _ => Nat.zero_le _

/-- A lowered line has every later line at 0: the excess that reaches it is more than all later lines held. -/
theorem capDiscounts_later_zero {excess k j d z y : Nat} {ds : List Nat} (hd : ds[k]? = some d)
    (hz : (capDiscounts excess ds).1[k]? = some z) (hlow : z < d) (hkj : k < j)
    (hy : (capDiscounts excess ds).1[j]? = some y) : y = 0 := by
  simp only [capDiscounts_getElem?, hd, Option.map_some, Option.some.injEq] at hz
  rw [capDiscounts_getElem?, Option.map_eq_some_iff] at hy
  obtain ⟨dj, hdj, rfl⟩ := hy
  have := add_sum_drop_le hkj hdj
  omega

/-! ### The figures of a quote -/

/-- The catalog item that a voucher line names. -/
def itemOf (catalog : List CatalogItem) (v : VoucherLine) : Option CatalogItem := catalog.find? fun i => i.code = v.item

def voucherPrice (catalog : List CatalogItem) (v : VoucherLine) : Nat := ((itemOf catalog v).map CatalogItem.price).getD 0

def comboDiscountOf (catalog : List CatalogItem) (v : VoucherLine) : Nat :=
  ((itemOf catalog v).map CatalogItem.comboDiscount).getD 0

def eligible (catalog : List CatalogItem) (v : VoucherLine) : Bool := ((itemOf catalog v).map CatalogItem.combo).getD false

/-- Whether the line `v` at position `k` is paired when there are `n` pairings (R98). -/
def isPaired (catalog : List CatalogItem) (vlines : List VoucherLine) (n k : Nat) (v : VoucherLine) : Bool :=
  eligible catalog v && decide ((vlines.take k).countP (eligible catalog) < n)

/-- The discounts of the lines before the cap (R99). -/
def uncapped (catalog : List CatalogItem) (vlines : List VoucherLine) (n : Nat) : List Nat :=
  vlines.mapIdx fun k v => lineDiscount (isPaired catalog vlines n k v) (comboDiscountOf catalog v)
    (voucherPrice catalog v)

theorem isPaired_iff {catalog : List CatalogItem} {vlines : List VoucherLine} {n k : Nat} {v : VoucherLine} :
    isPaired catalog vlines n k v = true
      ↔ eligible catalog v = true ∧ (vlines.take k).countP (eligible catalog) < n := by
  simp [isPaired]

theorem lineDiscount_le_price (paired : Bool) (combo price : Nat) : lineDiscount paired combo price ≤ price := by
  cases paired
  · exact Nat.zero_le _
  · exact Nat.min_le_right _ _

theorem count_true_map (f : VoucherLine → Bool) (vlines : List VoucherLine) :
    (vlines.map f).count true = vlines.countP f := by
  simp [List.count, List.countP_map, Function.comp_def]

theorem uncapped_getElem? (catalog : List CatalogItem) (vlines : List VoucherLine) (n k : Nat) :
    (uncapped catalog vlines n)[k]? = vlines[k]?.map fun v =>
      lineDiscount (isPaired catalog vlines n k v) (comboDiscountOf catalog v) (voucherPrice catalog v) := by
  simp [uncapped, List.getElem?_mapIdx]

theorem pairFlags_map_eligible (catalog : List CatalogItem) (vlines : List VoucherLine) (n : Nat) :
    pairFlags n (vlines.map (eligible catalog)) = vlines.mapIdx (isPaired catalog vlines n) := by
  refine List.ext_getElem? fun k => ?_
  simp only [pairFlags_eq_mapIdx, List.getElem?_mapIdx, List.getElem?_map, Option.map_map, ← List.map_take,
    count_true_map]
  rfl

/-- The discounts before the cap as the model collects them, from a list each of flags, combo discounts and prices. -/
theorem map_zip_eq_uncapped (catalog : List CatalogItem) (vlines : List VoucherLine) (n : Nat) :
    ((pairFlags n (vlines.map (eligible catalog))).zip
        ((vlines.map (comboDiscountOf catalog)).zip
          (vlines.map (voucherPrice catalog)))).map (fun p => lineDiscount p.1 p.2.1 p.2.2)
      = uncapped catalog vlines n := by
  refine List.ext_getElem? fun k => ?_
  rw [pairFlags_map_eligible, uncapped_getElem?, List.getElem?_map]
  cases h : vlines[k]? <;>
    simp only [List.zip, List.getElem?_zipWith, List.getElem?_mapIdx, List.getElem?_map, h, Option.map_some,
      Option.map_none]

/-- The same discounts with each line's flag written out by the lines before it (R98, R99). -/
theorem map_range_zip_eq_uncapped (catalog : List CatalogItem) (vlines : List VoucherLine) (n : Nat) :
    ((List.range vlines.length).zip vlines).map (fun e =>
        if eligible catalog e.2 ∧ (vlines.take e.1).countP (eligible catalog) < n then
          min (((itemOf catalog e.2).map CatalogItem.comboDiscount).getD 0)
            (((itemOf catalog e.2).map CatalogItem.price).getD 0) else 0)
      = uncapped catalog vlines n := by
  refine List.ext_getElem? fun k => ?_
  rw [uncapped_getElem?, List.getElem?_map]
  cases h : vlines[k]? with
  | none => simpa using h
  | some v =>
    have hzip : ((List.range vlines.length).zip vlines)[k]? = some (k, v) := by
      rw [List.getElem?_zip_eq_some]
      exact ⟨List.getElem?_range (List.getElem?_eq_some_iff.1 h).1, h⟩
    simp only [hzip, Option.map_some, lineDiscount, isPaired_iff, voucherPrice, comboDiscountOf]

/-- The discounts of a quote: those before the cap, with the excess over the cap taken from the last line (R99, R100). -/
def discountsOf (catalog : List CatalogItem) (c : SetupRecord) (vlines : List VoucherLine) (n : Nat) : List Nat :=
  (capDiscounts ((uncapped catalog vlines n).sum - c.discountCap) (uncapped catalog vlines n)).1

theorem discountsOf_length (catalog : List CatalogItem) (c : SetupRecord) (vlines : List VoucherLine) (n : Nat) :
    (discountsOf catalog c vlines n).length = vlines.length := by
  simp [discountsOf, capDiscounts_length, uncapped]

theorem discountsOf_sum (catalog : List CatalogItem) (c : SetupRecord) (vlines : List VoucherLine) (n : Nat) :
    (discountsOf catalog c vlines n).sum = min c.discountCap (uncapped catalog vlines n).sum := by
  rw [discountsOf, capDiscounts_sum]
  omega

section

variable {x : Option Screening} {catalog : List CatalogItem} {c : SetupRecord} {lines : List SeatLine}
  {vlines : List VoucherLine} {p : Priced} (hp : p = priceOrder x catalog c lines vlines)

include hp

theorem priceOrder_pairings : p.quote.pairings = min lines.length (vlines.countP (eligible catalog)) := by
  rw [hp, ← count_true_map]
  simp only [priceOrder, List.map_map]
  rfl

/-- The figures and the total discount of a quote, over the named quantities of each voucher line. -/
theorem priceOrder_discounts :
    p.voucherFigures = (vlines.map (voucherPrice catalog)).zip
        ((vlines.mapIdx (isPaired catalog vlines p.quote.pairings)).zip (discountsOf catalog c vlines p.quote.pairings))
      ∧ p.quote.totalDiscount = (discountsOf catalog c vlines p.quote.pairings).sum := by
  rw [← pairFlags_map_eligible]
  simp only [discountsOf, ← map_zip_eq_uncapped]
  subst hp
  simp only [priceOrder, List.map_map]
  exact ⟨rfl, rfl⟩

/-- The figures at a position: the line's price, whether it is paired, and its discount after the cap. -/
theorem voucherFigures_at {k : Nat} {v : VoucherLine} {f : Nat × Bool × Nat} (hv : vlines[k]? = some v)
    (hf : p.voucherFigures[k]? = some f) :
    f.1 = voucherPrice catalog v ∧ f.2.1 = isPaired catalog vlines p.quote.pairings k v
      ∧ (discountsOf catalog c vlines p.quote.pairings)[k]? = some f.2.2 := by
  rw [(priceOrder_discounts hp).1, List.getElem?_zip_eq_some, List.getElem?_zip_eq_some] at hf
  obtain ⟨hprice, hpaired, hdiscount⟩ := hf
  simp only [List.getElem?_map, List.getElem?_mapIdx, hv, Option.map_some, Option.some.injEq] at hprice hpaired
  exact ⟨hprice.symm, hpaired.symm, hdiscount⟩

theorem voucherFigures_prices : p.voucherFigures.map Prod.fst = vlines.map (voucherPrice catalog) := by
  rw [(priceOrder_discounts hp).1, List.map_fst_zip]
  simp [discountsOf_length]

theorem voucherFigures_discounts :
    (p.voucherFigures.map fun f => f.2.2) = discountsOf catalog c vlines p.quote.pairings := by
  have twice : (p.voucherFigures.map fun f => f.2.2) = (p.voucherFigures.map Prod.snd).map Prod.snd :=
    List.map_map.symm
  rw [twice, (priceOrder_discounts hp).1, List.map_snd_zip, List.map_snd_zip] <;> simp [discountsOf_length]

/-- No line's discount exceeds its price (R99): it is at most the discount before the cap, and that at most the price. -/
theorem discount_le_price {k : Nat} {v : VoucherLine} {f : Nat × Bool × Nat} (hv : vlines[k]? = some v)
    (hf : p.voucherFigures[k]? = some f) : f.2.2 ≤ f.1 := by
  obtain ⟨hprice, -, hdiscount⟩ := voucherFigures_at hp hv hf
  have hun := uncapped_getElem? catalog vlines p.quote.pairings k
  rw [hv, Option.map_some] at hun
  exact hprice ▸ (capDiscounts_le hun hdiscount).trans (lineDiscount_le_price _ _ _)

theorem totalDiscount_le_voucherSum :
    (p.voucherFigures.map fun f => f.2.2).sum ≤ (p.voucherFigures.map Prod.fst).sum := by
  refine List.sum_le_sum fun f hf => ?_
  obtain ⟨k, hk⟩ := List.getElem?_of_mem hf
  have hlen : p.voucherFigures.length = vlines.length := hp ▸ priceOrder_figures x catalog c lines vlines
  obtain ⟨hlt, -⟩ := List.getElem?_eq_some_iff.1 hk
  exact discount_le_price hp (List.getElem?_eq_getElem (hlen ▸ hlt)) hk

end

/-! ### The obligations -/

/-- Settles O37: the flags and the discounts by position, through the pairing and the cap each said by position. -/
theorem discounts : Obligations.Discounts := by
  intro x catalog c lines vlines p find combo before hp hfind hcombo hbefore
  obtain rfl : combo = eligible catalog := by subst hfind; exact hcombo
  obtain rfl : find = itemOf catalog := hfind
  obtain rfl : before = uncapped catalog vlines p.quote.pairings := by
    rw [hbefore]
    exact map_range_zip_eq_uncapped catalog vlines _
  have hfigures := voucherFigures_discounts hp
  have htotal := (priceOrder_discounts hp).2
  refine ⟨priceOrder_pairings hp, hp ▸ priceOrder_figures x catalog c lines vlines, ?_,
    htotal.trans (discountsOf_sum _ _ _ _), by rw [hfigures, htotal]⟩
  intro k v f hv hf
  obtain ⟨hprice, hpaired, hdiscount⟩ := voucherFigures_at hp hv hf
  refine ⟨by rw [hpaired, isPaired_iff], hprice, discount_le_price hp hv hf, fun d hd => ?_⟩
  refine ⟨capDiscounts_le hd hdiscount, fun hcap => ?_, fun hlow j hkj g hg => ?_⟩
  · rw [discountsOf, Nat.sub_eq_zero_of_le hcap, capDiscounts_zero, hd] at hdiscount
    exact (Option.some.inj hdiscount).symm
  · have hg' : (discountsOf catalog c vlines p.quote.pairings)[j]? = some g.2.2 := by
      rw [← hfigures, List.getElem?_map, hg, Option.map_some]
    exact capDiscounts_later_zero hd hdiscount hlow hkj hg'

/-- Settles O39: seat-line prices with their rounding as one division, and both taxes through the one rounding. -/
theorem pricesAndTaxes : Obligations.PricesAndTaxes := by
  intro x catalog c lines vlines p raw hp hraw
  obtain rfl : raw = x.linePrice := hraw.trans (funext fun v => (linePrice_eq x v).symm)
  have hdiscounts := priceOrder_discounts hp
  have hsum : p.quote.voucherSum = (p.voucherFigures.map Prod.fst).sum := by
    rw [voucherFigures_prices hp, hp]
    simp only [priceOrder, List.map_map]
    rfl
  have hle : p.quote.totalDiscount ≤ p.quote.voucherSum := by
    rw [hsum, hdiscounts.2, ← voucherFigures_discounts hp]
    exact totalDiscount_le_voucherSum hp
  have htaxes : p.quote.ticketTax = taxOf p.quote.ticketPart c.ticketTax
      ∧ p.quote.concessionTax = taxOf p.quote.concessionPart c.concessionTax := by
    subst hp
    exact ⟨rfl, rfl⟩
  have hconcession : p.quote.concessionPart = p.quote.voucherSum - p.quote.totalDiscount := by
    subst hp
    rfl
  refine ⟨hp ▸ rfl, hp ▸ anyClamped_iff x lines, hp ▸ rfl, hsum, by omega, hp ▸ rfl, hp ▸ rfl, ?_⟩
  intro part rate tax hpart
  obtain rfl : tax = taxOf part rate := by
    rcases hpart with ⟨rfl, rfl, rfl⟩ | ⟨rfl, rfl, rfl⟩
    · exact htaxes.1
    · exact htaxes.2
  obtain ⟨lower, upper, even_of_tie⟩ := taxOf_spec part rate
  exact ⟨lower, upper, even_of_tie, fun _ => taxOf_le part rate⟩

end Sys2Proof.Proofs.Pricing
end

section
/-! PROOFS of O1 to O4: what every step keeps. Most commands keep all that Keeps names (exec_keeps); each of the others
changes one thing first, so StepKept says what every command keeps and composes with Keeps on both sides. -/

namespace Sys2Proof.Proofs.Invariants

open Sys2Proof Sys2Proof.Machine

/-! ### What every command keeps -/

/-- What a command keeps: the queue, the invariants of O2, the screenings of O3, and the setup record and the drain latch
where the command is not among the few that may change them. -/
structure StepKept (c : Instr) (s t : State) : Prop where
  pending : t.pending = s.pending
  capacities : Capacities s → Capacities t
  host : s.io.host.wf = true → t.io.host.wf = true
  serials : SerialsInRange s → SerialsInRange t
  counts : VoucherCounts s → VoucherCounts t
  slots : s.slots.length = Config.slotCount → List.Forall₂ SlotKept s.slots t.slots
  record : s.house.lock = true → c ≠ .resetAsserted → t.house.record = s.house.record ∧ t.house.lock = true
  latch : s.house.drain ≠ .clear → c ≠ .resume → c ≠ .resetAsserted → t.house.drain ≠ .clear

theorem slotKept_of_slotSame {a b : Option Screening} (h : SlotSame a b) : SlotKept a b := by
  rintro x y rfl rfl
  exact h

/-- A slot that is kept the same may come before or after a slot kept. -/
theorem slotKept_of_same_kept {a b c : Option Screening} (h : SlotSame a b) (k : SlotKept b c) : SlotKept a c := by
  rintro x y rfl rfl
  cases b with
  | none => exact h.elim
  | some z => exact ScreeningKept.trans h (k z y rfl rfl)

theorem slotKept_of_kept_same {a b c : Option Screening} (h : SlotKept a b) (k : SlotSame b c) : SlotKept a c := by
  rintro x y rfl rfl
  cases b with
  | none => exact k.elim
  | some z => exact ScreeningKept.trans (h x z rfl rfl) k

theorem forall₂_comp {α : Type} {R S T : α → α → Prop} (comp : ∀ a b c, R a b → S b c → T a c) {xs ys zs : List α}
    (h : List.Forall₂ R xs ys) (k : List.Forall₂ S ys zs) : List.Forall₂ T xs zs := by
  induction h generalizing zs with
  | nil => cases k; exact .nil
  | cons h1 _ ih => cases k with | cons k1 k2 => exact .cons (comp _ _ _ h1 k1) (ih k2)

theorem capacities_of_keeps {s t : State} (k : Keeps s t) (h : Capacities s) : Capacities t :=
  ⟨k.link h.link, k.ring h.ring, k.table h.table, k.slots.length_eq.symm.trans h.slots, k.clock ▸ h.clock⟩

theorem serials_of_keeps {s t : State} (k : Keeps s t) (h : SerialsInRange s) : SerialsInRange t := fun lock =>
  have ⟨hv, ht⟩ := h (k.lock ▸ lock)
  ⟨k.vserial hv, k.tserial ht⟩

variable {c : Instr} {s t u : State}

theorem StepKept.of_keeps (k : Keeps s t) : StepKept c s t where
  pending := k.pending
  capacities := capacities_of_keeps k
  host := k.host
  serials := serials_of_keeps k
  counts := k.counts
  slots _ := k.slots.imp fun _ _ => slotKept_of_slotSame
  record lock _ := ⟨k.record, k.lock.trans lock⟩
  latch set _ _ := k.latched set

/-- What a command keeps, with operations that keep everything before it. -/
theorem StepKept.after (k : Keeps s t) (h : StepKept c t u) : StepKept c s u where
  pending := h.pending.trans k.pending
  capacities := h.capacities ∘ capacities_of_keeps k
  host := h.host ∘ k.host
  serials := h.serials ∘ serials_of_keeps k
  counts := h.counts ∘ k.counts
  slots len := forall₂_comp (fun a b c => @slotKept_of_same_kept a b c) k.slots (h.slots (k.slots.length_eq.symm.trans len))
  record lock reset :=
    have ⟨kept, locked⟩ := h.record (k.lock.trans lock) reset
    ⟨kept.trans k.record, locked⟩
  latch set := h.latch (k.latched set)

/-- What a command keeps, with operations that keep everything after it. -/
theorem StepKept.before (h : StepKept c s t) (k : Keeps t u) : StepKept c s u where
  pending := k.pending.trans h.pending
  capacities := capacities_of_keeps k ∘ h.capacities
  host := k.host ∘ h.host
  serials := serials_of_keeps k ∘ h.serials
  counts := k.counts ∘ h.counts
  slots len := forall₂_comp (fun a b c => @slotKept_of_kept_same a b c) (h.slots len) k.slots
  record lock reset :=
    have ⟨kept, locked⟩ := h.record lock reset
    ⟨k.record.trans kept, k.lock.trans locked⟩
  latch set resume reset := k.latched (h.latch set resume reset)

/-- A change of nothing that StepKept speaks of but the house block, the input levels and the slots. -/
theorem StepKept.of_house (house : House) (pins : Pins) (slots : List (Option Screening))
    (clock : s.house.clock < Config.clockModulus → house.clock < Config.clockModulus) (lock : house.lock = s.house.lock)
    (record : house.record = s.house.record) (len : slots.length = s.slots.length)
    (kept : List.Forall₂ SlotKept s.slots slots)
    (latch : s.house.drain ≠ .clear → c ≠ .resume → house.drain ≠ .clear) :
    StepKept c s { s with house := house, pins := pins, slots := slots } where
  pending := rfl
  capacities h := ⟨h.link, h.ring, h.table, len.trans h.slots, clock h.clock⟩
  host := id
  serials h l := h (lock ▸ l)
  counts := VoucherCounts.ofLines rfl fun _ _ => rfl
  slots _ := kept
  record l _ := ⟨record, lock.trans l⟩
  latch set resume _ := latch set resume

theorem slotKept_refl (a : Option Screening) : SlotKept a a := slotKept_of_slotSame (SlotSame.refl a)

theorem slots_kept_refl (xs : List (Option Screening)) : List.Forall₂ SlotKept xs xs :=
  List.forall₂_same.mpr fun a _ => slotKept_refl a

theorem StepKept.of_pins (pins : Pins) : StepKept c s { s with pins := pins } :=
  .of_house s.house pins s.slots id rfl rfl rfl (slots_kept_refl _) fun h _ => h

theorem StepKept.of_slots (slots : List (Option Screening)) (len : slots.length = s.slots.length)
    (kept : List.Forall₂ SlotKept s.slots slots) : StepKept c s { s with slots := slots } :=
  .of_house s.house s.pins slots id rfl rfl len kept fun h _ => h

/-- The close of a step, and a part held in reset, are no more than what a command keeps. -/
theorem StepKept.acted (f : State → State) (h : StepKept c s (f s)) : StepKept c s (s.acted f) := by
  unfold State.acted
  split
  · exact .of_keeps (Keeps.refl s)
  · exact h.before (settle_keeps (Keeps.refl _) _)

/-- A request at its owner keeps what its owner keeps. -/
theorem StepKept.serve (k : RequestKind) (f : TakenRequest → State → State) (h : ∀ t u, StepKept c u (f t u)) :
    StepKept c s (s.serve k f) := by
  have popped := State.popTaken_keeps (Keeps.refl s)
  unfold State.serve
  split
  · exact .of_keeps (Keeps.refl s)
  · split
    · exact .of_keeps (State.complete_keeps popped _ _)
    · exact (h _ _).after popped

/-! ### The commands that Keeps does not cover -/

theorem leNat_lt (bs : List Byte) : leNat bs < 256 ^ bs.length := by
  induction bs with
  | nil => decide
  | cons b bs ih =>
    have hb := b.isLt
    simp only [leNat, List.length_cons, Nat.pow_succ] at *
    omega

theorem leField_lt (bs : List Byte) (off n : Nat) : leField bs off n < 256 ^ n :=
  (leNat_lt _).trans_le (Nat.pow_le_pow_right (by decide) (by simp [slice]))

/-- The setup record that passes its checks holds serials that may be drawn and a clock start of four bytes (R180). -/
theorem readSetup_ranges {bs : List Byte} {r : SetupRecord} (h : readSetup bs = some r) :
    (1 ≤ r.firstVoucher ∧ r.firstVoucher ≤ Config.lastVoucherSerial)
      ∧ (1 ≤ r.firstTicket ∧ r.firstTicket ≤ Config.lastTicketSerial) ∧ r.clockStart < Config.clockModulus := by
  unfold readSetup at h
  simp only [Option.ite_none_right_eq_some, Option.some.injEq] at h
  obtain ⟨ok, rfl⟩ := h
  simp only [Bool.and_eq_true, within, decide_eq_true_eq] at ok
  exact ⟨by tauto, by tauto, leField_lt bs 60 4⟩

/-- No order changes when terminal lines are opened. -/
theorem openLines_order (n : Nat) (lanes : PerLane Lane) (l : LaneIx) :
    ((openLines n lanes).get l).order = (lanes.get l).order := by
  have step : ∀ (ls : List LaneIx) (p : PerLane Lane),
      ((ls.foldl (fun q m => if m.val < n then q.set m { q.get m with term := { (q.get m).term with line := .idle } } else q)
        p).get l).order = (p.get l).order := by
    intro ls
    induction ls with
    | nil => exact fun _ => rfl
    | cons m ms ih =>
      intro p
      rw [List.foldl_cons, ih]
      split
      · rw [PerLane.get_set]
        split
        · next e => rw [e]
        · rfl
      · rfl
  exact step laneOrder lanes

theorem setRecord_stepKept (unlocked : s.house.lock = false) {bs : List Byte} {r : SetupRecord} (h : readSetup bs = some r) :
    StepKept .setup s (s.setRecord r) where
  pending := rfl
  capacities k := ⟨⟨k.link.queue, k.link.ids, k.link.fresh, k.link.kept, k.link.aborts, k.link.receiveErrors,
    k.link.collisions, k.link.jam⟩, k.ring, k.table, k.slots, (readSetup_ranges h).2.2⟩
  host := id
  serials _ _ := ⟨(readSetup_ranges h).1, (readSetup_ranges h).2.1⟩
  counts := VoucherCounts.ofLines rfl fun l item => by
    show unissuedOf ((openLines _ _).get l).order.voucherLines item = _
    rw [openLines_order]
    rfl
  slots _ := slots_kept_refl _
  record lock := by simp [unlocked] at lock
  latch set _ _ := set

theorem useRings_keeps {a s : State} (h : Keeps a s) : Keeps a s.useRings :=
  State.modRing_keeps h _ (RingCapacity.ofSame rfl rfl)

theorem takeSetup_stepKept (t : TakenRequest) (s : State) : StepKept .setup s (s.takeSetup t) := by
  unfold State.takeSetup
  split
  · exact .of_keeps (State.complete_keeps (Keeps.refl s) _ _)
  next unlocked =>
    split
    · exact .of_keeps (State.lookRing_keeps (State.complete_keeps (Keeps.refl s) _ _))
    next r h =>
      have ports := State.enablePorts_keeps (Keeps.refl s) r.printerCount
      have recorded := setRecord_stepKept (ports.lock.trans (Bool.eq_false_iff.mpr unlocked)) h
      exact (recorded.after ports).before
        (State.flushReports_keeps (State.lookRing_keeps (useRings_keeps (State.complete_keeps (Keeps.refl _) _ _))))

theorem set_free_slotKept {xs : List (Option Screening)} {i : Nat} (h : xs.findIdx? Option.isNone = some i)
    (x : Option Screening) : List.Forall₂ SlotKept xs (xs.set i x) := by
  obtain ⟨hi, free, -⟩ := List.findIdx?_eq_some_iff_getElem.mp h
  rw [List.forall₂_iff_get]
  refine ⟨by simp, fun j hj hj' => ?_⟩
  simp only [List.get_eq_getElem, List.getElem_set]
  split
  · next e =>
    subst e
    intro y z hy
    rw [hy] at free
    cases free
  · exact slotKept_refl _

theorem takeLoad_stepKept (t : TakenRequest) (s : State) : StepKept .loadScreening s (s.takeLoad t) := by
  have refused (code : Code) : StepKept .loadScreening s (s.complete t.ref (Status.refusal code).bytes) :=
    .of_keeps (State.complete_keeps (Keeps.refl s) _ _)
  unfold State.takeLoad
  split
  · exact refused _
  · split
    · exact refused _
    · split
      · exact refused _
      next i free =>
        split
        · exact (StepKept.of_slots _ (List.length_set ..) (set_free_slotKept free _)).before
            (State.callCensus_keeps (Keeps.refl _) _)
        · exact refused _

theorem filter_slotKept (xs : List (Option Screening)) (p : Screening → Bool) :
    List.Forall₂ SlotKept xs (xs.map fun o => o.filter p) := by
  induction xs with
  | nil => exact .nil
  | cons o xs ih =>
    refine .cons ?_ ih
    rintro x y rfl hy
    obtain ⟨e, -⟩ := Option.filter_eq_some_iff.mp hy
    cases e
    exact ScreeningKept.refl x

theorem takeUnload_stepKept (t : TakenRequest) (s : State) : StepKept .unloadScreening s (s.takeUnload t) := by
  have refused (code : Code) : StepKept .unloadScreening s (s.complete t.ref (Status.refusal code).bytes) :=
    .of_keeps (State.complete_keeps (Keeps.refl s) _ _)
  unfold State.takeUnload
  split
  · exact refused _
  · split
    · exact refused _
    · split
      · exact refused _
      · split
        · exact refused _
        next x _ _ _ =>
          have freed : StepKept .unloadScreening s (s.freeScreening x.code) :=
            .of_slots _ (List.length_map ..) (filter_slotKept _ _)
          exact freed.before (State.applyUnload_keeps s t x)

theorem takeResume_stepKept (t : TakenRequest) (s : State) : StepKept .resume s (s.takeResume t) := by
  have refused (code : Code) : StepKept .resume s (s.complete t.ref (Status.refusal code).bytes) :=
    .of_keeps (State.complete_keeps (Keeps.refl s) _ _)
  unfold State.takeResume
  split
  · exact refused _
  · split
    · exact refused _
    · exact (StepKept.of_house { s.house with drain := .clear } s.pins s.slots id rfl rfl rfl (slots_kept_refl _)
        fun _ e => absurd rfl e).before (State.complete_keeps (Keeps.refl _) _ _)

theorem tick_stepKept : StepKept c s s.tick :=
  .of_house _ s.pins s.slots (fun _ => Nat.mod_lt _ (by decide)) rfl rfl rfl (slots_kept_refl _) fun h _ => h

theorem advance_stepKept : StepKept c s s.advance :=
  (StepKept.acted State.tick tick_stepKept).before s.advance_keeps

theorem releaseReset_stepKept : StepKept .resetReleased s s.releaseReset := by
  have released : StepKept .resetReleased s { s with pins := { s.pins with reset := false } } := .of_pins _
  unfold State.releaseReset
  dsimp only
  split
  · exact released.before (State.latchDrain_keeps (Keeps.refl _))
  · exact released

/-- The reset state has its invariants (R1, R22, R128, R157, R175). -/
theorem linkCapacity_reset : LinkCapacity Link.reset :=
  ⟨Nat.zero_le _, List.nodup_nil, by simp [Link.entries, Link.reset], by simp [Link.entries, Link.reset], Nat.zero_le _,
    Nat.zero_lt_succ _, Nat.zero_le _, fun _ => Nat.zero_lt_succ _⟩

theorem resetAsserted_stepKept :
    StepKept .resetAsserted s
      { State.reset with
        io := ⟨Ring.reset, s.io.host⟩
        pins := { s.pins with reset := true }
        pending := s.pending } where
  pending := rfl
  capacities _ := ⟨linkCapacity_reset, ⟨Nat.zero_le _, Nat.zero_le _⟩, Nat.zero_le _, List.length_replicate, Nat.zero_lt_succ _⟩
  host := id
  serials _ := nofun
  counts _ := ⟨List.nodup_nil, nofun, nofun⟩
  slots len := by
    rw [List.forall₂_iff_get]
    refine ⟨len, fun i _ h x y _ hy => ?_⟩
    simp [State.reset, State.freeSlots] at hy
  record _ h := absurd rfl h
  latch _ _ h := absurd rfl h

/-! ### Every command -/

/-- A change of input levels, and then an operation on the part that keeps everything. -/
theorem StepKept.levels_acted (pins : Pins) (f : State → State) (h : ∀ u, Keeps u (f u)) :
    StepKept c s (State.acted { s with pins := pins } f) :=
  (StepKept.of_pins pins).before (State.acted_keeps f (h _))

theorem exec_stepKept (h : exec c s = .next t) : StepKept c s t := by
  by_cases hc : c.ordinary = true
  · exact .of_keeps (exec_keeps c s t hc h)
  · have e : ∀ u, Host.Outcome.next u = exec c s → StepKept c s u → StepKept c s t := by
      intro u hu k
      rw [h] at hu
      cases hu
      exact k
    clear h
    cases c <;> try exact absurd rfl hc
    case setup => exact e _ rfl (.acted _ (.serve _ _ takeSetup_stepKept))
    case loadScreening => exact e _ rfl (.acted _ (.serve _ _ takeLoad_stepKept))
    case unloadScreening => exact e _ rfl (.acted _ (.serve _ _ takeUnload_stepKept))
    case resume => exact e _ rfl (.acted _ (.serve _ _ takeResume_stepKept))
    case houseClockAdvance =>
      refine e _ rfl ?_
      split
      · exact advance_stepKept
      · exact .of_keeps (Keeps.refl s)
    case supplyWarningAsserted =>
      refine e _ rfl (.levels_acted _ _ fun u => ?_)
      split
      · exact State.latchDrain_keeps (Keeps.refl u)
      · exact Keeps.refl u
    case supplyWarningReleased => exact e _ rfl (.of_pins _)
    case resetAsserted => exact e _ rfl resetAsserted_stepKept
    case resetReleased =>
      refine e _ rfl ?_
      split
      · exact releaseReset_stepKept
      · exact .of_keeps (Keeps.refl s)
    case faultLineAsserted p line =>
      refine e _ rfl (.levels_acted _ _ fun u => ?_)
      split
      · exact Keeps.refl u
      · exact State.faultLine_keeps (Keeps.refl u) p line
    case faultLineReleased p line =>
      refine e _ rfl (.levels_acted _ _ fun u => ?_)
      split
      · exact State.sendProbe_keeps (Keeps.refl u) p
      · exact Keeps.refl u
    case paperLowAsserted p =>
      refine e _ rfl (.levels_acted _ _ fun u => ?_)
      split
      · exact Keeps.refl u
      · exact State.paperLow_keeps (Keeps.refl u) p
    case paperLowReleased => exact e _ rfl (.of_pins _)

/-- A step that takes no command changes nothing; a step that takes one keeps what its command keeps. -/
theorem step_cases (h : step s = .next t) :
    t = s ∨ ∃ c cs, s.pending = c :: cs ∧ StepKept c { s with pending := cs } t := by
  unfold step at h
  split at h
  · cases h
    exact .inl rfl
  next c cs e => exact .inr ⟨c, cs, e, exec_stepKept h⟩

/-! ### The obligations -/

/-- Settles O1: a step's two cases are its definition, and no command changes the queue. -/
theorem stepRunsFrontCommand : Obligations.StepRunsFrontCommand :=
  ⟨fun s => ⟨fun e => by simp [step, e], fun c cs e => by simp [step, e]⟩, fun _ _ _ h => (exec_stepKept h).pending⟩

/-- Settles O2: each invariant is kept by whatever command the step takes. -/
theorem stepKeepsInvariants : Obligations.StepKeepsInvariants := by
  refine ⟨fun s t inv h => ?_, fun s t inv h => ?_, fun s t inv h => ?_, fun s t inv h => ?_⟩ <;>
    obtain rfl | ⟨c, cs, -, k⟩ := step_cases h
  · exact inv
  · exact k.capacities ⟨inv.link, inv.ring, inv.table, inv.slots, inv.clock⟩
  · exact inv
  · exact k.host inv
  · exact inv
  · exact k.serials inv
  · exact inv
  · exact k.counts (VoucherCounts.ofLines (s := s) rfl (fun _ _ => rfl) inv)

/-- Settles O3: a slot that every operation keeps, between the one that frees or loads it. -/
theorem stepKeepsScreenings : Obligations.StepKeepsScreenings := by
  intro s t len h
  obtain rfl | ⟨c, cs, -, k⟩ := step_cases h
  · exact slots_kept_refl _
  · exact k.slots len

/-- Settles O4: only a hardware reset clears the record, and only that and RESUME clear the latch. -/
theorem setupAndLatchHold : Obligations.SetupAndLatchHold :=
  ⟨fun _ _ _ lock reset h => (exec_stepKept h).record lock reset,
    fun _ _ _ set resume reset h => (exec_stepKept h).latch set resume reset⟩

end Sys2Proof.Proofs.Invariants
end

section
/-! PROOFS of O5 to O8, O11 and O12: a lane's events and the other lanes, the reset input, the mitigation timers and the
registers. -/

namespace Sys2Proof.Proofs.Inputs

open Sys2Proof Sys2Proof.Machine Sys2Proof.Proofs.Invariants

/-! ### Commands that act -/

/-- A command that acts on a part that runs has any state that its own effect equals for its effect. -/
theorem effects_of_eq {c : Instr} {s m : State} {f : State → State} (h : exec c s = .next (s.acted f)) (live : Live s)
    (e : f s = m) : Effects c s m := e ▸ effects_of_acted h live

/-- A part that its reset input holds does not act. -/
theorem acted_held {s : State} (f : State → State) (held : s.pins.reset = true) : s.acted f = s := if_pos held

theorem takeEvents_held {s : State} (es : List TimedEvent) (held : s.pins.reset = true) : s.takeEvents es = s := by
  induction es with
  | nil => rfl
  | cons e es ih =>
    show (s.acted (meetTimed e)).takeEvents es = s
    rw [acted_held _ held, ih]

theorem advance_held {s : State} (held : s.pins.reset = true) : s.advance = s := by
  simp only [State.advance, acted_held _ held, takeEvents_held _ held]

/-! ### The lanes -/

/-- Settles O5: one frame lemma for each event of a lane. -/
theorem lanesAreSeparate : Obligations.LanesAreSeparate := by
  intro k c s t of h
  have e : ∀ f : State → State, exec c s = .next (s.acted f) → OthersKept k s (f s) → OthersKept k s t := by
    intro f hf kept
    rw [h] at hf
    cases hf
    exact s.acted_others f kept
  cases c <;> first | exact of.elim | obtain rfl : _ = k := of
  case pick => exact e _ rfl (State.pickWord_others _ s)
  case drop => exact e _ rfl (State.dropWord_others _ s)
  case setType => exact e _ rfl (State.setTypeWord_others _ s)
  case addVoucher => exact e _ rfl (State.addVoucherWord_others _ s)
  case removeVoucher => exact e _ rfl (State.removeVoucherWord_others _ s)
  case quote => exact e _ rfl (State.quoteWord_others _ s)
  case pay => exact e _ rfl (State.payWord_others _ s)
  case print => exact e _ rfl (State.printWord_others _ s)
  case finish => exact e _ rfl (State.finishWord_others _ s)
  case cancel => exact e _ rfl (State.cancelWord_others _ s)
  case contestTimerExpiry => exact e _ rfl (State.contestEnd_others _ s)
  case dueMark => exact e _ rfl (State.dueMark_others _ _ s)
  case demandMark => exact e _ rfl (State.demandMark_others _ _ s)
  case expiryMark => exact e _ rfl (State.expiryMark_others _ _ s)
  case attendanceLapse => exact e _ rfl (State.attendanceEnd_others _ s)
  case resultReceived => exact e _ rfl (State.terminalRx_others (OthersKept.refl _ s) _)
  case capturedReceived => exact e _ rfl (State.terminalRx_others (OthersKept.refl _ s) _)
  case voidedReceived => exact e _ rfl (State.terminalRx_others (OthersKept.refl _ s) _)
  case terminalFrameDiscarded => exact e _ rfl (State.terminalBytes_others _ _ s)
  case terminalByteGapTimeout =>
    cases h
    exact OthersKept.refl _ s
  case terminalFrameSent => exact e _ rfl (State.openExchange_others _ s)
  case authTimeout => exact e _ rfl (State.authTimedOut_others _ s)
  case captureTimeout => exact e _ rfl (State.captureTimedOut_others _ s)
  case voidTimeout => exact e _ rfl (State.voidTimedOut_others _ s)
  case pinDeadline => exact e _ rfl (State.pinEnd_others _ s)

/-! ### Reset -/

/-- Settles O6: the reset state field by field, and its invariants. -/
theorem resetState : Obligations.ResetState := by
  have lane (l : LaneIx) : State.reset.lane l = Lane.reset := by fin_cases l <;> rfl
  have owed (l : LaneIx) : State.reset.link.owed.get l = false := by fin_cases l <;> rfl
  have printer (p : PortIx) : State.reset.printer p = Printer.reset := by fin_cases p <;> rfl
  have unissued : VoucherCounts State.reset := ⟨List.nodup_nil, nofun, nofun⟩
  refine ⟨⟨fun o h => List.eq_of_mem_replicate h, List.length_replicate, rfl, rfl, rfl, rfl, rfl, rfl, owed, fun l => ?_, rfl,
      rfl, rfl, rfl, rfl, rfl, printer, rfl, rfl, rfl, rfl, rfl, rfl, rfl, rfl, rfl, rfl⟩,
    ⟨linkCapacity_reset, ⟨Nat.zero_le _, Nat.zero_le _⟩, Nat.zero_le _, List.length_replicate, Nat.zero_lt_succ _⟩, rfl, nofun,
    unissued⟩
  rw [lane]
  exact ⟨rfl, rfl, rfl, rfl, rfl, rfl, rfl, rfl, rfl⟩

/-- No seat of an empty list changes. -/
theorem mapSeats_nil (s : State) (code : Nat) (f : SeatState → SeatState) : s.mapSeats code [] f = s := by
  have same (o : Option Screening) :
      o.map (fun x => if x.code = code then x.mapSeats (fun r st => if ([] : List SeatRef).contains r then f st else st) else x) = o := by
    cases o with
    | none => rfl
    | some x => simp [Screening.mapSeats]
  show { s with slots := s.slots.map _ } = s
  rw [funext same, List.map_id'']
  exact fun _ => rfl

/-- A lane as after reset has nothing that a cancellation ends, whatever the slots hold. -/
theorem cancelRefusingPick_reset {s : State} (lanes : s.lanes = State.reset.lanes) (link : s.link = Link.reset) (l : LaneIx)
    (code : Code) : s.cancelRefusingPick l Claim.blank code = s := by
  have freed (c : Nat) : s.mapSeats c [] (fun st => if st.heldBy l then .free else st) = s := mapSeats_nil s c _
  have released : s.release l [] true = s := by
    unfold State.release
    simp only [List.filter_nil, freed]
    obtain ⟨house, _, _, _, vouchers, printing, io, pins, pending⟩ := s
    cases lanes
    cases link
    fin_cases l <;> rfl
  have empty : s.cancelOrder l = s.release l [] true := by
    obtain ⟨house, _, _, _, vouchers, printing, io, pins, pending⟩ := s
    cases lanes
    fin_cases l <;> rfl
  show s.cancelOrder l = s
  rw [empty, released]

/-- With every lane as after reset, drain that is latched finds no order and no claim to end. -/
theorem latchDrain_of_reset_lanes {s : State} (lanes : s.lanes = State.reset.lanes) (link : s.link = Link.reset) :
    s.latchDrain = { s with house := { s.house with drain := .draining } } := by
  have lane (l : LaneIx) : s.lane l = Lane.reset := by
    rw [State.lane, lanes]
    fin_cases l <;> rfl
  have given (ls : List LaneIx) : ∀ t : State, t.lanes = s.lanes → ls.foldl State.giveUpQueued t = t := by
    induction ls with
    | nil => exact fun _ _ => rfl
    | cons l ls ih =>
      intro t e
      have blank : (t.lane l).claim.state ≠ .queued := by
        rw [State.lane, e, ← State.lane, lane]
        exact nofun
      rw [List.foldl_cons, State.giveUpQueued, if_neg blank]
      exact ih t e
  have cancelled (ls : List LaneIx) (t : State) (h : t.lanes = s.lanes ∧ t.link = s.link) :
      ls.foldl (fun t l => t.cancelRefusingPick l (s.lane l).claim .orderDraining) t = t := by
    induction ls with
    | nil => rfl
    | cons l ls ih =>
      rw [List.foldl_cons, lane]
      have same := cancelRefusingPick_reset (h.1.trans lanes) (h.2.trans link) l .orderDraining
      exact (congrArg (List.foldl _ · ls) same).trans ih
  unfold State.latchDrain
  dsimp only
  rw [given _ { s with house := { s.house with drain := .draining } } rfl]
  exact cancelled _ _ ⟨rfl, rfl⟩

/-- Settles O7: the reset state is written out, and its release finds nothing to end. -/
theorem resetInput : Obligations.ResetInput := by
  refine ⟨fun s => rfl, fun s held => ⟨fun low => ?_, fun high lanes _ link => ?_⟩⟩
  · simp [Completes, exec, execResetReleased, held, State.releaseReset, low]
  · have latched := latchDrain_of_reset_lanes (s := { s with pins := { s.pins with reset := false } }) lanes link
    simpa [Completes, exec, execResetReleased, held, State.releaseReset, high] using latched

/-- While the reset input holds the part, a command moves its own level and lets the processor's stores through. -/
theorem exec_held {c : Instr} {s : State} (held : s.pins.reset = true) (asserted : c ≠ .resetAsserted)
    (released : c ≠ .resetReleased) :
    exec c s = .next { s with io := ⟨s.io.ring, (s.hostOps c.stores).io.host⟩, pins := c.levels s.pins } := by
  cases c
  case resetAsserted => exact absurd rfl asserted
  case resetReleased => exact absurd rfl released
  case terminalByteGapTimeout => rfl
  case printerByteGapTimeout => rfl
  case otherRegisterWrite => rfl
  case supplyWarningReleased => rfl
  case paperLowReleased => rfl
  case faultLineAsserted p line => cases line <;> exact congrArg Host.Outcome.next (acted_held _ held)
  case faultLineReleased p line => cases line <;> exact congrArg Host.Outcome.next (acted_held _ held)
  case houseClockAdvance =>
    refine congrArg Host.Outcome.next ?_
    split
    · exact advance_held held
    · rfl
  all_goals exact congrArg Host.Outcome.next (acted_held _ held)

/-- Settles O8: nothing acts, and every output and read looks at the reset input first. -/
theorem heldInReset : Obligations.HeldInReset := by
  intro c s held asserted released
  refine ⟨exec_held held asserted released, fun offset => if_pos held, ?_, if_pos held, fun l => if_pos held, fun p =>
    if_pos held⟩
  simp [State.interrupt, held]

/-! ### Mitigation and registers -/

/-- Settles O11: the three cases of one completion, and a timer that runs or does not. -/
theorem mitigationTimers : Obligations.MitigationTimers := by
  refine ⟨fun s live => ?_, fun count time m => ⟨fun h => ?_, fun h t p => ?_, fun h t p => ?_⟩⟩
  · refine ⟨fun h => ?_, fun h => ?_, fun h => ?_, fun h => ?_⟩ <;>
      exact effects_of_eq rfl live (by simp [State.modRing, Ring.mitigationEnd, Mitigation.idle, h])
  · exact if_pos h
  · simp [Mitigation.complete, t, p, show ¬ count ≤ 1 by omega]
  · simp [Mitigation.complete, t, p, show ¬ count ≤ m.pending + 1 by omega]

/-- A register's value carries each of its three bits (R167). -/
theorem causes_value_bits (c : Causes) :
    c.value < 8 ∧ c.value.testBit 0 = c.requestDone ∧ c.value.testBit 1 = c.report ∧ c.value.testBit 2 = c.ringStall := by
  obtain ⟨a, b, d⟩ := c
  cases a <;> cases b <;> cases d <;> decide

/-- A register write acts once the processor's stores have reached its memory; `Effects` judges it from the state before. -/
theorem effects_of_stores {c : Instr} {s m : State} {mem : List HostOp} {f : State → State}
    (h : exec c s = .next ((s.hostOps mem).acted f)) (live : Live s) (e : f (s.hostOps mem) = m) : Effects c s m := by
  refine ⟨settle s m, ?_, rfl, settle_closed _ _⟩
  rw [Completes, h, ← e, State.acted, if_neg (by simpa using live)]
  rfl

/-- Settles O12: the register writes by their definitions, and the reads bit by bit. -/
theorem causeAndMask : Obligations.CauseAndMask := by
  refine ⟨⟨rfl, rfl⟩, fun s v mem live => ?_⟩
  have read (offset : Nat) : s.readRegister offset
      = if offset = 0x10 then s.io.ring.cause.value else if offset = 0x14 then s.io.ring.mask.value else 0 :=
    if_neg (by simp [show s.pins.reset = false from live])
  refine ⟨effects_of_stores rfl live rfl, effects_of_stores rfl live rfl, fun _ _ => rfl, ?_, fun offset h k => ?_, ?_⟩
  · rintro offset c (⟨rfl, rfl⟩ | ⟨rfl, rfl⟩)
    · rw [read, if_pos rfl]
      exact causes_value_bits _
    · rw [read, if_neg (by decide), if_pos rfl]
      exact causes_value_bits _
  · rw [read, if_neg h, if_neg k]
  · simp [State.interrupt, interruptOf, live, or_assoc]

end Sys2Proof.Proofs.Inputs
end

section
/-! PROOFS of O13 to O16: requests handed back, reports, and the kicks of the two rings. A read after a run of bytes written is
said once by position, and a look at a ring once for a descriptor that stops it and once for one that is taken. -/

namespace Sys2Proof.Proofs.Rings

open Sys2Proof Sys2Proof.Machine Sys2Proof.Proofs.Invariants Sys2Proof.Proofs.Inputs

/-! ### Bytes and lengths -/

@[simp] theorem leBytes_length (n v : Nat) : (leBytes n v).length = n := by
  induction n generalizing v with
  | zero => rfl
  | succ n ih => simp [leBytes, ih]

@[simp] theorem seatsBytes_length (rs : List SeatRef) : (seatsBytes rs).length = 2 * rs.length := by
  induction rs with
  | nil => rfl
  | cons r rs ih =>
    show (seatBytes r ++ seatsBytes rs).length = _
    simp [seatBytes, ih]
    omega

theorem padTo_length {n : Nat} {bs : List Byte} (h : bs.length ≤ n) : (padTo n bs).length = n := by
  simp [padTo]
  omega

theorem flatMap_length_of_all {α : Type} (f : α → List Byte) (n : Nat) (h : ∀ x, (f x).length = n) (xs : List α) :
    (xs.flatMap f).length = n * xs.length := by
  induction xs with
  | nil => rfl
  | cons x xs ih =>
    simp [ih, h, Nat.mul_succ]
    omega

@[simp] theorem tenderSummary_bytes_length (t : TenderSummary) : t.bytes.length = 20 :=
  padTo_length (by simp [authBytes, beBytes])

/-- A report entry has 127 bytes after its owner flag (R193). -/
theorem report_bytes_length (dropped : Nat) (r : Report) : (r.bytes dropped).length = 127 := by
  have seats : (padTo 20 (seatsBytes (r.seats.take 10))).length = 20 := padTo_length (by simp; omega)
  have voucher : (padTo 4 ((r.voucher.map vcodeRecordBytes).getD [])).length = 4 :=
    padTo_length (by cases r.voucher <;> simp [vcodeRecordBytes])
  have figures : (padTo 12 ((r.figures.take 3).flatMap (leBytes 4))).length = 12 :=
    padTo_length (by rw [flatMap_length_of_all _ 4 (fun _ => leBytes_length _ _)]; simp; omega)
  have tenders : (padTo 40 ((r.tenders.take 2).flatMap TenderSummary.bytes)).length = 40 :=
    padTo_length (by rw [flatMap_length_of_all _ 20 tenderSummary_bytes_length]; simp; omega)
  simp only [Report.bytes, List.length_append, seats, voucher, figures, tenders, leBytes_length, List.length_cons,
    List.length_nil, List.length_replicate]

/-! ### Memory after a write -/

theorem wrapAddr_of_lt {a : Nat} (h : a < 2 ^ 64) : wrapAddr a = a := Nat.mod_eq_of_lt h

/-- A run of bytes written is read back by position. -/
theorem get_write_at {m : HostMem} {a : Nat} {bs : List Byte} (w : m.wf = true) (fits : a + bs.length ≤ 2 ^ 64) {i : Nat}
    {b : Byte} (h : bs[i]? = some b) : (m.write a bs).get (a + i) = b := by
  induction bs generalizing m a i with
  | nil => cases h
  | cons c bs ih =>
    have hlen : i < bs.length + 1 := (List.getElem?_eq_some_iff.mp h).1
    simp only [List.length_cons] at fits
    cases i with
    | zero =>
      have apart : ∀ j < bs.length, wrapAddr (a + 0) ≠ wrapAddr (a + 1 + j) := fun j hj => by
        rw [wrapAddr_of_lt (by omega), wrapAddr_of_lt (by omega)]
        omega
      rw [HostMem.write, HostMem.get_write_of_ne _ _ _ _ (m.wf_put a c w) apart, m.get_put _ _ _ w]
      simpa using h
    | succ i =>
      have later := ih (m := m.put a c) (a := a + 1) (m.wf_put a c w) (by omega) h
      rwa [show a + 1 + i = a + (i + 1) by omega] at later

/-- A run of bytes written leaves what lies outside it. -/
theorem get_write_outside {m : HostMem} {a x : Nat} {bs : List Byte} (w : m.wf = true) (fits : a + bs.length ≤ 2 ^ 64)
    (hx : x < 2 ^ 64) (out : x < a ∨ a + bs.length ≤ x) : (m.write a bs).get x = m.get x :=
  m.get_write_of_ne _ _ _ w fun i hi => by
    rw [wrapAddr_of_lt hx, wrapAddr_of_lt (by omega)]
    omega

theorem get_put_same {m : HostMem} (a : Nat) (b : Byte) (w : m.wf = true) : (m.put a b).get a = b := by
  simp [m.get_put _ _ _ w]

theorem get_put_other {m : HostMem} {a x : Nat} (b : Byte) (w : m.wf = true) (ha : a < 2 ^ 64) (hx : x < 2 ^ 64)
    (ne : x ≠ a) : (m.put a b).get x = m.get x := by
  rw [m.get_put _ _ _ w, if_neg]
  rwa [wrapAddr_of_lt ha, wrapAddr_of_lt hx]

/-! ### Requests handed back -/

/-- Settles O13: the status block is a run of bytes, the owner flag one byte apart from it. -/
theorem handBack : Obligations.HandBack := by
  intro s ref status w hdesc hstatus apart
  have len : (status.take ref.statusLen).length ≤ ref.statusLen := by simp
  have written := s.io.host.wf_write ref.statusAddr (status.take ref.statusLen) w
  have host : (s.complete ref status).io.host
      = (s.io.host.write ref.statusAddr (status.take ref.statusLen)).put ref.descAddr 0 := rfl
  rw [host]
  refine ⟨get_put_same _ _ written, fun i hi b hb => ?_, fun a ha ne out => ?_, rfl, fun count time m mode hm => ?_⟩
  · rw [get_put_other _ written hdesc (by omega) (by omega)]
    exact get_write_at w (by omega) (by rwa [List.getElem?_take_of_lt hi])
  · rw [get_put_other _ written hdesc ha ne, get_write_outside w (by omega) ha]
    simp only [List.length_take]
    omega
  · subst hm
    rcases mode with ⟨boot, rfl, rfl⟩ | ⟨request, rfl, rfl⟩
    · simp only [State.complete, boot]
      rfl
    · simp only [State.complete, request]
      rfl

/-! ### Reports -/

/-- Settles O14: the report written by position, and the one that waits. -/
theorem reportsRaised : Obligations.ReportsRaised := by
  intro s c rep w record fits
  have len := report_bytes_length s.io.ring.dropped rep
  generalize hbytes : rep.bytes s.io.ring.dropped = bytes at *
  have hio : (s.raise rep).io
      = if s.io.ring.waiting.isEmpty && reportFree (reportAddr c s.io.ring) s.io.host then writeReport c rep s.io
        else joinWaiting rep s.io := by
    simp only [State.raise, raiseIo, record]
  refine ⟨len, fun none free => ?_, fun busy => ?_, rfl⟩
  · have written : (s.raise rep).io = writeReport c rep s.io := by
      rw [hio, if_pos]
      simp [none, reportFree, reportAddr, Config.reportSize, free]
    have host : (s.raise rep).io.host
        = (s.io.host.write (c.reportBase + 128 * s.io.ring.reportCursor + 1) bytes).put
            (c.reportBase + 128 * s.io.ring.reportCursor) 0 := by
      rw [written, ← hbytes]
      rfl
    have ring := congrArg Io.ring written
    have end_fits : c.reportBase + 128 * s.io.ring.reportCursor + 128 ≤ 2 ^ 64 := by omega
    generalize c.reportBase + 128 * s.io.ring.reportCursor = a at *
    have wrote := s.io.host.wf_write (a + 1) bytes w
    rw [host, ring]
    refine ⟨get_put_same _ _ wrote, fun i b hb => ?_, fun x hx out => ?_, fun m hm => by subst hm; rfl⟩
    · have hi : i < bytes.length := (List.getElem?_eq_some_iff.mp hb).1
      rw [get_put_other _ wrote (by omega) (by omega) (by omega)]
      exact get_write_at w (by omega) hb
    · rw [get_put_other _ wrote (by omega) hx (by omega), get_write_outside w (by omega) hx (by omega)]
  · have joined : (s.raise rep).io = joinWaiting rep s.io := by
      rw [hio, if_neg]
      simpa [reportFree, reportAddr, Config.reportSize, imp_iff_not_or] using busy
    rw [joined]
    refine ⟨rfl, rfl, fun room => ?_, fun full => ?_⟩
    · simp [joinWaiting, Config.waitingSize, show ¬ 16 ≤ s.io.ring.waiting.length by omega]
    · simp [joinWaiting, Config.waitingSize, Config.maxDropped, full]

/-- One report of the waiting queue is written while the descriptor at the cursor is the K4's, and the look goes on. -/
theorem flushIo_succ (c : SetupRecord) (n : Nat) {io : Io} {rep : Report} {rest : List Report}
    (waits : io.ring.waiting = rep :: rest) (free : reportFree (reportAddr c io.ring) io.host = true) :
    flushIo c (n + 1) io = flushIo c n (writeReport c rep { io with ring := { io.ring with waiting := rest } }) := by
  simp [flushIo, waits, free]

/-- The look stops with none waiting, or at a descriptor that is not the K4's. -/
theorem flushIo_stops (c : SetupRecord) (n : Nat) {io : Io}
    (stop : io.ring.waiting = [] ∨ reportFree (reportAddr c io.ring) io.host = false) : flushIo c n io = io := by
  cases n with
  | zero => rfl
  | succ n =>
    cases hw : io.ring.waiting with
    | nil => simp [flushIo, hw]
    | cons rep rest =>
      have busy : reportFree (reportAddr c io.ring) io.host = false := by simpa [hw] using stop
      simp [flushIo, hw, busy]

/-- A run of reports, each found at its descriptor, is what the look writes. -/
theorem flushIo_run (c : SetupRecord) (n : Nat) (io : Nat → Io)
    (run : ∀ i, i < n → reportFree (reportAddr c (io i).ring) (io i).host = true
      ∧ ∃ rep rest, (io i).ring.waiting = rep :: rest
        ∧ io (i + 1) = writeReport c rep { io i with ring := { (io i).ring with waiting := rest } })
    (stop : (io n).ring.waiting = [] ∨ reportFree (reportAddr c (io n).ring) (io n).host = false) :
    ∀ left, left ≤ n → flushIo c (io (n - left)).ring.waiting.length (io (n - left)) = io n := by
  intro left
  induction left with
  | zero => exact fun _ => flushIo_stops c _ stop
  | succ left ih =>
    intro le
    obtain ⟨free, rep, rest, waits, next⟩ := run (n - (left + 1)) (by omega)
    have after : n - (left + 1) + 1 = n - left := by omega
    rw [after] at next
    have len : (io (n - left)).ring.waiting.length = rest.length := by rw [next]; rfl
    rw [waits, List.length_cons, flushIo_succ c _ waits free, ← next, ← len]
    exact ih (by omega)

/-- Settles O15: a run of reports written, of which the other cases are runs of none and of one. -/
theorem reportKick : Obligations.ReportKick := by
  intro s v live
  have effect : ∀ m, s.flushReports = m → Effects (.reportKick v []) s m := fun m h => effects_of_stores rfl live h
  have flushed (c : SetupRecord) (record : s.house.record = some c) :
      s.flushReports = { s with io := flushIo c s.io.ring.waiting.length s.io } := by
    simp only [State.flushReports, record]
  have run (c : SetupRecord) (n : Nat) (io : Nat → Io) (record : s.house.record = some c) (start : io 0 = s.io)
      (steps : ∀ i, i < n → reportFree (reportAddr c (io i).ring) (io i).host = true
        ∧ ∃ rep rest, (io i).ring.waiting = rep :: rest
          ∧ io (i + 1) = writeReport c rep { io i with ring := { (io i).ring with waiting := rest } })
      (stop : (io n).ring.waiting = [] ∨ reportFree (reportAddr c (io n).ring) (io n).host = false) :
      Effects (.reportKick v []) s { s with io := io n } := by
    have whole := flushIo_run c n io steps stop n le_rfl
    rw [Nat.sub_self, start] at whole
    exact effect _ (by rw [flushed c record, whole])
  refine ⟨fun h => effect s ?_, fun h => effect s ?_, fun c rep rest record waits => ⟨fun busy => ?_, fun free io hio stop => ?_⟩,
    fun c n io record start steps stop => run c n io record start steps stop⟩
  · simp only [State.flushReports, h]
  · unfold State.flushReports
    split
    · rfl
    · rw [h]
      rfl
  · exact run c 0 (fun _ => s.io) record rfl nofun (.inr busy)
  · refine run c 1 (fun i => if i = 0 then s.io else io) record rfl (fun i hi => ?_) ?_
    · obtain rfl : i = 0 := by omega
      exact ⟨free, rep, rest, waits, hio⟩
    · refine stop.imp_left fun h => ?_
      subst hio
      exact h

/-! ### Looking at the request rings -/

/-- The descriptor at a cursor stops a look: it is marked, the bus answers its read with an error, or it is the
processor's (R169). -/
def Stops (s : State) (base cursor : Nat) : Prop :=
  cursor ∈ s.io.ring.marks ∨ s.io.host.read (base + 32 * cursor) 32 = none
    ∨ ∃ bytes, s.io.host.read (base + 32 * cursor) 32 = some bytes ∧ (readDescriptor bytes).ownedByK4 = false

theorem look_of_stops {s : State} {kind : RingKind} {base length cursor : Nat}
    (ring : s.ringInUse = (kind, some base, length, cursor)) (stops : Stops s base cursor) (n : Nat) : State.look n s = s := by
  cases n with
  | zero => rfl
  | succ n =>
    unfold State.look
    rw [ring]
    simp only [Config.descriptorSize]
    split
    · rfl
    · rcases stops with marked | error | ⟨bytes, read, owner⟩
      · split
        · rfl
        · simp [marked]
      · simp [error]
      · simp [read, owner]

theorem look_of_takes {s : State} {kind : RingKind} {base length cursor : Nat} {bytes : List Byte}
    (ring : s.ringInUse = (kind, some base, length, cursor)) (boot : kind = .boot → s.setupInProgress = false)
    (marks : cursor ∉ s.io.ring.marks) (read : s.io.host.read (base + 32 * cursor) 32 = some bytes)
    (owned : (readDescriptor bytes).ownedByK4 = true) (n : Nat) :
    State.look (n + 1) s
      = State.look n ((s.modRing (Ring.take kind length cursor)).startRequest
          ⟨kind, cursor, base + 32 * cursor, (readDescriptor bytes).statusAddr, (readDescriptor bytes).statusLen⟩
          (readDescriptor bytes)) := by
  have go : ¬ (kind = .boot ∧ s.setupInProgress = true) := fun h => by simp [boot h.1] at h
  rw [State.look, ring]
  simp only [Config.descriptorSize, if_neg go, read, owned, Bool.not_true, Bool.false_or, List.contains_eq_mem]
  rw [if_neg (by simpa using marks)]

/-- A request of a known kind whose block can be read waits for its owner (R170). -/
theorem startRequest_taken {s : State} {ref : RequestRef} {d : Descriptor} {k : RequestKind} {block : List Byte}
    (kind : readKind d.kind = some k) (short : d.blockLength ≤ 4096)
    (read : s.io.host.read d.blockAddr d.blockLength = some block) (ring : ref.ring = .request ∨ k = .setup) :
    s.startRequest ref d = s.modRing fun r => { r with taken := r.taken ++ [⟨ref, k, d.lane, block⟩] } := by
  have go : ¬ (ref.ring = .boot ∧ k ≠ .setup) := by
    rintro ⟨boot, other⟩
    rcases ring with request | rfl
    · rw [boot] at request
      cases request
    · exact other rfl
  simp only [State.startRequest, kind, read, Config.maxBlockLength]
  rw [if_neg (by omega), if_neg go]

/-- Settles O16: the look at the boot ring, the look at the request ring, and each fate of a descriptor. -/
theorem requestKick : Obligations.RequestKick := by
  refine ⟨fun s v live => ⟨fun lock zero => ?_, fun lock nonzero => ?_, fun lock => ?_⟩, fun s ref d => ⟨fun kind => ?_, fun k kind =>
    ⟨fun long => ?_, fun short read => ?_, fun block short read => ⟨fun boot other => ?_, fun ring => ?_⟩⟩⟩⟩
  · refine effects_of_stores rfl live ?_
    have kicked : State.kick v s = (s.modRing fun r => { r with bootBase := none }).lookRing := by
      simp only [State.kick, lock, if_pos zero, Bool.false_eq_true, if_false]
    refine Eq.trans kicked ?_
    simp [State.lookRing, State.look, State.ringInUse, lock, State.modRing, Config.bootRingLength]
  · have booted : State.kick v s = (s.modRing fun r => { r with bootBase := some v.toNat }).lookRing := by
      simp only [State.kick, lock, if_neg nonzero, Bool.false_eq_true, if_false]
    have ring : (s.modRing fun r => { r with bootBase := some v.toNat }).ringInUse
        = (.boot, some v.toNat, 4, s.io.ring.bootCursor) := by
      simp [State.ringInUse, lock, State.modRing, Config.bootRingLength]
    refine ⟨fun bytes read owner => effects_of_stores rfl live (booted.trans ?_), fun error =>
      effects_of_stores rfl live (booted.trans ?_), fun bytes block d taken marks read hd owned kind short readBlock =>
      effects_of_stores rfl live (booted.trans ?_)⟩
    · exact look_of_stops ring (.inr (.inr ⟨bytes, read, owner⟩)) _
    · exact look_of_stops ring (.inr (.inl error)) _
    · subst hd
      rw [State.lookRing, ring]
      rw [look_of_takes ring (fun _ => by simp [State.setupInProgress, State.modRing, taken]) marks read owned,
        startRequest_taken (s := State.modRing (State.modRing s _) _) (k := .setup) (by rw [kind]; rfl) short readBlock (.inr rfl)]
      simp [State.look, State.ringInUse, State.modRing, lock, State.setupInProgress, Ring.take, taken]
  · have kicked : State.kick v s = s.lookRing := by simp [State.kick, lock]
    have ring : s.ringInUse = (.request, some s.cfg.requestBase, s.cfg.requestLength, s.io.ring.requestCursor) := by
      simp [State.ringInUse, lock]
    refine ⟨fun marked => effects_of_stores rfl live (kicked.trans ?_), fun bytes read owner =>
      effects_of_stores rfl live (kicked.trans ?_),
      fun bytes block d k cursor next hc marks hn pos read hd owned kind short readBlock stops =>
      effects_of_stores rfl live (kicked.trans ?_)⟩
    · exact look_of_stops ring (.inl marked) _
    · exact look_of_stops ring (.inr (.inr ⟨bytes, read, owner⟩)) _
    · subst hd hc
      obtain ⟨n, hlen⟩ : ∃ n, s.cfg.requestLength = n + 1 := ⟨s.cfg.requestLength - 1, by omega⟩
      rw [State.lookRing, ring]
      show State.look s.cfg.requestLength s = _
      rw [hlen, look_of_takes ring nofun marks read owned, startRequest_taken (s := State.modRing s _) kind short readBlock (.inl rfl)]
      rw [look_of_stops (kind := .request) (base := s.cfg.requestBase) (length := s.cfg.requestLength) (cursor := next)]
      · simp [State.modRing, Ring.take, hn]
      · simp [State.ringInUse, State.modRing, lock, Ring.take, hn, State.cfg]
      · exact stops
  · rw [State.startRequest, show readKind d.kind = none from ?_]
    unfold readKind
    split <;> first | rfl | omega
  · simp only [State.startRequest, kind]
    exact if_pos long
  · simp only [State.startRequest, kind, Config.maxBlockLength, read]
    rw [if_neg (by omega)]
  · simp only [State.startRequest, kind, Config.maxBlockLength, read]
    rw [if_neg (by omega), if_pos ⟨boot, other⟩]
  · exact startRequest_taken kind short read ring

end Sys2Proof.Proofs.Rings
end

section
/-! PROOFS of O17 to O19, O21, O23 and O25: requests at their owners that change no other order. Serving a request is said
once (serve_owner), and so is where a screening is found by its code and what a slice of an INQUIRE's status holds. -/

namespace Sys2Proof.Proofs.Requests

open Sys2Proof Sys2Proof.Machine Sys2Proof.Proofs.Invariants Sys2Proof.Proofs.Inputs Sys2Proof.Proofs.Rings

/-! ### Serving a request -/

/-- The oldest request taken goes to its owner once setup has been taken, a SETUP always. -/
theorem serve_owner {s : State} {k : RequestKind} {t : TakenRequest} (next : s.nextTaken k = some t)
    (lock : s.house.lock = true ∨ k = .setup) (f : TakenRequest → State → State) : s.serve k f = f t s.popTaken := by
  simp only [State.serve, next]
  rw [if_neg]
  rintro ⟨other, unlocked⟩
  rcases lock with locked | rfl
  · simp [locked] at unlocked
  · exact other rfl

/-- Before setup every request but SETUP is refused (R179). -/
theorem serve_refused {s : State} {k : RequestKind} {t : TakenRequest} (next : s.nextTaken k = some t)
    (lock : s.house.lock = false) (other : k ≠ .setup) (f : TakenRequest → State → State) :
    s.serve k f = s.popTaken.complete t.ref (Status.refusal .setupNotDone).bytes := by
  simp only [State.serve, next]
  exact if_pos ⟨other, lock⟩

@[simp] theorem popTaken_lane (s : State) (l : LaneIx) : s.popTaken.lane l = s.lane l := rfl
@[simp] theorem popTaken_cfg (s : State) : s.popTaken.cfg = s.cfg := rfl

theorem mem_laneOrder (l : LaneIx) : l ∈ laneOrder := by fin_cases l <;> decide

theorem requestLane_none {s : State} {n : Nat} (h : s.cfg.laneCount ≤ n) : s.requestLane n = none := if_neg (by omega)

theorem requestLane_some {s : State} {n : Nat} {l : LaneIx} (hn : n = l.val) (h : n < s.cfg.laneCount) :
    s.requestLane n = some l := by
  subst hn
  simp [State.requestLane, h]

/-- A lane's attendance timer restarts, as R69 and R88 say it, when its order is not EMPTY. -/
theorem restartAttendance_eq (s : State) (l : LaneIx) :
    s.restartAttendance l
      = if (s.lane l).order.state = .empty then s
        else
          s.modLane l fun x =>
            { x with
              attendance := some (s.house.clock + s.cfg.attendanceTimeout)
              order := { x.order with lapseHeld := false } } := rfl

/-! ### SETUP -/

/-- Nothing but printer records and the Ring Interface with its memory has changed, and every port is as enabled as it was. -/
structure PrintersChange (s t : State) : Prop where
  rest : t = { s with printing := { s.printing with printers := t.printing.printers }, io := t.io }
  enabled : ∀ p, (t.printer p).enabled = (s.printer p).enabled

theorem PrintersChange.refl (s : State) : PrintersChange s s := ⟨rfl, fun _ => rfl⟩

theorem PrintersChange.trans {s t u : State} (h : PrintersChange s t) (k : PrintersChange t u) : PrintersChange s u :=
  ⟨by rw [k.rest, h.rest], fun p => (k.enabled p).trans (h.enabled p)⟩

theorem PrintersChange.jobs {s t : State} (h : PrintersChange s t) : t.printing.jobs = s.printing.jobs := by rw [h.rest]

theorem PrintersChange.modPrinter (s : State) (p : PortIx) (f : Printer → Printer) (h : ∀ x, (f x).enabled = x.enabled) :
    PrintersChange s (s.modPrinter p f) := by
  refine ⟨rfl, fun q => ?_⟩
  rw [State.printer_modPrinter]
  split
  next e => rw [h, e]
  · rfl

theorem PrintersChange.raise (s : State) (rep : Report) : PrintersChange s (s.raise rep) := ⟨rfl, fun _ => rfl⟩

/-- With no job in the print queue a fault spoils nothing. -/
theorem spoilOn_of_no_job {s : State} (jobs : s.printing.jobs = []) (p : PortIx) : s.spoilOn p = s := by
  have none (l : LaneIx) : s.jobOf l = none := by simp [State.jobOf, jobs]
  have sent : s.sentItem p = .none := by
    unfold State.sentItem
    split
    · rfl
    · rw [none]
  simp only [State.spoilOn, sent]

theorem faultLine_change {s : State} (jobs : s.printing.jobs = []) (p : PortIx) (line : FaultLine) :
    PrintersChange s (s.faultLine p line) := by
  unfold State.faultLine
  split
  · exact .refl s
  · split
    · exact .modPrinter s p _ fun _ => rfl
    · rw [State.faultPrinter, spoilOn_of_no_job jobs]
      exact (PrintersChange.modPrinter s p (Printer.setFault _) fun _ => rfl).trans (.raise _ _)

theorem sendProbe_change (s : State) (p : PortIx) : PrintersChange s (s.sendProbe p) := by
  unfold State.sendProbe
  dsimp only
  split
  · exact .modPrinter s p _ fun _ => rfl
  · exact .refl s

theorem paperLow_change (s : State) (p : PortIx) : PrintersChange s (s.paperLow p) := by
  unfold State.paperLow
  split
  · exact .raise s _
  · exact .refl s

/-- A port enabled is enabled, and the other is as it was. -/
theorem enablePort_change {s : State} (jobs : s.printing.jobs = []) (p : PortIx) :
    PrintersChange (s.modPrinter p fun x => { x with enabled := true }) (s.enablePort p) := by
  unfold State.enablePort
  generalize hon : (s.modPrinter p fun x => { x with enabled := true }) = on
  have onJobs : on.printing.jobs = [] := by rw [← hon]; exact jobs
  have met : PrintersChange on
      (if (s.portLines p).paperOut then on.faultLine p .paperOut
        else if (s.portLines p).coverOpen then on.faultLine p .coverOpen else on.sendProbe p) := by
    split
    · exact faultLine_change onJobs p _
    · split
      · exact faultLine_change onJobs p _
      · exact sendProbe_change on p
  dsimp only
  split
  · exact met.trans (paperLow_change _ p)
  · exact met

/-- The ports that SETUP enables (R145), with no job in the print queue. -/
structure PortsEnabled (count : Nat) (s t : State) : Prop where
  rest : t = { s with printing := { s.printing with printers := t.printing.printers }, io := t.io }
  first : (t.printer 0).enabled = true
  second : (t.printer 1).enabled = true ↔ (s.printer 1).enabled = true ∨ count = 2

theorem enablePorts_enabled {s : State} (jobs : s.printing.jobs = []) (count : Nat) :
    PortsEnabled count s (s.enablePorts count) := by
  have zero := enablePort_change jobs 0
  have zero_rest : s.enablePort 0
      = { s with
          printing := { s.printing with printers := (s.enablePort 0).printing.printers }
          io := (s.enablePort 0).io } := by
    rw [zero.rest]
    rfl
  have zero_first : ((s.enablePort 0).printer 0).enabled = true := (zero.enabled 0).trans rfl
  have zero_second : ((s.enablePort 0).printer 1).enabled = (s.printer 1).enabled := (zero.enabled 1).trans rfl
  unfold State.enablePorts
  split
  next two =>
    have jobs' : (s.enablePort 0).printing.jobs = [] := zero.jobs.trans jobs
    have one := enablePort_change jobs' 1
    refine ⟨?_, (one.enabled 0).trans zero_first, ⟨fun _ => .inr two, fun _ => (one.enabled 1).trans rfl⟩⟩
    rw [one.rest, zero_rest]
    rfl
  next other => exact ⟨zero_rest, zero_first, by rw [zero_second]; simp [other]⟩

/-- A look at a ring changes nothing but the Ring Interface and the memory. -/
theorem startRequest_io (s : State) (ref : RequestRef) (d : Descriptor) :
    ∃ io, s.startRequest ref d = { s with io := io } := by
  unfold State.startRequest
  split
  · exact ⟨_, rfl⟩
  · split
    · exact ⟨_, rfl⟩
    · split
      · exact ⟨_, rfl⟩
      · split <;> exact ⟨_, rfl⟩

theorem look_io (n : Nat) (s : State) : ∃ io, State.look n s = { s with io := io } := by
  induction n generalizing s with
  | zero => exact ⟨s.io, rfl⟩
  | succ n ih =>
    have started (u : State) (ref : RequestRef) (d : Descriptor) :
        ∃ io, State.look n (u.startRequest ref d) = { u with io := io } := by
      obtain ⟨io, h⟩ := startRequest_io u ref d
      obtain ⟨io', h'⟩ := ih { u with io := io }
      exact ⟨io', by rw [h, h']⟩
    unfold State.look
    dsimp only
    split
    · exact ⟨s.io, rfl⟩
    · split
      · exact ⟨s.io, rfl⟩
      · split
        · exact ⟨s.io, rfl⟩
        · split
          · exact ⟨s.io, rfl⟩
          · exact started _ _ _

theorem lookRing_io (s : State) : ∃ io, s.lookRing = { s with io := io } := look_io _ s

theorem flushReports_io (s : State) : ∃ io, s.flushReports = { s with io := io } := by
  unfold State.flushReports
  split
  · exact ⟨s.io, rfl⟩
  · exact ⟨_, rfl⟩

theorem openLines_lane (n : Nat) (lanes : PerLane Lane) (l : LaneIx) :
    (openLines n lanes).get l
      = if l.val < n then { lanes.get l with term := { (lanes.get l).term with line := .idle } } else lanes.get l := by
  have step : ∀ (ls : List LaneIx) (p : PerLane Lane), ls.Nodup →
      (ls.foldl (fun q m => if m.val < n then q.set m { q.get m with term := { (q.get m).term with line := .idle } } else q)
        p).get l
        = if l ∈ ls ∧ l.val < n then { p.get l with term := { (p.get l).term with line := .idle } } else p.get l := by
    intro ls
    induction ls with
    | nil => simp
    | cons m ms ih =>
      intro p nodup
      obtain ⟨fresh, rest⟩ := List.nodup_cons.mp nodup
      rw [List.foldl_cons, ih _ rest]
      by_cases hm : m.val < n
      · rw [if_pos hm, PerLane.get_set]
        by_cases hl : l = m
        · subst hl
          simp [fresh, hm]
        · simp [hl]
      · rw [if_neg hm]
        by_cases hl : l = m
        · subst hl
          simp [fresh, hm]
        · simp [hl]
  have all : (openLines n lanes).get l = _ := step laneOrder lanes (by decide)
  rw [all]
  simp [mem_laneOrder]

/-- Settles O17: the ports and the rings change their own blocks, and the record is written out. -/
theorem setupTaken : Obligations.SetupTaken := by
  intro s t c live next lock read jobs
  have ports := enablePorts_enabled (s := s.popTaken) jobs c.printerCount
  generalize hm : State.serve s .setup State.takeSetup = m
  have applied : m = s.popTaken.applySetup t c := by
    rw [← hm, serve_owner next (.inr rfl)]
    simp [State.takeSetup, lock, read]
  obtain ⟨io, hio⟩ : ∃ io, m = { (s.popTaken.enablePorts c.printerCount).setRecord c with io := io } := by
    obtain ⟨io₁, h₁⟩ := lookRing_io
      (((((s.popTaken.enablePorts c.printerCount).setRecord c).complete t.ref (Status.plain .done).bytes)).useRings)
    obtain ⟨io₂, h₂⟩ := flushReports_io
      (((((s.popTaken.enablePorts c.printerCount).setRecord c).complete t.ref (Status.plain .done).bytes)).useRings.lookRing)
    exact ⟨io₂, by rw [applied, State.applySetup, h₂, h₁]; rfl⟩
  obtain ⟨u, done, rfl, closed⟩ := effects_of_eq (m := m) (c := .setup) rfl live hm
  generalize hu : settle s m = u at done closed
  rw [ports.rest] at hio
  have printing := closed.printing
  refine ⟨u, done, ?_, ?_, fun l => ?_, ?_, ?_, ?_, ?_, ?_, ?_, ?_, ?_⟩
  · rw [closed.house, hio]
    rfl
  · rw [closed.link, hio]
    rfl
  · show u.lanes.get l = _
    rw [closed.lanes, hio]
    exact openLines_lane _ _ _
  · rw [closed.vouchers, hio]
    rfl
  · rw [printing, hio]
    rfl
  · rw [printing, hio]
    exact jobs
  · rw [State.printer, printing, hio]
    exact ports.first
  · rw [State.printer, printing, hio]
    exact ports.second
  · rw [closed.slots, hio]
    rfl
  · rw [closed.pins, hio]
    rfl
  · rw [closed.pending, hio]
    rfl

/-- Settles O18: both refusals of SETUP, and the one of every other request before it. -/
theorem setupRefused : Obligations.SetupRefused := by
  refine ⟨fun s t live next => ⟨fun lock => effects_of_eq rfl live ?_, fun lock bad => effects_of_eq rfl live ?_⟩,
    fun s t live lock c k row next => ?_⟩
  · rw [serve_owner next (.inr rfl)]
    simp [State.takeSetup, lock]
  · rw [serve_owner next (.inr rfl)]
    simp [State.takeSetup, lock, bad]
  · simp only [List.mem_cons, Prod.mk.injEq, List.not_mem_nil, or_false] at row
    rcases row with ⟨rfl, rfl⟩ | ⟨rfl, rfl⟩ | ⟨rfl, rfl⟩ | ⟨rfl, rfl⟩ | ⟨rfl, rfl⟩ | ⟨rfl, rfl⟩ | ⟨rfl, rfl⟩ <;>
      exact effects_of_eq rfl live (serve_refused next lock nofun _)

/-! ### Screenings by their code -/

theorem screening_none_iff {s : State} {code : Nat} : s.screening code = none ↔ ∀ y, some y ∈ s.slots → y.code ≠ code := by
  simp only [State.screening, List.findSome?_eq_none_iff, Option.filter_eq_none_iff]
  refine ⟨fun h y hy => ?_, fun h o ho => ?_⟩
  · simpa using h _ hy y rfl
  · rintro y rfl
    simpa using h y ho

/-- The one screening of its code, put into a slot, is the one found. -/
theorem findSome_set {xs : List (Option Screening)} {i : Nat} {x : Screening} (hi : i < xs.length)
    (fresh : ∀ y, some y ∈ xs → y.code ≠ x.code) :
    (xs.set i (some x)).findSome? (fun o => o.filter fun y => y.code = x.code) = some x := by
  induction xs generalizing i with
  | nil => cases hi
  | cons o xs ih =>
    cases i with
    | zero => simp
    | succ i =>
      have later := ih (by simpa using hi) fun y hy => fresh y (List.mem_cons_of_mem _ hy)
      have first : o.filter (fun y => y.code = x.code) = none := by
        cases o with
        | none => rfl
        | some y => simpa using fresh y List.mem_cons_self
      simpa [first] using later

/-- A change of the one screening of a code, put into a slot, changes that slot. -/
theorem map_set_of_fresh {xs : List (Option Screening)} {i : Nat} {x : Screening} (f : Screening → Screening)
    (fresh : ∀ y, some y ∈ xs → y.code ≠ x.code) :
    ((xs.set i (some x)).map fun o => o.map fun y => if y.code = x.code then f y else y) = xs.set i (some (f x)) := by
  have same : (xs.map fun o => o.map fun y => if y.code = x.code then f y else y) = xs := by
    refine (List.map_congr_left fun o ho => ?_).trans (List.map_id xs)
    cases o with
    | none => rfl
    | some y => simp [fresh y ho]
  rw [List.map_set, same]
  simp

/-- The fields of a screening as it is loaded (R4). -/
theorem readScreening_fields {ref : RequestRef} {bs : List Byte} {x : Screening} (h : readScreening ref bs = some x) :
    x.sync = .syncing ∧ x.phase = .idle ∧ x.censusTimer = none ∧ x.request = some ref := by
  unfold readScreening at h
  split at h
  · cases h
  · split at h
    · cases h
    · simp only [Option.ite_none_right_eq_some, Option.some.injEq] at h
      obtain ⟨-, rfl⟩ := h
      exact ⟨rfl, rfl, rfl, rfl⟩

/-! ### LOAD-SCREENING -/

theorem freeSlot_eq {xs : List (Option Screening)} {i : Nat} (free : xs[i]? = some none) (lowest : ∀ j, j < i → xs[j]? ≠ some none) :
    xs.findIdx? Option.isNone = some i := by
  obtain ⟨hi, h⟩ := List.getElem?_eq_some_iff.mp free
  refine List.findIdx?_eq_some_iff_getElem.mpr ⟨hi, by simp [h], fun j hj => ?_⟩
  have := lowest j hj
  rw [List.getElem?_eq_getElem (by omega)] at this
  simpa using this

/-- A CENSUS-CALL is admitted below 24 entries of an ACTIVE or DEGRADED link, and refused otherwise (R35). -/
theorem admission_censusCall_admitted {k : Link} (on : k.state = .active ∨ k.state = .degraded) (room : k.queue.length < 24) :
    k.admission .censusCall = .admitted := by
  rcases on with h | h <;> simp [Link.admission, h, Link.room, Class.threshold, Config.thresholdSize, room]

theorem admission_censusCall_refused {k : Link} (busy : k.state = .mute ∨ 24 ≤ k.queue.length) :
    k.admission .censusCall = .refused := by
  have full : 24 ≤ k.queue.length → k.room .censusCall = .refused := fun h => by
    simp [Link.room, Class.threshold, Config.thresholdSize, show ¬ k.queue.length < 24 by omega]
  unfold Link.admission
  split
  · rfl
  · rfl
  next active => exact full (busy.resolve_left (by simp [active]))
  next degraded => exact full (busy.resolve_left (by simp [degraded]))

theorem takeLoad_free {s : State} {t : TakenRequest} {x : Screening} {i : Nat} (read : readScreening t.ref t.block = some x)
    (fresh : ∀ y, some y ∈ s.slots → y.code ≠ x.code) (free : s.freeSlot = some i) (drain : s.house.drain = .clear) :
    s.takeLoad t = State.callCensus { s with slots := s.slots.set i (some x) } x.code := by
  simp [State.takeLoad, read, screening_none_iff.mpr fresh, free, State.drainClear, drain]

theorem callCensus_admitted {s : State} {x : Screening} {i : Nat} (fresh : ∀ y, some y ∈ s.slots → y.code ≠ x.code)
    (read : x.censusTimer = none) (admitted : s.link.admission .censusCall = .admitted) :
    State.callCensus { s with slots := s.slots.set i (some x) } x.code
      = { s with
          slots := s.slots.set i (some { x with phase := .calling })
          link := s.link.enqueue (.censusCall x.code) .censusCall none none } := by
  simp only [State.callCensus, admitted, State.offer, State.modScreening, State.modLink]
  rw [map_set_of_fresh _ fresh, ← read]

theorem callCensus_refused {s : State} {x : Screening} {i : Nat} {ref : RequestRef} (hi : i < s.slots.length)
    (fresh : ∀ y, some y ∈ s.slots → y.code ≠ x.code) (sync : x.sync = .syncing) (phase : x.phase = .idle)
    (timer : x.censusTimer = none) (request : x.request = some ref) (refused : s.link.admission .censusCall = .refused) :
    State.callCensus { s with slots := s.slots.set i (some x) } x.code
      = State.complete { s with slots := s.slots.set i (some { x with sync := .ready, request := none }) } ref
          (Status.plain .done).bytes := by
  have found : State.screening { s with slots := s.slots.set i (some x) } x.code = some x := findSome_set hi fresh
  simp only [State.callCensus, refused, State.endCensus, found, request, sync, if_true, State.modScreening]
  rw [map_set_of_fresh _ fresh, ← phase, ← timer]

/-- Settles O19: the lowest free slot, the census call admitted or refused, and the four refusals in order. -/
theorem loadScreening : Obligations.LoadScreening := by
  refine ⟨fun s t x i live lock next read fresh free lowest drain => ?_, fun s t code live lock next h => ?_⟩
  · obtain ⟨sync, phase, timer, request⟩ := readScreening_fields read
    have served : s.serve .loadScreening State.takeLoad
        = State.callCensus { s.popTaken with slots := s.popTaken.slots.set i (some x) } x.code :=
      (serve_owner next (.inl lock) _).trans (takeLoad_free read fresh (freeSlot_eq free lowest) drain)
    refine ⟨fun on room => effects_of_eq rfl live (served.trans ?_), fun busy => effects_of_eq rfl live (served.trans ?_)⟩
    · exact callCensus_admitted (s := s.popTaken) fresh timer (admission_censusCall_admitted on room)
    · exact callCensus_refused (s := s.popTaken) (List.getElem?_eq_some_iff.mp free).1 fresh sync phase timer request
        (admission_censusCall_refused busy)
  · refine effects_of_eq rfl live ((serve_owner next (.inl lock) _).trans ?_)
    rcases h with ⟨bad, rfl⟩ | ⟨x, y, read, hy, e, rfl⟩ | ⟨x, read, fresh, full, rfl⟩ | ⟨x, read, fresh, free, drain, rfl⟩
    · simp [State.takeLoad, bad]
    · have some : (s.popTaken.screening x.code).isSome = true := by
        rw [Option.isSome_iff_ne_none]
        exact fun none => screening_none_iff.mp none y hy e
      simp [State.takeLoad, read, some]
    · have none : s.popTaken.freeSlot = none := by
        simp only [State.freeSlot, List.findIdx?_eq_none_iff]
        intro o ho
        cases o with
        | none => exact absurd ho full
        | some _ => rfl
      simp [State.takeLoad, read, screening_none_iff (s := s.popTaken).mpr fresh, none]
    · obtain ⟨i, hi⟩ : ∃ i, s.popTaken.freeSlot = some i := by
        rw [← Option.isSome_iff_exists, State.freeSlot, List.findIdx?_isSome]
        exact List.any_eq_true.mpr ⟨none, free, rfl⟩
      simp [State.takeLoad, read, screening_none_iff (s := s.popTaken).mpr fresh, hi, State.drainClear, drain]

/-! ### LOAD-CATALOG and RESUME -/

theorem readItems_counts (n : Nat) (bs : List Byte) : ∀ i ∈ readItems n bs, i.issued = 0 ∧ i.reserved = 0 := by
  induction n generalizing bs with
  | zero => nofun
  | succ n ih =>
    intro i hi
    rcases List.mem_cons.mp hi with rfl | h
    · exact ⟨rfl, rfl⟩
    · exact ih _ i h

theorem readCatalog_counts {bs : List Byte} {expiry : Nat} {items : List CatalogItem} (h : readCatalog bs = some (expiry, items)) :
    ∀ i ∈ items, i.issued = 0 ∧ i.reserved = 0 := by
  unfold readCatalog at h
  dsimp only at h
  split at h
  · cases h
  · simp only [Option.ite_none_right_eq_some, Option.some.injEq, Prod.mk.injEq] at h
    obtain ⟨-, -, rfl⟩ := h
    exact readItems_counts _ _

theorem anyVoucherLine_iff {s : State} : s.anyVoucherLine = true ↔ ∃ l, (s.lane l).order.voucherLines ≠ [] := by
  simp [State.anyVoucherLine, List.any_eq_true, mem_laneOrder]

/-- Settles O21: the checks of a catalog in order. -/
theorem loadCatalog : Obligations.LoadCatalog := by
  intro s t live lock next
  have effect : ∀ m, s.popTaken.takeCatalog t = m → Effects .loadCatalog s m := fun m h =>
    effects_of_eq rfl live ((serve_owner next (.inl lock) _).trans h)
  refine ⟨fun bad => effect _ (by simp [State.takeCatalog, bad]), fun expiry items read => ⟨readCatalog_counts read,
    fun held => effect _ ?_, fun none => ⟨fun drain => effect _ ?_, fun clear => effect _ ?_⟩⟩⟩
  · have inUse : s.popTaken.anyVoucherLine = true := anyVoucherLine_iff.mpr held
    simp [State.takeCatalog, read, inUse]
  all_goals
    have unused : s.popTaken.anyVoucherLine = false := by
      rw [Bool.eq_false_iff, ne_eq, anyVoucherLine_iff]
      rintro ⟨l, hl⟩
      exact hl (none l)
  · simp [State.takeCatalog, read, unused, State.drainClear, drain]
  · simp [State.takeCatalog, read, unused, State.drainClear, clear]

/-- Settles O25: the two checks of RESUME in order. -/
theorem resumeRequest : Obligations.ResumeRequest := by
  intro s t live lock next
  have effect : ∀ m, s.popTaken.takeResume t = m → Effects .resume s m := fun m h =>
    effects_of_eq rfl live ((serve_owner next (.inl lock) _).trans h)
  refine ⟨fun full => effect _ ?_, fun empty low => effect _ ?_, fun empty high => effect _ ?_⟩
  · simp [State.takeResume, full]
  · simp [State.takeResume, empty, low]
  · simp [State.takeResume, empty, high]

/-! ### INQUIRE -/

theorem slice_head {a b : List Byte} {n : Nat} (ha : a.length = n) : slice (a ++ b) 0 n = a := by
  subst ha
  simp [slice]

theorem slice_skip {a b : List Byte} {m off n : Nat} (ha : a.length = m) : slice (a ++ b) (m + off) n = slice b off n := by
  subst ha
  simp [slice, List.drop_append, List.drop_eq_nil_of_le]

/-- The bytes of the element at a position, in a padded row of elements of one width. -/
theorem slice_row {α : Type} {f : α → List Byte} {w size : Nat} (width : ∀ x, (f x).length = w) {xs : List α} {k : Nat} {v : α}
    (h : xs[k]? = some v) (c : List Byte) : slice (padTo size (xs.flatMap f) ++ c) (w * k) w = f v := by
  obtain ⟨hk, rfl⟩ := List.getElem?_eq_some_iff.mp h
  have split : xs.flatMap f = (xs.take k).flatMap f ++ (f xs[k] ++ (xs.drop (k + 1)).flatMap f) := by
    rw [← List.flatMap_cons, ← List.flatMap_append, List.getElem_cons_drop, List.take_append_drop]
  have before : ((xs.take k).flatMap f).length = w * k := by
    rw [flatMap_length_of_all f w width, List.length_take, Nat.min_eq_left (by omega)]
  rw [padTo, split]
  simp only [List.append_assoc]
  have skipped := slice_skip (off := 0) (n := w) before (b := f xs[k] ++ ((xs.drop (k + 1)).flatMap f
    ++ (List.replicate (size - ((xs.take k).flatMap f ++ (f xs[k] ++ (xs.drop (k + 1)).flatMap f)).length) 0 ++ c)))
  exact skipped.trans (slice_head (width _))

theorem snapshotHeader_length (s : State) (l : LaneIx) : (s.snapshotHeader l).length = 16 := by
  simp [State.snapshotHeader, Status.header]

@[simp] theorem seatLineBytes_length (v : SeatLine) : (seatLineBytes v).length = 6 := by simp [seatLineBytes, seatBytes]

@[simp] theorem voucherLineBytes_length (v : VoucherLine) : (voucherLineBytes v).length = 12 := by
  have code : (padTo 4 ((v.code.map vcodeRecordBytes).getD [])).length = 4 :=
    padTo_length (by cases v.code <;> simp [vcodeRecordBytes])
  simp [voucherLineBytes, code]

@[simp] theorem quoteBytes_length (q : Option Quote) : (quoteBytes q).length = 32 := by
  cases q <;> simp [quoteBytes]

theorem summaries_length (o : Order) : o.summaries.length ≤ 2 := List.length_filter_le _ _

theorem flightSeats_length (c : Claim) (h : c.seats.length ≤ 10) : c.flightSeats.length ≤ 10 := by
  unfold Claim.flightSeats
  split
  · simpa [Claim.seatRefs] using h
  · simp

section
variable (s : State) (l : LaneIx)

/-- The four rows of an INQUIRE's snapshot, each padded to its size. -/
def seatRow : List Byte := padTo 60 ((s.lane l).order.seatLines.flatMap seatLineBytes)
def voucherRow : List Byte := padTo 96 ((s.lane l).order.voucherLines.flatMap voucherLineBytes)
def tenderRow : List Byte := padTo 40 ((s.lane l).order.summaries.flatMap TenderSummary.bytes)
def flightRow : List Byte := padTo 20 (seatsBytes (s.lane l).claim.flightSeats)

/-- What stands before the rows: the header, the counts, tag and screening, the print position, the time left, the quote. -/
def countBytes : List Byte :=
  [Byte.ofNat (s.lane l).claim.state.number, Byte.ofNat (s.lane l).claim.flightSeats.length,
    Byte.ofNat (s.lane l).order.summaries.length, Byte.ofNat (s.snapshotBits l)]
def positionBytes : List Byte :=
  [Byte.ofNat (((s.lane l).order.screening.map ScreeningRef.slot).getD 0), Byte.ofNat (s.lane l).order.seatLines.length,
    Byte.ofNat (s.lane l).order.voucherLines.length, Byte.ofNat (s.printPosition l).1, Byte.ofNat (s.printPosition l).2.1,
    Byte.ofNat (s.printPosition l).2.2, 0, 0]

/-- The status of an INQUIRE as its parts one after another. -/
theorem inquire_parts : s.snapshotHeader l ++ s.snapshot l
    = s.snapshotHeader l ++ (countBytes s l ++ (leBytes 2 ((s.lane l).order.tag.getD 0) ++ (leBytes 2 ((s.lane l).order.code.getD 0)
      ++ (positionBytes s l ++ (leBytes 4 (s.attendanceLeft l) ++ (quoteBytes (s.lane l).order.quote
      ++ (seatRow s l ++ (voucherRow s l ++ (tenderRow s l ++ (flightRow s l ++ [])))))))))) := by
  simp only [State.snapshot, countBytes, positionBytes, seatRow, voucherRow, tenderRow, flightRow, List.append_assoc,
    List.append_nil]

variable (seats : (s.lane l).order.seatLines.length ≤ 10) (vouchers : (s.lane l).order.voucherLines.length ≤ 8)
  (flight : (s.lane l).claim.seats.length ≤ 10)

include seats in
theorem seatRow_length : (seatRow s l).length = 60 :=
  padTo_length (by rw [flatMap_length_of_all _ 6 seatLineBytes_length]; omega)

include vouchers in
theorem voucherRow_length : (voucherRow s l).length = 96 :=
  padTo_length (by rw [flatMap_length_of_all _ 12 voucherLineBytes_length]; omega)

theorem tenderRow_length : (tenderRow s l).length = 40 :=
  padTo_length (by
    have := summaries_length (s.lane l).order
    rw [flatMap_length_of_all _ 20 tenderSummary_bytes_length]; omega)

include flight in
theorem flightRow_length : (flightRow s l).length = 20 :=
  padTo_length (by
    have := flightSeats_length _ flight
    rw [seatsBytes_length]; omega)

end

theorem padTo_vcodeRecordBytes (c : VCode) : padTo 4 (vcodeRecordBytes c) = vcodeRecordBytes c := by
  have h : (vcodeRecordBytes c).length = 4 := by simp [vcodeRecordBytes]
  simp [padTo, h]

/-- Settles O23: the status is its parts one after another, and each field one of them or a place in a row. -/
theorem inquireRequest : Obligations.InquireRequest := by
  intro s r t live lock next
  refine ⟨fun beyond => effects_of_eq rfl live ((serve_owner next (.inl lock) _).trans ?_), fun l lane inUse hr => ?_⟩
  · simp only [State.takeInquire, requestLane_none (s := s.popTaken) beyond]
  obtain rfl : r = s.popTaken.restartAttendance l := hr.trans (restartAttendance_eq s.popTaken l).symm
  refine ⟨effects_of_eq rfl live ((serve_owner next (.inl lock) _).trans ?_), ?_⟩
  · simp only [State.takeInquire, requestLane_some (s := s.popTaken) lane inUse]
  have clock : (s.popTaken.restartAttendance l).house.clock = s.house.clock := by
    rw [restartAttendance_eq]
    split <;> rfl
  have sizes : ((s.popTaken.restartAttendance l).lane l).order.seatLines = (s.lane l).order.seatLines
      ∧ ((s.popTaken.restartAttendance l).lane l).order.voucherLines = (s.lane l).order.voucherLines
      ∧ ((s.popTaken.restartAttendance l).lane l).claim.seats = (s.lane l).claim.seats := by
    rw [restartAttendance_eq]
    split
    · exact ⟨rfl, rfl, rfl⟩
    · rw [State.lane_modLane_same]
      exact ⟨rfl, rfl, rfl⟩
  obtain ⟨hseats, hvouchers, hflight⟩ := sizes
  rw [← clock, ← hseats, ← hvouchers, ← hflight]
  generalize s.popTaken.restartAttendance l = u
  rintro seats vouchers flight x o q pos rfl rfl rfl hq
  rw [inquire_parts] at hq
  have lenSeats := seatRow_length u l seats
  have lenVouchers := voucherRow_length u l vouchers
  have lenTenders := tenderRow_length u l
  have lenFlight := flightRow_length u l flight
  have lenHeader := snapshotHeader_length u l
  have lenCounts : (countBytes u l).length = 4 := rfl
  have lenPosition : (positionBytes u l).length = 8 := rfl
  have header (off n : Nat) := (congrArg (slice · (16 + off) n) hq).trans (slice_skip lenHeader)
  have counts (off n : Nat) := header (4 + off) n |>.trans (slice_skip lenCounts)
  have tag (off n : Nat) := counts (2 + off) n |>.trans (slice_skip (leBytes_length 2 _))
  have code (off n : Nat) := tag (2 + off) n |>.trans (slice_skip (leBytes_length 2 _))
  have position (off n : Nat) := code (8 + off) n |>.trans (slice_skip lenPosition)
  have left (off n : Nat) := position (4 + off) n |>.trans (slice_skip (leBytes_length 4 _))
  have quote (off n : Nat) := left (32 + off) n |>.trans (slice_skip (quoteBytes_length _))
  have lines (off n : Nat) := quote (60 + off) n |>.trans (slice_skip lenSeats)
  have voucherLines (off n : Nat) := lines (96 + off) n |>.trans (slice_skip lenVouchers)
  have tenders (off n : Nat) := voucherLines (40 + off) n |>.trans (slice_skip lenTenders)
  refine ⟨?_, (header 0 4).trans (slice_head lenCounts), (counts 0 2).trans (slice_head (leBytes_length 2 _)),
    (tag 0 2).trans (slice_head (leBytes_length 2 _)), (code 0 8).trans (slice_head lenPosition),
    (position 0 4).trans (slice_head (leBytes_length 4 _)), ?_, fun k v h => ?_, fun k v h => ?_, fun k v h => ?_,
    fun k v h => ?_⟩
  · rw [hq]
    simp only [List.length_append, lenHeader, lenCounts, leBytes_length, lenPosition, quoteBytes_length, lenSeats, lenVouchers,
      lenTenders, lenFlight, List.length_nil]
  · refine ((left 0 32).trans (slice_head (quoteBytes_length _))).trans ?_
    cases (u.lane l).order.quote <;> rfl
  · rw [show 68 + 6 * k = 16 + (4 + (2 + (2 + (8 + (4 + (32 + 6 * k)))))) by omega, quote]
    exact (slice_row seatLineBytes_length h _).trans (by simp [seatLineBytes, seatBytes])
  · rw [show 128 + 12 * k = 16 + (4 + (2 + (2 + (8 + (4 + (32 + (60 + 12 * k))))))) by omega, lines]
    refine (slice_row voucherLineBytes_length h _).trans ?_
    unfold voucherLineBytes
    cases v.code with
    | none => rfl
    | some c => exact congrArg _ (padTo_vcodeRecordBytes c)
  · rw [show 224 + 20 * k = 16 + (4 + (2 + (2 + (8 + (4 + (32 + (60 + (96 + 20 * k)))))))) by omega, voucherLines]
    exact slice_row tenderSummary_bytes_length h _
  · rw [show 264 + 2 * k = 16 + (4 + (2 + (2 + (8 + (4 + (32 + (60 + (96 + (40 + 2 * k))))))))) by omega, tenders]
    exact slice_row (f := seatBytes) (fun _ => rfl) h _

end Sys2Proof.Proofs.Requests
end

section
/-! PROOFS of O26 to O32: how a word ends, and the order words that change their own lane and the catalog alone. Changes of one
lane are fused (modLane_modLane), and each word's run is unfolded once under what its hypotheses say of its checks. -/

namespace Sys2Proof.Proofs.Words

open Sys2Proof Sys2Proof.Machine Sys2Proof.Proofs.Inputs Sys2Proof.Proofs.Requests

/-! ### Changes of one lane -/

theorem PerLane.set_set {α : Type} (p : PerLane α) (l : LaneIx) (x y : α) : (p.set l x).set l y = p.set l y := by
  fin_cases l <;> rfl

theorem PerLane.set_get {α : Type} (p : PerLane α) (l : LaneIx) : p.set l (p.get l) = p := by fin_cases l <;> rfl

/-- Two changes of one lane are one. -/
theorem modLane_modLane (s : State) (l : LaneIx) (f g : Lane → Lane) :
    (s.modLane l f).modLane l g = s.modLane l fun x => g (f x) := by
  simp only [State.modLane, State.setLane, State.lane, PerLane.get_set_same, PerLane.set_set]

/-- A change of a lane is what it does to the lane as it is. -/
theorem modLane_congr {s : State} {l : LaneIx} {f g : Lane → Lane} (h : f (s.lane l) = g (s.lane l)) :
    s.modLane l f = s.modLane l g := by
  simp only [State.modLane, h]

theorem modLane_self {s : State} {l : LaneIx} {f : Lane → Lane} (h : f (s.lane l) = s.lane l) : s.modLane l f = s := by
  show { s with lanes := s.lanes.set l (f (s.lane l)) } = s
  rw [h, State.lane, PerLane.set_get]

theorem lane_modLane_other {s : State} {l m : LaneIx} (h : m ≠ l) (f : Lane → Lane) : (s.modLane l f).lane m = s.lane m := by
  rw [State.lane_modLane, if_neg h]

/-- A change of a lane goes before a change of another block of the part. -/
theorem modLane_mapSeats (s : State) (l : LaneIx) (f : Lane → Lane) (code : Nat) (seats : List SeatRef) (g : SeatState → SeatState) :
    (s.mapSeats code seats g).modLane l f = (s.modLane l f).mapSeats code seats g := rfl
theorem modLane_modLink (s : State) (l : LaneIx) (f : Lane → Lane) (g : Link → Link) :
    (s.modLink g).modLane l f = (s.modLane l f).modLink g := rfl
theorem modLane_complete (s : State) (l : LaneIx) (f : Lane → Lane) (ref : RequestRef) (status : List Byte) :
    (s.complete ref status).modLane l f = (s.modLane l f).complete ref status := rfl
theorem modLane_raise (s : State) (l : LaneIx) (f : Lane → Lane) (rep : Report) :
    (s.raise rep).modLane l f = (s.modLane l f).raise rep := rfl

theorem lane_mapSeats (s : State) (code : Nat) (seats : List SeatRef) (g : SeatState → SeatState) (l : LaneIx) :
    (s.mapSeats code seats g).lane l = s.lane l := rfl

/-! ### How a word ends -/

/-- Settles O26: the three ends of a running word. -/
theorem wordEnds : Obligations.WordEnds := by
  intro s l b i ph block mode
  refine ⟨fun more => ?_, fun last => ?_, fun code residual offending => ?_⟩
  · simp only [State.endWord, block, mode, if_pos more]
  · simp only [State.endWord, block, mode, if_neg (show ¬ i + 1 < b.words.length by omega)]
    rfl
  · simp only [State.endWord, block, mode]
    rfl

/-- A word not yet run is the word at its block's offset. -/
theorem freshWord_block {s : State} {l : LaneIx} {w : OrderWord} (h : s.freshWord l = some w) :
    ∃ b i, (s.lane l).block = some b ∧ b.mode = .running i .fresh ∧ b.words[i]? = some w := by
  unfold State.freshWord State.runningWord at h
  split at h
  next w' e =>
    cases h
    split at e
    · cases e
    next b hb =>
      split at e
      · cases e
      next i ph hm =>
        obtain ⟨w', hw, e⟩ := Option.map_eq_some_iff.mp e
        cases e
        exact ⟨b, i, hb, hm, hw⟩
  · cases h

/-! ### Words refused -/

theorem openOrQuoted_iff {s : State} {l : LaneIx} :
    s.openOrQuoted l = true ↔ (s.lane l).order.state ∈ ([.opened, .quoted] : List OrderState) := by
  simp [State.openOrQuoted]

theorem openOrQuoted_false {s : State} {l : LaneIx} (h : (s.lane l).order.state ∉ ([.opened, .quoted] : List OrderState)) :
    s.openOrQuoted l = false := by
  rwa [Bool.eq_false_iff, ne_eq, openOrQuoted_iff]

theorem drainClear_false {s : State} (h : s.house.drain ≠ .clear) : s.drainClear = false := by simp [State.drainClear, h]

theorem drainClear_true {s : State} (h : s.house.drain = .clear) : s.drainClear = true := by simp [State.drainClear, h]

/-- The residual of a PAY that a check refuses. -/
theorem payResidual_eq (o : Order) (cap : Option Nat) : o.payResidual = (OrderWord.pay cap).residual o := by
  cases h : o.quote <;> simp [Order.payResidual, OrderWord.residual, Order.due, Order.quoteTotal, h]

theorem payForm_iff (cap : Option Nat) :
    (cap.map fun c => !within 1 Config.maxTotal c).getD false = !(OrderWord.pay cap).formOk := by
  cases cap <;> rfl

/-- Each word is its own command's word. -/
theorem effects_word {s m : State} {l : LaneIx} {w : OrderWord} (live : Live s) (fresh : s.freshWord l = some w)
    (h : (match w with
      | .pick code entries => s.runPick l code entries
      | .drop seats => s.runDrop l seats
      | .setType seat type => s.runSetType l seat type
      | .addVoucher item count => s.runAdd l item count
      | .removeVoucher item count => s.runRemove l item count
      | .quote => s.runQuote l
      | .pay cap => s.runPay l cap
      | .print => s.runPrint l
      | .finish => s.runFinish l
      | .cancel => s.runCancel l) = m) : Effects (w.command l) s m := by
  cases w
  case pick => exact effects_of_eq rfl live (by simp only [State.pickWord, fresh]; exact h)
  case drop => exact effects_of_eq rfl live (by simp only [State.dropWord, fresh]; exact h)
  case setType => exact effects_of_eq rfl live (by simp only [State.setTypeWord, fresh]; exact h)
  case addVoucher => exact effects_of_eq rfl live (by simp only [State.addVoucherWord, fresh]; exact h)
  case removeVoucher => exact effects_of_eq rfl live (by simp only [State.removeVoucherWord, fresh]; exact h)
  case quote => exact effects_of_eq rfl live (by simp only [State.quoteWord, fresh]; exact h)
  case pay => exact effects_of_eq rfl live (by simp only [State.payWord, fresh]; exact h)
  case print => exact effects_of_eq rfl live (by simp only [State.printWord, fresh]; exact h)
  case finish => exact effects_of_eq rfl live (by simp only [State.finishWord, fresh]; exact h)
  case cancel => exact effects_of_eq rfl live (by simp only [State.cancelWord, fresh]; exact h)

/-- A PICK refused by a check, once no claim of the lane is WITHDRAWING. -/
theorem runPick_refused {s : State} {l : LaneIx} {code : Nat} {entries : List ClaimSeat} {c : Code} {bad : List SeatRef}
    (claim : (s.lane l).claim.state ≠ .withdrawing) (h : s.pickRefusal l code entries = some (c, bad)) :
    s.runPick l code entries = s.endWord l (.refused c (seatsResidual (entries.map ClaimSeat.seat)) bad) := by
  simp only [State.runPick, if_neg claim, h]

theorem runAdd_refused {s : State} {l : LaneIx} {item count : Nat} {c : Code} (h : s.addRefusal l item count = some c) :
    s.runAdd l item count = s.endWord l (.refused c (some (.number count)) []) := by
  simp only [State.runAdd, h]

theorem runPay_refused {s : State} {l : LaneIx} {cap : Option Nat} {c : Code} (h : s.payRefusal l cap = some c) :
    s.runPay l cap = s.endWord l (.refused c ((OrderWord.pay cap).residual (s.lane l).order) []) := by
  simp only [State.runPay, h, payResidual_eq _ cap]

/-- Settles O27: the format check, the state check and the drain check of each word. -/
theorem wordsRefusedAlike : Obligations.WordsRefusedAlike := by
  refine ⟨fun s l w live fresh bad claim => effects_word live fresh ?_, fun s l w live fresh form claim state =>
    effects_word live fresh ?_, fun s l w live fresh form claim state drain kind => effects_word live fresh ?_⟩
  · cases w
    case pick code entries =>
      have bad' : pickFormOk code entries = false := bad
      exact runPick_refused claim (by simp [State.pickRefusal, bad'])
    case drop seats =>
      have bad' : dropFormOk seats = false := bad
      simp [State.runDrop, bad', OrderWord.residual]
    case setType seat type =>
      have bad' : (seatInRange seat && decide (type ≤ 5)) = false := bad
      simp only [State.runSetType, bad']
      rfl
    case addVoucher item count =>
      have bad' : voucherFormOk item count = false := by simpa [OrderWord.formOk, voucherFormOk, within, Bool.and_assoc] using bad
      exact runAdd_refused (by simp [State.addRefusal, bad'])
    case removeVoucher item count =>
      have bad' : voucherFormOk item count = false := by simpa [OrderWord.formOk, voucherFormOk, within, Bool.and_assoc] using bad
      simp only [State.runRemove, bad']
      rfl
    case pay cap => exact runPay_refused (by simp [State.payRefusal, payForm_iff, bad])
    all_goals cases bad
  · cases w
    case pick code entries =>
      have form' : pickFormOk code entries = true := form
      have wrong : (s.lane l).order.state ≠ .empty ∧ (s.lane l).order.state ≠ .opened ∧ (s.lane l).order.state ≠ .quoted := by
        simpa [OrderWord.takenIn] using state
      exact runPick_refused claim (by simp [State.pickRefusal, form', wrong])
    case drop seats =>
      have form' : dropFormOk seats = true := form
      simp [State.runDrop, form', openOrQuoted_false state, OrderWord.residual]
    case setType seat type =>
      have form' : (seatInRange seat && decide (type ≤ 5)) = true := form
      simp only [State.runSetType, form', openOrQuoted_false state]
      rfl
    case addVoucher item count =>
      have form' : voucherFormOk item count = true := by simpa [OrderWord.formOk, voucherFormOk, within, Bool.and_assoc] using form
      have wrong : (s.lane l).order.state ≠ .empty ∧ (s.lane l).order.state ∉ ([.opened, .quoted] : List OrderState) := by
        simpa [OrderWord.takenIn] using state
      exact runAdd_refused (by simp [State.addRefusal, form', wrong.1, openOrQuoted_false wrong.2])
    case removeVoucher item count =>
      have form' : voucherFormOk item count = true := by simpa [OrderWord.formOk, voucherFormOk, within, Bool.and_assoc] using form
      simp only [State.runRemove, form', openOrQuoted_false state]
      rfl
    case quote =>
      simp only [State.runQuote, openOrQuoted_false state]
      rfl
    case pay cap =>
      have wrong : (s.lane l).order.state ≠ .quoted ∧ (s.lane l).order.state ≠ .short := by
        simpa [OrderWord.takenIn] using state
      exact runPay_refused (by simp [State.payRefusal, payForm_iff, form, wrong])
    case print =>
      have wrong : (s.lane l).order.state ≠ .sold := by simpa [OrderWord.takenIn] using state
      simp only [State.runPrint, if_neg wrong]
      rfl
    case finish =>
      simp only [OrderWord.takenIn, List.mem_cons, List.not_mem_nil, or_false, not_or] at state
      simp only [State.runFinish]
      cases h : (s.lane l).order.state <;> simp_all [State.refuseWord, OrderWord.residual]
    case cancel =>
      simp only [OrderWord.takenIn, List.mem_cons, List.not_mem_nil, or_false, not_or] at state
      simp only [State.runCancel]
      cases h : (s.lane l).order.state <;> simp_all [State.refuseWord, OrderWord.residual]
  · rcases kind with ⟨code, entries, rfl⟩ | ⟨item, count, rfl⟩ | ⟨cap, rfl, current⟩
    · have form' : pickFormOk code entries = true := form
      have right : (s.lane l).order.state = .empty ∨ (s.lane l).order.state = .opened ∨ (s.lane l).order.state = .quoted := by
        simpa [OrderWord.takenIn] using state
      refine runPick_refused claim ?_
      simp only [State.pickRefusal, form', drainClear_false drain]
      rw [if_neg (by decide), if_neg (by tauto)]
      rfl
    · have form' : voucherFormOk item count = true := by simpa [OrderWord.formOk, voucherFormOk, within, Bool.and_assoc] using form
      have right : (s.lane l).order.state ≠ .empty → s.openOrQuoted l = true := fun other =>
        openOrQuoted_iff.mpr ((List.mem_cons.mp state).resolve_left other)
      refine runAdd_refused ?_
      simp only [State.addRefusal, form', drainClear_false drain]
      rw [if_neg (by decide), if_neg (fun h => by simp [right h.1] at h)]
      rfl
    · have right : (s.lane l).order.state = .quoted ∨ (s.lane l).order.state = .short := by
        simpa [OrderWord.takenIn] using state
      refine runPay_refused ?_
      simp only [State.payRefusal, payForm_iff, form, current, drainClear_false drain]
      rw [if_neg (by decide), if_neg (by tauto)]
      rfl

/-! ### The checks of PICK -/

/-- A PICK that passes its format, state and drain checks meets those of its screening, in order (R44). -/
theorem pickRefusal_checked {s : State} {l : LaneIx} {code : Nat} {entries : List ClaimSeat}
    (form : (OrderWord.pick code entries).formOk = true)
    (state : (s.lane l).order.state ∈ (OrderWord.pick code entries).takenIn) (drain : s.house.drain = .clear) :
    (s.screening code = none → s.pickRefusal l code entries = some (.screeningUnknown, []))
      ∧ ∀ x, s.screening code = some x →
        s.pickRefusal l code entries
          = if x.sync ≠ .ready then some (.screeningSyncing, [])
            else if x.pastLateSale s.house.clock then some (.screeningLate, [])
            else if (s.lane l).order.screening.isSome ∧ (s.lane l).order.code ≠ some code then some (.screeningMismatch, [])
            else if s.link.state ≠ .active then
              some (if s.link.state = .degraded then .linkDegraded else .linkMute, [])
            else if Config.maxSeatLines < (s.lane l).order.seatLines.length + entries.length then some (.orderSeatLimit, [])
            else if !(x.notFree entries).isEmpty then some (x.notFreeCode (x.notFree entries), x.notFree entries)
            else if ((entries.filter fun e => !x.offers e.type).map ClaimSeat.seat).isEmpty then none
            else some (.seatTypeNotOffered, (entries.filter fun e => !x.offers e.type).map ClaimSeat.seat) := by
  have form' : pickFormOk code entries = true := form
  have right : ¬ ((s.lane l).order.state ≠ .empty ∧ (s.lane l).order.state ≠ .opened ∧ (s.lane l).order.state ≠ .quoted) := by
    simp only [OrderWord.takenIn, List.mem_cons, List.not_mem_nil, or_false] at state
    tauto
  simp only [State.pickRefusal, form', drainClear_true drain, if_neg right]
  exact ⟨fun none => by rw [none]; rfl, fun x found => by rw [found]; rfl⟩

theorem pastLateSale_false {x : Screening} {clock : Nat} (h : clock < x.start + x.lateOffset) : x.pastLateSale clock = false := by
  simp [Screening.pastLateSale, h]

theorem screening_matches {o : Order} {code : Nat} (h : o.screening = none ∨ o.code = some code) :
    ¬ (o.screening.isSome = true ∧ o.code ≠ some code) := by
  rcases h with h | h <;> simp [h]

/-- With the checks of the screening, the link and the seat limit passed, the seats and their types are left to check. -/
theorem pickRefusal_seats {s : State} {l : LaneIx} {code : Nat} {entries : List ClaimSeat} {x : Screening}
    (form : (OrderWord.pick code entries).formOk = true)
    (state : (s.lane l).order.state ∈ (OrderWord.pick code entries).takenIn) (drain : s.house.drain = .clear)
    (found : s.screening code = some x) (ready : x.sync = .ready) (early : s.house.clock < x.start + x.lateOffset)
    (same : (s.lane l).order.screening = none ∨ (s.lane l).order.code = some code) (active : s.link.state = .active)
    (limit : (s.lane l).order.seatLines.length + entries.length ≤ 10) :
    (x.notFree entries ≠ [] → s.pickRefusal l code entries = some (x.notFreeCode (x.notFree entries), x.notFree entries))
      ∧ (x.notFree entries = [] → ∀ bad, bad = (entries.filter fun e => !x.offers e.type).map ClaimSeat.seat →
        (bad = [] → s.pickRefusal l code entries = none)
          ∧ (bad ≠ [] → s.pickRefusal l code entries = some (.seatTypeNotOffered, bad))) := by
  rw [(pickRefusal_checked form state drain).2 x found, if_neg (by simp [ready]), if_neg (by simp [pastLateSale_false early]),
    if_neg (screening_matches same), if_neg (by simp [active]),
    if_neg (show ¬ Config.maxSeatLines < _ by simpa [Config.maxSeatLines] using limit)]
  refine ⟨fun busy => by simp [busy], ?_⟩
  rintro free bad rfl
  exact ⟨fun offered => by simp [free, offered], fun other => by simp only [free, List.isEmpty_iff, other]; rfl⟩

theorem notFree_eq_nil {x : Screening} {entries : List ClaimSeat} (free : ∀ e ∈ entries, x.seat e.seat = some .free) :
    x.notFree entries = [] := by
  simpa [Screening.notFree] using free

/-- Settles O29: the checks in order, each under what the ones before it leave. -/
theorem pickRefused : Obligations.PickRefused := by
  intro s l code entries live fresh
  refine ⟨fun withdrawing => effects_word live fresh ?_, fun claim form state drain => ?_⟩
  · simp only [State.runPick, if_pos withdrawing]
  have refused {c : Code} {bad : List SeatRef} (h : s.pickRefusal l code entries = some (c, bad)) :
      PickRefusedWith s l entries c bad := effects_word live fresh (runPick_refused claim h)
  obtain ⟨unknown, checks⟩ := pickRefusal_checked form state drain
  refine ⟨fun none => refused (unknown none), fun x found => ?_⟩
  have checks := checks x found
  refine ⟨fun syncing => refused ?_, fun ready late => refused ?_, fun ready early => ⟨fun some other => refused ?_, fun same =>
    ⟨fun degraded => refused ?_, fun mute => refused ?_, fun active beyond => refused ?_, fun active limit bad => ?_⟩⟩⟩
  · simp [checks, syncing]
  · simp [checks, ready, Screening.pastLateSale, late]
  · have mismatch : (s.lane l).order.screening.isSome = true := Option.isSome_iff_ne_none.mpr some
    simp [checks, ready, pastLateSale_false early, mismatch, other]
  · simp [checks, ready, pastLateSale_false early, screening_matches same, degraded]
  · simp [checks, ready, pastLateSale_false early, screening_matches same, mute]
  · have full : Config.maxSeatLines < (s.lane l).order.seatLines.length + entries.length := beyond
    simp [checks, ready, pastLateSale_false early, screening_matches same, active, full]
  obtain ⟨busy, typed⟩ := pickRefusal_seats form state drain found ready early same active limit
  refine ⟨fun hbad nonempty => ?_, fun free hbad nonempty => refused ((typed (notFree_eq_nil free) bad hbad).2 nonempty)⟩
  obtain rfl : x.notFree entries = bad := hbad.symm
  have busy := busy nonempty
  generalize x.notFree entries = bad at *
  refine ⟨fun outside => refused ?_, fun inside blocked => refused ?_, fun taken => refused ?_⟩ <;> rw [busy, Screening.notFreeCode]
  · rw [if_pos (by simpa using outside)]
  · rw [if_neg (by simpa [Option.isSome_iff_ne_none] using inside), if_pos (by simpa using blocked)]
  · rw [if_neg (by simpa [Option.isSome_iff_ne_none] using fun r hr => (taken r hr).1),
      if_neg (by simpa using fun r hr => (taken r hr).2)]

/-! ### PICK taken -/

/-- A word refused: its block is no longer in progress, and its status is written (R75). -/
theorem endWord_refused {s : State} {l : LaneIx} {b : Block} {i : Nat} {ph : WordPhase} (block : (s.lane l).block = some b)
    (mode : b.mode = .running i ph) (code : Code) (residual : Option Residual) (offending : List SeatRef) :
    s.endWord l (.refused code residual offending)
      = (s.modLane l fun x => { x with block := none }).complete b.ref
          (Status.bytes ⟨.refused, some i, some code, residual, some (s.lane l).order.state, (s.lane l).order.currentTotal,
            offending⟩) := (wordEnds s l b i ph block mode).2.2 code residual offending

theorem runningWord_eq {s : State} {l : LaneIx} {b : Block} {i : Nat} {ph : WordPhase} {w : OrderWord}
    (block : (s.lane l).block = some b) (mode : b.mode = .running i ph) (word : b.words[i]? = some w) :
    s.runningWord l = some (w, ph) := by
  simp only [State.runningWord, block, mode, word]
  rfl

theorem endPick_eq {s : State} {l : LaneIx} {b : Block} {i a : Nat} {es : List ClaimSeat} (block : (s.lane l).block = some b)
    (mode : b.mode = .running i .taken) (word : b.words[i]? = some (.pick a es)) (e : WordEnd) : s.endPick l e = s.endWord l e := by
  simp only [State.endPick, runningWord_eq block mode word]

theorem setPhase_eq {s : State} {l : LaneIx} {b : Block} {i : Nat} {ph : WordPhase} (block : (s.lane l).block = some b)
    (mode : b.mode = .running i ph) (ph' : WordPhase) :
    s.setPhase l ph' = s.modLane l fun x => { x with block := some { b with mode := .running i ph' } } :=
  modLane_congr (by simp only [block, Option.map_some, mode])

theorem slotsKept_mapSeats (s : State) (code : Nat) (seats : List SeatRef) (f : SeatState → SeatState) :
    SlotsKept s (s.mapSeats code seats f) := by
  simp only [SlotsKept, State.mapSeats, State.modScreening, List.map_map, List.map_inj_left]
  rintro (_ | x) -
  · rfl
  · simp only [Function.comp, Option.map_some, Option.some.injEq]
    split <;> rfl

theorem SlotsKept.trans {s t u : State} (h : SlotsKept s t) (k : SlotsKept t u) : SlotsKept s u := Eq.trans k h

/-- A seat is looked up in the slots alone. -/
theorem seat_congr {s t : State} (h : t.slots = s.slots) (c : Nat) (r : SeatRef) : t.seat c r = s.seat c r := by
  simp only [State.seat, State.screening, h]

/-- A HOLD is admitted to an ACTIVE link below 24 entries, and refused otherwise (R35). -/
theorem admission_hold {k : Link} (active : k.state = .active) :
    (k.queue.length < 24 → k.admission .hold = .admitted) ∧ (24 ≤ k.queue.length → k.admission .hold = .refused) := by
  refine ⟨fun h => ?_, fun h => ?_⟩
  · simp [Link.admission, active, Link.room, Class.threshold, Config.thresholdSize, h]
  · simp [Link.admission, active, Link.room, Class.threshold, Config.thresholdSize, show ¬ k.queue.length < 24 by omega]

/-- The state of a taken PICK before its HOLD is offered (R45). -/
def claimedBy (s : State) (l : LaneIx) (code : Nat) (entries : List ClaimSeat) (b : Block) (i : Nat) : State :=
  (s.modLane l fun x =>
    { x with
      claim := ⟨.queued, (s.lane l).order.tag.or (some b.tag), s.slotOf code, code, entries, none, none⟩
      block := some { b with mode := .running i .taken } }).mapSeats code (entries.map ClaimSeat.seat)
    fun st => if st = .free then .claiming l else st

theorem takePick_eq {s : State} {l : LaneIx} {b : Block} {i : Nat} {ph : WordPhase} (block : (s.lane l).block = some b)
    (mode : b.mode = .running i ph) (code : Nat) (entries : List ClaimSeat) :
    s.takePick l code entries
      = (claimedBy s l code entries b i).offer (.hold code s.cfg.holdLifetime (entries.map ClaimSeat.seat)) .hold (some l)
          ((s.lane l).order.tag.or (some b.tag)) := by
  have claimed (f : Lane → Lane) (hf : (f (s.lane l)).block = some b) (g : SeatState → SeatState) :
      ((s.modLane l f).mapSeats code (entries.map ClaimSeat.seat) g).setPhase l .taken
        = (s.modLane l fun x => { f x with block := some { b with mode := .running i .taken } }).mapSeats code
            (entries.map ClaimSeat.seat) g := by
    have held : (((s.modLane l f).mapSeats code (entries.map ClaimSeat.seat) g).lane l).block = some b :=
      (congrArg Lane.block (State.lane_modLane_same s l f)).trans hf
    rw [setPhase_eq held mode, modLane_mapSeats, modLane_modLane]
  simp only [State.takePick, block, Option.map_some, claimedBy]
  rw [claimed _ block]

theorem claimedBy_lane (s : State) (l : LaneIx) (code : Nat) (entries : List ClaimSeat) (b : Block) (i : Nat) :
    (claimedBy s l code entries b i).lane l
      = { s.lane l with
          claim := ⟨.queued, (s.lane l).order.tag.or (some b.tag), s.slotOf code, code, entries, none, none⟩
          block := some { b with mode := .running i .taken } }  := by
  rw [claimedBy, lane_mapSeats, State.lane_modLane_same]

/-- The seats of a PICK that is taken are CLAIMING, and every other seat is as it was. -/
theorem claimedBy_seats (s : State) (l : LaneIx) (code : Nat) (entries : List ClaimSeat) (b : Block) (i : Nat) :
    (∀ r, (claimedBy s l code entries b i).seat code r
        = (s.seat code r).map fun st => if r ∈ entries.map ClaimSeat.seat then (if st = .free then .claiming l else st) else st)
      ∧ ∀ c r, c ≠ code → (claimedBy s l code entries b i).seat c r = s.seat c r :=
  have become := State.seatsBecome_mapSeats (s.modLane l _) code (entries.map ClaimSeat.seat) fun st =>
    if st = .free then SeatState.claiming l else st
  ⟨become.seats, become.others⟩

/-- The HOLD of a PICK is not admitted: the claim fails, and its seats are FREE again (R67). -/
theorem claimFails_claimedBy {s : State} {l : LaneIx} {code : Nat} {entries : List ClaimSeat} {b : Block} {i : Nat} {ph : WordPhase}
    (block : (s.lane l).block = some b) (mode : b.mode = .running i ph) (word : b.words[i]? = some (.pick code entries))
    (c : Code) :
    (claimedBy s l code entries b i).claimFails l c
      = { (s.modLane l fun y => { y with claim := Claim.blank }).endWord l
            (.refused c (seatsResidual (entries.map ClaimSeat.seat)) []) with
          slots := ((claimedBy s l code entries b i).freeClaim l).slots } := by
  have held := claimedBy_lane s l code entries b i
  have cleared : (((claimedBy s l code entries b i).freeClaim l).clearClaim l).lane l
      = { s.lane l with claim := Claim.blank, block := some { b with mode := .running i .taken } } := by
    rw [State.clearClaim, State.lane_modLane_same]
    show ({ (claimedBy s l code entries b i).lane l with claim := Claim.blank } : Lane) = _
    rw [held]
  have blank : (s.modLane l fun y => { y with claim := Claim.blank }).lane l = { s.lane l with claim := Claim.blank } :=
    State.lane_modLane_same s l _
  rw [State.claimFails, if_pos (by rw [held]), endPick_eq (congrArg Lane.block cleared) rfl word,
    endWord_refused (congrArg Lane.block cleared) rfl,
    endWord_refused ((congrArg Lane.block blank).trans block) mode, cleared, blank, held, State.clearClaim]
  simp only [State.freeClaim, claimedBy, modLane_mapSeats, modLane_modLane]
  rfl

/-- Settles O28: the HOLD enters the queue, or the claim fails and nothing but the word has changed. -/
theorem pickTaken : Obligations.PickTaken := by
  intro s l code entries x live fresh form claim state drain found ready early same active limit free offered
  obtain ⟨b, i, block, mode, word⟩ := freshWord_block fresh
  have passed : s.pickRefusal l code entries = none :=
    ((pickRefusal_seats form state drain found ready early same active limit).2 (notFree_eq_nil free) _ rfl).1
      (by simpa using offered)
  have taken : s.runPick l code entries = s.takePick l code entries := by
    simp only [State.runPick, if_neg claim, passed]
  have effect : ∀ m, s.takePick l code entries = m → Effects (.pick l) s m := fun m h =>
    effects_word live fresh (taken.trans h)
  have seatFree : ∀ e ∈ entries, s.seat code e.seat = some .free := fun e he => by simp [State.seat, found, free e he]
  have held := claimedBy_lane s l code entries b i
  have linkKept : (claimedBy s l code entries b i).link = s.link := rfl
  rw [takePick_eq block mode] at effect
  refine ⟨fun full => ?_, fun room => ?_⟩
  · have refused : (claimedBy s l code entries b i).offer (.hold code s.cfg.holdLifetime (entries.map ClaimSeat.seat)) .hold
        (some l) ((s.lane l).order.tag.or (some b.tag)) = (claimedBy s l code entries b i).claimFails l .linkBusy := by
      simp only [State.offer, linkKept, (admission_hold active).2 full, State.noticeLost, active, LinkState.busyCode]
    have fails := claimFails_claimedBy block mode word (s := s) .linkBusy
    refine ⟨_, effect _ (refused.trans fails), ⟨?_, fun c r => ?_⟩, rfl⟩
    · exact SlotsKept.trans (slotsKept_mapSeats (s.modLane l _) code _ _) (slotsKept_mapSeats _ _ _ _)
    · have freed := State.seatsBecome_mapSeats (claimedBy s l code entries b i) code (entries.map ClaimSeat.seat) fun st =>
        if st.claimedBy l then .free else st
      have slots : ((claimedBy s l code entries b i).freeClaim l).slots
          = ((claimedBy s l code entries b i).mapSeats code (entries.map ClaimSeat.seat) fun st =>
              if st.claimedBy l then .free else st).slots := by
        rw [State.freeClaim, held]
      refine (seat_congr (t := { s with slots := _ }) slots c r).trans ?_
      obtain ⟨claimed, others⟩ := claimedBy_seats s l code entries b i
      by_cases hc : c = code
      · subst hc
        rw [freed.seats, claimed]
        by_cases hr : r ∈ entries.map ClaimSeat.seat
        · obtain ⟨e, he, rfl⟩ := List.mem_map.mp hr
          simp [seatFree e he, hr, SeatState.claimedBy]
        · simp [hr]
      · rw [freed.others c r hc, others c r hc]
  · have admitted : (claimedBy s l code entries b i).offer (.hold code s.cfg.holdLifetime (entries.map ClaimSeat.seat)) .hold
        (some l) ((s.lane l).order.tag.or (some b.tag))
        = (claimedBy s l code entries b i).modLink fun k =>
            k.enqueue (.hold code s.cfg.holdLifetime (entries.map ClaimSeat.seat)) .hold (some l)
              ((s.lane l).order.tag.or (some b.tag)) := by
      simp only [State.offer, linkKept, (admission_hold active).1 room]
    obtain ⟨t, done, -, closed⟩ := effect _ admitted
    have lane (k : LaneIx) : t.lane k = (claimedBy s l code entries b i).lane k := congrArg (PerLane.get · k) closed.lanes
    have seat (c : Nat) (r : SeatRef) : t.seat c r = (claimedBy s l code entries b i).seat c r := seat_congr closed.slots c r
    obtain ⟨claimed, others⟩ := claimedBy_seats s l code entries b i
    refine ⟨t, done, ?_, ?_, fun k hk => ?_, fun e he => ?_, fun r hr => ?_, fun c r hc => ?_, ?_, ?_, ?_⟩
    · rw [lane, held, block]
      rfl
    · rw [lane, held]
    · rw [lane, claimedBy, lane_mapSeats, lane_modLane_other hk]
    · have hr : e.seat ∈ entries.map ClaimSeat.seat := List.mem_map_of_mem he
      simp [seat, claimed, seatFree e he, hr]
    · simp [seat, claimed, hr]
    · rw [seat, others c r hc]
    · rw [closed.slots]
      show (claimedBy s l code entries b i).slots = _
      rw [claimedBy, State.mapSeats_eq_withSeats]
      rfl
    · exact runningWord_eq (b := { b with mode := .running i .taken }) (by rw [lane, held]) rfl word
    · rw [closed.link, block]
      rfl

end Sys2Proof.Proofs.Words
end

section
/-! PROOFS of O30 to O32: SET-TYPE, the voucher words and QUOTE. -/

namespace Sys2Proof.Proofs.LineWords

open Sys2Proof Sys2Proof.Machine Sys2Proof.Proofs.Inputs Sys2Proof.Proofs.Requests Sys2Proof.Proofs.Words

/-! ### Lines changed -/

theorem modOrder_eq (s : State) (l : LaneIx) (f : Order → Order) :
    s.modOrder l f = s.modLane l fun x => { x with order := f x.order } := rfl

/-- A change of the lines of an order that holds its tag: the order is OPEN with its quote stale, and the attendance timer of an
EMPTY one starts (R78, R88). -/
theorem linesChanged_modOrder {s : State} {l : LaneIx} {f : Order → Order} (tag : (f (s.lane l).order).tag.isSome = true)
    (state : (f (s.lane l).order).state = (s.lane l).order.state) :
    (s.modOrder l f).linesChanged l
      = s.modLane l fun x =>
          { x with
            attendance := if x.order.state = .empty then some (s.house.clock + s.cfg.attendanceTimeout) else x.attendance
            order := { f x.order with state := .opened, quoteCurrent := false } } := by
  obtain ⟨n, hn⟩ := Option.isSome_iff_exists.mp tag
  rw [modOrder_eq, State.linesChanged, modLane_modLane]
  refine modLane_congr ?_
  simp only [hn, Option.some_or]
  rw [state]
  rfl

theorem not_empty_of_taken {o : Order} (h : o.state ∈ ([.opened, .quoted] : List OrderState)) : o.state ≠ .empty := by
  rintro e
  simp [e] at h

/-! ### SET-TYPE -/

/-- Settles O30: the checks of SET-TYPE, and its change of a line. -/
theorem setTypeWord : Obligations.SetTypeWord := by
  intro s l seat type live fresh form state tag
  have effect : ∀ m, s.runSetType l seat type = m → Effects (.setType l) s m := fun m h => effects_word live fresh h
  have form' : (seatInRange seat && decide (type ≤ 5)) = true := form
  have open' : s.openOrQuoted l = true := openOrQuoted_iff.mpr state
  refine ⟨fun none => effect _ ?_, fun v found x loaded => ⟨fun notOffered => effect _ ?_, fun offered same => effect _ ?_,
    fun offered other => effect _ ?_⟩⟩
  · have missing : (s.lane l).order.seatLines.find? (fun v => decide (v.seat = seat)) = .none := by simpa using none
    simp only [State.runSetType, form', open', missing]
    rfl
  all_goals have offers : s.orderOffers (s.lane l).order type = x.offers type := by simp only [State.orderOffers, loaded]
  · simp [State.runSetType, form', open', found, offers, notOffered]
  · simp [State.runSetType, form', open', found, offers, offered, same]
  · have changed := linesChanged_modOrder (s := s) (l := l)
      (f := fun o => { o with seatLines := o.seatLines.map (SeatLine.retype seat type) }) tag rfl
    simp only [State.runSetType, form', open', found, offers, offered, if_neg other, changed]
    refine congrArg (State.endWord · l .done) (modLane_congr ?_)
    rw [if_neg (not_empty_of_taken state)]
    rfl

/-! ### Voucher words -/

theorem voucherForm_eq (item count : Nat) : voucherFormOk item count = (OrderWord.addVoucher item count).formOk := by
  simp [OrderWord.formOk, voucherFormOk, within, Bool.and_assoc]

/-- The lines split off: with just `n` lines of the item in front, those leave and the other lines in front stay (R133). -/
theorem splitLines_append (item : Nat) (front back : List VoucherLine) (n : Nat)
    (h : front.countP (fun v => v.item = item) = n) :
    splitLines item n (front ++ back)
      = (front.filter fun v => v.item = item, (front.filter fun v => v.item ≠ item) ++ back) := by
  induction front generalizing n with
  | nil =>
    obtain rfl : n = 0 := h.symm
    cases back <;> rfl
  | cons v vs ih =>
    by_cases hv : v.item = item
    · obtain ⟨m, rfl⟩ : ∃ m, n = m + 1 := ⟨n - 1, by simp [hv] at h; omega⟩
      have later := ih m (by simpa [hv] using h)
      simp only [List.cons_append, splitLines, if_pos hv, later]
      simp [hv]
    · have later := ih n (by simpa [hv] using h)
      cases n with
      | zero =>
        have none : ∀ w ∈ vs, w.item ≠ item := by simpa [hv] using h
        have kept : vs = vs.filter fun w => !decide (w.item = item) :=
          (List.filter_eq_self.mpr fun w hw => by simpa using none w hw).symm
        simpa [splitLines, hv] using ⟨none, kept⟩
      | succ n =>
        simp only [List.cons_append, splitLines, if_neg hv, later]
        simp [hv]

/-- The reservations that lines of one item return. -/
theorem returned_of_item {v : Vouchers} {lines : List VoucherLine} {item : Nat} (items : ∀ x ∈ lines, x.item = item)
    (fresh : ∀ x ∈ lines, x.code = none) :
    v.returned lines
      = { v with
          catalog := v.catalog.map fun i =>
            if i.code = item then { i with reserved := i.reserved - lines.length } else i } := by
  have count (i : CatalogItem) : unissuedOf lines i.code = if i.code = item then lines.length else 0 := by
    unfold unissuedOf
    split
    next h => exact List.countP_eq_length.mpr fun x hx => by simp [items x hx, h, fresh x hx]
    next h => exact List.countP_eq_zero.mpr fun x hx => by simp [items x hx, Ne.symm h]
  simp only [Vouchers.returned, count]
  congr 1
  refine List.map_congr_left fun i _ => ?_
  split <;> rfl

/-- Settles O31: the checks of both words, lines appended, and lines that leave from the newer end. -/
theorem voucherWords : Obligations.VoucherWords := by
  refine ⟨fun s l item count live fresh form state drain tag => ?_, fun s l item count live fresh form state tag => ?_⟩
  · have effect : ∀ m, s.runAdd l item count = m → Effects (.addVoucher l) s m := fun m h => effects_word live fresh h
    have form' : voucherFormOk item count = true := (voucherForm_eq item count).trans form
    have right : ¬ ((s.lane l).order.state ≠ .empty ∧ s.openOrQuoted l = false) := fun h => by
      have := openOrQuoted_iff.mpr ((List.mem_cons.mp state).resolve_left h.1)
      simp [this] at h
    have checks : s.addRefusal l item count
        = match s.item item with
          | none => some .voucherUnknown
          | some i =>
            if Config.maxVoucherLines < (s.lane l).order.voucherLines.length + count then some .voucherLineLimit
            else if i.allotment < i.issued + i.reserved + count then some .voucherExhausted
            else none := by
      simp only [State.addRefusal, form', drainClear_true drain, if_neg right]
      rfl
    refine ⟨fun unknown => effect _ (runAdd_refused ?_), fun i found => ⟨fun beyond => effect _ (runAdd_refused ?_),
      fun limit exhausted => effect _ (runAdd_refused ?_), fun limit room => effect _ ?_⟩⟩
    · have none : s.item item = .none := by simpa [State.item] using unknown
      rw [checks, none]
    all_goals
      have found' : s.item item = some i := found
      rw [found'] at checks
    · rw [checks]
      exact if_pos beyond
    · rw [checks]
      exact (if_neg (show ¬ 8 < _ by omega)).trans (if_pos exhausted)
    · have passed : s.addRefusal l item count = none := by
        rw [checks]
        exact (if_neg (show ¬ 8 < _ by omega)).trans (if_neg (by omega))
      simp only [State.runAdd, passed, State.applyAdd]
      rw [linesChanged_modOrder (s := s.modItem item _)
        (f := fun o => { o with voucherLines := o.voucherLines ++ List.replicate count (VoucherLine.fresh item) }) tag rfl]
      rfl
  · have effect : ∀ m, s.runRemove l item count = m → Effects (.removeVoucher l) s m := fun m h => effects_word live fresh h
    have form' : voucherFormOk item count = true := (voucherForm_eq item count).trans form
    have open' : s.openOrQuoted l = true := openOrQuoted_iff.mpr state
    refine ⟨fun few => effect _ ?_, fun older newer lines newest unissued => effect _ ?_⟩
    · simp [State.runRemove, form', open', few, State.refuseWord]
    have enough : ¬ (s.lane l).order.voucherLines.countP (fun v => v.item = item) < count := by
      rw [lines, List.countP_append, newest]
      omega
    have front : newer.reverse.countP (fun v => v.item = item) = count := (List.countP_reverse ..).trans newest
    have split := splitLines_append item newer.reverse older.reverse count front
    have gone : ∀ x ∈ newer.reverse.filter fun v => v.item = item, x.item = item ∧ x.code = none := fun x hx => by
      obtain ⟨hx, hi⟩ := List.mem_filter.mp hx
      have hi : x.item = item := by simpa using hi
      exact ⟨hi, unissued x (List.mem_reverse.mp hx) hi⟩
    have length : (newer.reverse.filter fun v => v.item = item).length = count := by rw [← List.countP_eq_length_filter, front]
    have left : ((newer.reverse.filter fun v => v.item ≠ item) ++ older.reverse).reverse
        = older ++ newer.filter fun v => v.item ≠ item := by
      rw [List.reverse_append, List.reverse_reverse, ← List.filter_reverse, List.reverse_reverse]
    have passed : s.runRemove l item count = s.applyRemove l item count := by
      simp only [State.runRemove, form', open', if_neg enough]
      rfl
    rw [passed]
    simp only [State.applyRemove, lines, List.reverse_append, split, left, State.returnLines_eq,
      returned_of_item (fun x hx => (gone x hx).1) (fun x hx => (gone x hx).2), length]
    have changed := linesChanged_modOrder (l := l) (s := ({ s with
      vouchers :=
        { s.vouchers with
          catalog := s.vouchers.catalog.map fun i =>
            if i.code = item then { i with reserved := i.reserved - count } else i } } : State))
      (f := fun o => { o with voucherLines := older ++ newer.filter fun v => v.item ≠ item }) tag rfl
    refine congrArg (State.endWord · l .done) (changed.trans (modLane_congr ?_))
    exact congrArg (fun a => ({ s.lane l with attendance := a, order := _ } : Lane)) (if_neg (not_empty_of_taken state))

/-! ### QUOTE -/

/-- Settles O32: the two checks of QUOTE, and the quote written. -/
theorem quoteWord : Obligations.QuoteWord := by
  intro s l p live fresh state hp
  have effect : ∀ m, s.runQuote l = m → Effects (.quote l) s m := fun m h => effects_word live fresh h
  have open' : s.openOrQuoted l = true := openOrQuoted_iff.mpr state
  obtain rfl : s.priced l = p := hp.symm
  refine ⟨fun seats vouchers => effect _ ?_, fun lines => ⟨fun beyond => effect _ ?_, fun within => effect _ ?_⟩⟩
  · simp [State.runQuote, open', seats, vouchers, State.refuseWord]
  all_goals
    have some : ¬ ((s.lane l).order.seatLines.isEmpty = true ∧ (s.lane l).order.voucherLines.isEmpty = true) := by
      simp only [List.isEmpty_iff]
      tauto
    simp only [State.runQuote, open', if_neg some]
  · exact if_pos beyond
  · exact if_neg (show ¬ 999999 < _ by omega)

end Sys2Proof.Proofs.LineWords
end

section
/-! PROOFS of O10, O38 and O60: the house clock and what is due, the discount cap, the DRAINED test. -/

namespace Sys2Proof.Proofs.Closing

open Sys2Proof Sys2Proof.Machine Sys2Proof.Proofs.Inputs Sys2Proof.Proofs.Requests

/-! ### The discount cap -/

/-- Settles O38: what the cap leaves of a line is its discount less what the later lines do not take (capDiscounts_getElem?). -/
theorem capFromTheLast : Obligations.CapFromTheLast := by
  intro excess ds out left h
  obtain ⟨rfl, rfl⟩ := Prod.mk.inj h
  refine ⟨capDiscounts_length .., ?_, Pricing.capDiscounts_left .., fun k a b ha hb =>
    ⟨Pricing.capDiscounts_le ha hb, fun low j hj z hz => Pricing.capDiscounts_later_zero ha hb low hj hz, fun kept j hj => ?_⟩⟩
  · rw [Pricing.capDiscounts_sum, Pricing.capDiscounts_left]
    omega
  · have inside : j < ds.length := hj.trans (List.getElem?_eq_some_iff.mp ha).1
    have inside' : j < (capDiscounts excess ds).1.length := by rwa [capDiscounts_length]
    have hd := List.getElem?_eq_getElem inside
    have hz := List.getElem?_eq_getElem inside'
    rw [hd, hz]
    refine congrArg some (Nat.le_antisymm (Pricing.capDiscounts_le hd hz) ?_)
    by_contra low
    exact kept (Pricing.capDiscounts_later_zero hd hz (not_le.mp low) hj hb)

/-! ### What is due -/

theorem slot_eq_some {s : State} {i : Nat} {x : Screening} : s.slot i = some x ↔ s.slots[i]? = some (some x) := by
  unfold State.slot
  cases s.slots[i]? <;> simp

theorem mem_dueSeats {s : State} {i : Nat} {e : TimedEvent} :
    e ∈ s.dueSeats i ↔ ∃ x r o d, s.slots[i]? = some (some x) ∧ (r, .peerHeld o d) ∈ x.seats ∧ d ≤ s.house.clock
      ∧ e = .peerHeld i r := by
  have seat (p : SeatRef × SeatState) :
      dueSeat s.house.clock i p = some e ↔ ∃ o d, p.2 = .peerHeld o d ∧ d ≤ s.house.clock ∧ e = .peerHeld i p.1 := by
    obtain ⟨r, st⟩ := p
    cases st <;> simp [dueSeat, eq_comm]
  unfold State.dueSeats
  cases h : s.slot i with
  | none =>
    simp only [List.not_mem_nil, false_iff]
    rintro ⟨x, -, -, -, hx, -⟩
    rw [slot_eq_some.mpr hx] at h
    cases h
  | some x =>
    simp only [List.mem_filterMap, seat, slot_eq_some.mp h, Option.some.injEq]
    constructor
    · rintro ⟨⟨r, -⟩, mem, o, d, rfl, reached, rfl⟩
      exact ⟨x, r, o, d, rfl, mem, reached, rfl⟩
    · rintro ⟨_, r, o, d, rfl, mem, reached, rfl⟩
      exact ⟨_, mem, o, d, rfl, reached, rfl⟩

theorem dueVoucher_eq_some {s : State} {i : Nat} {e : TimedEvent} :
    s.dueVoucher i = some e
      ↔ e = .voucher i ∧ ∃ r, s.vouchers.table[i]? = some r ∧ r.status = .issued ∧ r.expiry ≤ s.house.clock := by
  unfold State.dueVoucher
  cases s.vouchers.table[i]? <;> simp [eq_comm, and_comm]

theorem reached_iff {deadline : Option Nat} {clock : Nat} : reached deadline clock = true ↔ ∃ d, deadline = some d ∧ d ≤ clock := by
  cases deadline <;> simp [reached]

theorem exchangeDue_iff {s : State} {l : LaneIx} {k : ExchangeKind} :
    (s.exchangeDue l k).isSome = true
      ↔ ∃ x, (s.lane l).term.exchange = some x ∧ x.msg.kind = k ∧ x.deadline ≤ s.house.clock := by
  unfold State.exchangeDue
  cases (s.lane l).term.exchange <;> simp [Option.filter]

/-- The timed events of a lane that are due, one of each kind. -/
theorem mem_dueLane {s : State} {l : LaneIx} {e : TimedEvent} :
    e ∈ s.dueLane l
      ↔ (∃ d, (s.lane l).attendance = some d ∧ d ≤ s.house.clock ∧ e = .attendance l)
        ∨ (∃ d, (s.lane l).term.pinDeadline = some d ∧ d ≤ s.house.clock ∧ e = .pin l)
        ∨ ∃ x, (s.lane l).term.exchange = some x
          ∧ (x.msg.kind = .auth ∧ x.deadline ≤ s.house.clock ∧ e = .auth l
            ∨ x.msg.kind = .capture ∧ x.deadline ≤ s.house.clock ∧ e = .capture l
            ∨ x.msg.kind = .void ∧ x.deadline ≤ s.house.clock ∧ e = .void l) := by
  simp only [State.dueLane, exchangeDue_iff, reached_iff, List.mem_append, List.mem_ite_nil_right, List.mem_singleton]
  constructor
  · rintro ((((⟨⟨x, hx, hk, hd⟩, rfl⟩ | ⟨⟨x, hx, hk, hd⟩, rfl⟩) | ⟨⟨x, hx, hk, hd⟩, rfl⟩) | ⟨⟨d, hd, hr⟩, rfl⟩) | ⟨⟨d, hd, hr⟩, rfl⟩)
    · exact .inr (.inr ⟨x, hx, .inl ⟨hk, hd, rfl⟩⟩)
    · exact .inr (.inr ⟨x, hx, .inr (.inl ⟨hk, hd, rfl⟩)⟩)
    · exact .inr (.inr ⟨x, hx, .inr (.inr ⟨hk, hd, rfl⟩)⟩)
    · exact .inr (.inl ⟨d, hd, hr, rfl⟩)
    · exact .inl ⟨d, hd, hr, rfl⟩
  · rintro (⟨d, hd, hr, rfl⟩ | ⟨d, hd, hr, rfl⟩ | ⟨x, hx, (⟨hk, hd, rfl⟩ | ⟨hk, hd, rfl⟩ | ⟨hk, hd, rfl⟩)⟩)
    · exact .inr ⟨⟨d, hd, hr⟩, rfl⟩
    · exact .inl (.inr ⟨⟨d, hd, hr⟩, rfl⟩)
    · exact .inl (.inl (.inl (.inl ⟨⟨x, hx, hk, hd⟩, rfl⟩)))
    · exact .inl (.inl (.inl (.inr ⟨⟨x, hx, hk, hd⟩, rfl⟩)))
    · exact .inl (.inl (.inr ⟨⟨x, hx, hk, hd⟩, rfl⟩))

theorem itemDue_iff {s : State} {p : PortIx} :
    (s.printerDue p && (s.printer p).itemTag.isSome) = true
      ↔ ∃ tag content d, (s.printer p).outstanding = some ⟨.item tag content, d⟩ ∧ d ≤ s.house.clock := by
  unfold State.printerDue Printer.itemTag
  rcases (s.printer p).outstanding with - | ⟨- | -, d⟩ <;> simp

theorem probeDue_iff {s : State} {p : PortIx} :
    (s.printerDue p && (s.printer p).probing) = true
      ↔ ∃ d, (s.printer p).outstanding = some ⟨.probe, d⟩ ∧ d ≤ s.house.clock := by
  unfold State.printerDue Printer.probing
  rcases (s.printer p).outstanding with - | ⟨- | -, d⟩ <;> simp

theorem intervalDue_iff {s : State} {p : PortIx} :
    s.intervalDue p = true ↔ ∃ d, (s.printer p).interval = some d ∧ d ≤ s.house.clock := by
  unfold State.intervalDue
  cases (s.printer p).interval <;> simp

/-- The timed events of a port that are due. -/
theorem mem_duePort {s : State} {p : PortIx} {e : TimedEvent} :
    e ∈ s.duePort p
      ↔ ((∃ tag content d, (s.printer p).outstanding = some ⟨.item tag content, d⟩ ∧ d ≤ s.house.clock) ∧ e = .item p)
        ∨ ((∃ d, (s.printer p).outstanding = some ⟨.probe, d⟩ ∧ d ≤ s.house.clock) ∧ e = .probe p)
        ∨ ((∃ d, (s.printer p).interval = some d ∧ d ≤ s.house.clock) ∧ e = .interval p) := by
  simp only [State.duePort, itemDue_iff, probeDue_iff, intervalDue_iff, List.mem_append, List.mem_ite_nil_right,
    List.mem_singleton, or_assoc]

theorem mem_dueEvents {s : State} {e : TimedEvent} :
    e ∈ s.dueEvents
      ↔ (∃ i, i < 16 ∧ e ∈ s.dueSeats i) ∨ (∃ i, s.dueVoucher i = some e) ∨ (∃ l, e ∈ s.dueLane l) ∨ ∃ p, e ∈ s.duePort p := by
  have vouchers : (∃ i, i < s.vouchers.table.length ∧ s.dueVoucher i = some e) ↔ ∃ i, s.dueVoucher i = some e := by
    refine exists_congr fun i => and_iff_right_of_imp fun h => ?_
    obtain ⟨-, r, hr, -⟩ := dueVoucher_eq_some.mp h
    exact (List.getElem?_eq_some_iff.mp hr).1
  have ports : (e ∈ s.duePort 0 ∨ e ∈ s.duePort 1) ↔ ∃ p, e ∈ s.duePort p :=
    ⟨fun h => h.elim (fun h => ⟨0, h⟩) fun h => ⟨1, h⟩, fun ⟨p, h⟩ => by
      match p with
      | 0 => exact .inl h
      | 1 => exact .inr h⟩
  have lanes : (∃ l ∈ laneOrder, e ∈ s.dueLane l) ↔ ∃ l, e ∈ s.dueLane l := exists_congr fun l => and_iff_right (Requests.mem_laneOrder l)
  have slots : (∃ i, i < Config.slotCount ∧ e ∈ s.dueSeats i) ↔ ∃ i, i < 16 ∧ e ∈ s.dueSeats i := Iff.rfl
  simp only [State.dueEvents, List.mem_append, List.mem_flatMap, List.mem_filterMap, List.mem_range, vouchers, lanes, slots,
    or_assoc, ports]

/-- What is due is read off the slots, the voucher table, the lanes, the printers and the clock. -/
theorem dueEvents_congr {s t : State} (slots : t.slots = s.slots) (vouchers : t.vouchers = s.vouchers) (lanes : t.lanes = s.lanes)
    (printing : t.printing = s.printing) (clock : t.house.clock = s.house.clock) : t.dueEvents = s.dueEvents := by
  rcases s with ⟨⟨_, _, _, _, _⟩, _, _, _, _, _, _, _, _⟩
  rcases t with ⟨⟨_, _, _, _, _⟩, _, _, _, _, _, _, _, _⟩
  cases slots
  cases vouchers
  cases lanes
  cases printing
  cases clock
  rfl

/-- Settles O10: the advance by its definition, and each kind of event that is due by the part of the state it is read off. -/
theorem houseClockAdvances : Obligations.HouseClockAdvances := by
  refine ⟨fun s u first rest live queue next hu => ⟨fun stopped => ?_, fun counting => ?_⟩, fun s clock hclock => ?_⟩
  · simp [Completes, exec, execHouseClockAdvance, stopped]
  · have ticked : s.acted State.tick = settle s u := by
      rw [State.acted, if_neg (by simpa using live), hu]
      rfl
    have rows : timedRows s.pending = first := by rw [queue, timedRows_append first rest next]
    have closed := settle_closed s u
    have advance : exec .houseClockAdvance s
        = .next (((settle s u).takeEvents first).takeEvents ((settle s u).takeEvents first).dueEvents) := by
      simp only [exec, execHouseClockAdvance, counting, if_true, State.advance, ticked, rows]
    refine ⟨fun none nothing => ⟨settle s u, ?_, rfl, closed⟩, settle s u, (settle s u).takeEvents first, _, advance, rfl, closed,
      State.takeEvents_runsTo _ _, State.takeEvents_runsTo _ _⟩
    have clock : (settle s u).house.clock = u.house.clock := by rw [closed.house]
    have same := dueEvents_congr closed.slots closed.vouchers closed.lanes closed.printing clock
    rw [Completes, advance, none]
    simp [State.takeEvents, same, nothing]
  · subst hclock
    simp only [mem_dueEvents, mem_dueSeats, dueVoucher_eq_some, mem_dueLane, mem_duePort]
    refine ⟨fun i r => ?_, fun i => ?_, fun l => ⟨?_, ?_, fun e k hek => ?_⟩, fun p => ⟨?_, ?_, ?_⟩⟩
    · simp
    · simp
    · simp
    · simp
    · simp at hek
      rcases hek with ⟨rfl, rfl⟩ | ⟨rfl, rfl⟩ | ⟨rfl, rfl⟩
      · simp
      · simp
      · simp
    · simp
    · simp
    · simp

/-! ### The DRAINED test -/

theorem settled_iff {o : OrderState} : o.settled = true ↔ o ∈ ([.empty, .sold, .complete, .unresolved] : List OrderState) := by
  cases o <;> decide

theorem drainedHolds_iff {s : State} :
    s.drainedHolds = true
      ↔ (∀ l, l.val < s.cfg.laneCount → (s.lane l).order.state ∈ ([.empty, .sold, .complete, .unresolved] : List OrderState))
        ∧ s.link.queue = [] ∧ s.link.contention.entry = none ∧ s.link.overflow = none := by
  have lanes : (laneOrder.all fun l => !s.laneInUse l || (s.lane l).order.state.settled) = true
      ↔ ∀ l, l.val < s.cfg.laneCount → (s.lane l).order.state ∈ ([.empty, .sold, .complete, .unresolved] : List OrderState) := by
    rw [List.all_eq_true]
    refine forall_congr' fun l => ?_
    rw [forall_prop_of_true (Requests.mem_laneOrder l), ← settled_iff]
    simp [State.laneInUse, Decidable.imp_iff_not_or]
  simp only [State.drainedHolds, Bool.and_eq_true, lanes, List.isEmpty_iff, Option.isNone_iff_eq_none, and_assoc]

theorem testDrained_of_not {s before : State}
    (h : ¬ (s.house.drain = .draining ∧ drainTested before s = true ∧ s.drainedHolds = true)) : s.testDrained before = s :=
  if_neg h

/-- A step closed is closed: the test is made once (R188). -/
theorem testDrained_idem (s before : State) : (s.testDrained before).testDrained before = s.testDrained before := by
  by_cases h : s.house.drain = .draining ∧ drainTested before s = true ∧ s.drainedHolds = true
  · refine testDrained_of_not ?_
    rw [State.testDrained, if_pos h]
    simp
  · rw [testDrained_of_not h, testDrained_of_not h]

theorem drainTested_iff {before s : State} :
    drainTested before s = true
      ↔ (∃ l, (before.lane l).order.state ≠ (s.lane l).order.state)
        ∨ (∃ e ∈ before.link.queue, e.id ∉ s.link.queue.map Entry.id)
        ∨ (∃ e, before.link.overflow = some e ∧ s.link.overflow.map Entry.id ≠ some e.id)
        ∨ before.house.lock = false ∧ s.house.lock = true := by
  have lanes : ordersChanged before s = true ↔ ∃ l, (before.lane l).order.state ≠ (s.lane l).order.state := by
    simp [ordersChanged, Requests.mem_laneOrder]
  have entries : entriesLeft before.link s.link = true
      ↔ (∃ e ∈ before.link.queue, e.id ∉ s.link.queue.map Entry.id)
        ∨ ∃ e, before.link.overflow = some e ∧ s.link.overflow.map Entry.id ≠ some e.id := by
    cases h : before.link.overflow <;> simp [entriesLeft, h, Option.any]
  simp only [drainTested, Bool.or_eq_true, lanes, entries, Bool.and_eq_true, Bool.not_eq_true', or_assoc]

/-- A change of an input acts on the part at its new levels; `Effects` judges it from the state before. -/
theorem effects_of_levels {c : Instr} {s m : State} {pins : Pins} {f : State → State}
    (h : exec c s = .next (State.acted { s with pins := pins } f)) (live : pins.reset = false)
    (e : f { s with pins := pins } = m) : Effects c s m := by
  refine ⟨settle s m, ?_, rfl, settle_closed _ _⟩
  rw [Completes, h, ← e, State.acted, if_neg (by simpa using live)]
  rfl

/-- Settles O60: every command but the ones named acts and closes its step, and the test by its two conditions. -/
theorem drainedReport : Obligations.DrainedReport := by
  refine ⟨fun c s live => ⟨?_, fun hc hw hp hl => ?_⟩, fun before s => ⟨fun h => testDrained_of_not ?_, fun draining lanes q e o moment => ?_⟩⟩
  · have running : s.pins.reset = false := live
    rintro (h | ⟨o, v, mem, rfl⟩ | ⟨p, rfl | rfl⟩ | ⟨l, rfl⟩)
    · simp at h
      rcases h with rfl | rfl
      · exact ⟨_, rfl, rfl, rfl, rfl⟩
      · exact ⟨s, by simp [Completes, exec, execResetReleased, running], rfl, rfl, rfl⟩
    all_goals exact ⟨_, rfl, rfl, rfl, rfl⟩
  · have closes : ∀ {m}, Effects c s m →
        ∃ m t : State, Completes c s t ∧ t = (m.modLink Link.choose).testDrained s ∧ ClosedFrom m t ∧ t.testDrained s = t :=
      fun ⟨t, completes, settled, closed⟩ => ⟨_, t, completes, settled, closed, by rw [settled]; exact testDrained_idem _ s⟩
    cases c
    case requestKick => exact closes (effects_of_stores rfl live rfl)
    case reportKick => exact closes (effects_of_stores rfl live rfl)
    case causeWrite => exact closes (effects_of_stores rfl live rfl)
    case maskWrite => exact closes (effects_of_stores rfl live rfl)
    case otherRegisterWrite o v mem => exact absurd rfl (hw o v mem)
    case paperLowReleased p => exact absurd rfl (hp p).1
    case printerByteGapTimeout p => exact absurd rfl (hp p).2
    case terminalByteGapTimeout l => exact absurd rfl (hl l)
    case supplyWarningReleased => simp at hc
    case resetReleased => simp at hc
    case resetAsserted => simp at hc
    case houseClockAdvance => simp at hc
    case supplyWarningAsserted => exact closes (effects_of_levels rfl live rfl)
    case faultLineAsserted => exact closes (effects_of_levels rfl live rfl)
    case faultLineReleased => exact closes (effects_of_levels rfl live rfl)
    case paperLowAsserted => exact closes (effects_of_levels rfl live rfl)
    all_goals exact closes (effects_of_eq rfl live rfl)
  · rintro ⟨draining, tested, holds⟩
    obtain ⟨lanes, queue, entry, overflow⟩ := drainedHolds_iff.mp holds
    rcases h with h | ⟨l, hl, h⟩ | h | h | h | ⟨states, ids, slots, lock⟩
    · exact h draining
    · exact h (lanes l hl)
    · exact h queue
    · exact h entry
    · exact h overflow
    rcases drainTested_iff.mp tested with ⟨l, moved⟩ | ⟨e, mem, left⟩ | ⟨e, was, left⟩ | ⟨was, now⟩
    · exact moved (states l).symm
    · exact left (ids ▸ List.mem_map_of_mem mem)
    · exact left (by rw [← slots, was, Option.map_some])
    · simp [was, now] at lock
  · refine if_pos ⟨draining, drainTested_iff.mpr ?_, drainedHolds_iff.mpr ⟨lanes, q, e, o⟩⟩
    rcases moment with ⟨l, h⟩ | h | h | h
    · exact .inl ⟨l, h.symm⟩
    · obtain ⟨x, xs, hx⟩ := List.exists_cons_of_ne_nil h
      exact .inr (.inl ⟨x, by simp [hx], by simp [q]⟩)
    · obtain ⟨x, hx⟩ := Option.ne_none_iff_exists'.mp h
      exact .inr (.inr (.inl ⟨x, hx, by simp [o]⟩))
    · exact .inr (.inr (.inr h))

end Sys2Proof.Proofs.Closing
end

section
/-! PROOFS: rules about the transmit queue. What an offer, an eviction, a removal and a freed place leave of the rest of the
state, and what they are while the queue has room. -/

namespace Sys2Proof.Proofs.LinkRules

open Sys2Proof Sys2Proof.Machine Sys2Proof.Proofs.Requests Sys2Proof.Proofs.Words

/-! ### Seats after a change of screenings -/

/-- A change of a screening's census leaves every seat. -/
theorem seat_modScreening (s : State) (code : Nat) (f : Screening → Screening) (codes : ∀ x, (f x).code = x.code)
    (seats : ∀ x, (f x).seats = x.seats) (c : Nat) (r : SeatRef) : (s.modScreening code f).seat c r = s.seat c r := by
  have found : (s.modScreening code f).screening c = (s.screening c).map fun x => if x.code = code then f x else x :=
    findScreening_map c _ (fun x => by split <;> simp [codes]) s.slots
  rw [State.seat, found, State.seat]
  cases s.screening c with
  | none => rfl
  | some x =>
    simp only [Option.map_some, Option.bind_some, Screening.seat]
    split <;> simp [seats]

/-- A seat after the seats of a list have changed. -/
theorem seat_mapSeats (s : State) (code : Nat) (seats : List SeatRef) (f : SeatState → SeatState) (c : Nat) (r : SeatRef) :
    (s.mapSeats code seats f).seat c r = (s.seat c r).map fun st => if c = code ∧ r ∈ seats then f st else st := by
  have become := State.seatsBecome_mapSeats s code seats f
  by_cases h : c = code
  · subst h
    simp [become.seats]
  · rw [become.others c r h]
    simp [h]

/-! ### How a word's end changes the state -/

/-- The end of a word changes the lane's block and the Ring Interface alone. -/
theorem endWord_shape (s : State) (l : LaneIx) (e : WordEnd) :
    ∃ blk io, s.endWord l e = { s.modLane l fun x => { x with block := blk } with io := io } := by
  have same : s = { s.modLane l fun x => { x with block := (s.lane l).block } with io := s.io } :=
    (modLane_self (f := fun x => { x with block := (s.lane l).block }) rfl).symm
  unfold State.endWord
  split
  · exact ⟨_, _, same⟩
  · split
    · exact ⟨_, _, same⟩
    · split
      · split
        · exact ⟨_, _, rfl⟩
        · exact ⟨_, _, rfl⟩
      · exact ⟨_, _, rfl⟩

/-! ### What a turn of the transmit queue leaves -/

/-- A PICK runs on the lane and waits for its claim. -/
def PickRuns (s : State) (l : LaneIx) : Prop := ∃ a es, s.runningWord l = some (.pick a es, .taken)

/-- What entries that enter, leave or are lost leave of everything but the link, the Ring Interface and the censuses: the orders
and their timers stand, a QUEUED claim whose HOLD is lost ends with its PICK and its seats FREE, and every other claim, block
and seat is as it was. -/
structure LinkTurn (s t : State) : Prop where
  house : t.house = s.house
  vouchers : t.vouchers = s.vouchers
  printing : t.printing = s.printing
  pins : t.pins = s.pins
  order : ∀ l, (t.lane l).order = (s.lane l).order
  attendance : ∀ l, (t.lane l).attendance = (s.lane l).attendance
  renewal : ∀ l, (t.lane l).renewal = (s.lane l).renewal
  sale : ∀ l, (t.lane l).sale = (s.lane l).sale
  term : ∀ l, (t.lane l).term = (s.lane l).term
  claim : ∀ l, (t.lane l).claim = (s.lane l).claim ∨ (s.lane l).claim.state = .queued ∧ (t.lane l).claim = Claim.blank
  block : ∀ l, ¬ PickRuns s l → (t.lane l).block = (s.lane l).block
  seats : ∀ c r st, s.seat c r = some st → (∀ l, st ≠ .claiming l) → t.seat c r = some st
  claiming : ∀ c r l, s.seat c r = some (.claiming l) → t.seat c r = some (.claiming l) ∨ t.seat c r = some .free

theorem pickRuns_congr {s t : State} {l : LaneIx} (h : (t.lane l).block = (s.lane l).block) : PickRuns t l ↔ PickRuns s l := by
  simp only [PickRuns, State.runningWord, h]

/-- Nothing but the link and the Ring Interface has changed. -/
theorem LinkTurn.of_link (s : State) (k : Link) (io : Io) : LinkTurn s { s with link := k, io := io } :=
  ⟨rfl, rfl, rfl, rfl, fun _ => rfl, fun _ => rfl, fun _ => rfl, fun _ => rfl, fun _ => rfl, fun _ => .inl rfl, fun _ _ => rfl,
    fun _ _ _ h _ => h, fun _ _ _ h => .inl h⟩

theorem LinkTurn.refl (s : State) : LinkTurn s s := .of_link s s.link s.io

theorem LinkTurn.trans {s t u : State} (h : LinkTurn s t) (k : LinkTurn t u) : LinkTurn s u where
  house := k.house.trans h.house
  vouchers := k.vouchers.trans h.vouchers
  printing := k.printing.trans h.printing
  pins := k.pins.trans h.pins
  order l := (k.order l).trans (h.order l)
  attendance l := (k.attendance l).trans (h.attendance l)
  renewal l := (k.renewal l).trans (h.renewal l)
  sale l := (k.sale l).trans (h.sale l)
  term l := (k.term l).trans (h.term l)
  claim l := by
    rcases h.claim l with h1 | ⟨h1, h2⟩
    · rw [← h1]
      exact k.claim l
    · rcases k.claim l with k1 | ⟨k1, k2⟩
      · exact .inr ⟨h1, k1.trans h2⟩
      · exact .inr ⟨h1, k2⟩
  block l none := (k.block l ((pickRuns_congr (h.block l none)).not.mpr none)).trans (h.block l none)
  seats c r st hs no := k.seats c r st (h.seats c r st hs no) no
  claiming c r l hs := (h.claiming c r l hs).elim (k.claiming c r l) fun free => .inr (k.seats c r _ free (by simp))

/-- Of a lane only the block of a PICK that runs, and a QUEUED claim record that is cleared, have changed. -/
theorem LinkTurn.of_lane (s : State) (l : LaneIx) (blk : Option Block) (c : Claim) (io : Io)
    (claim : c = (s.lane l).claim ∨ (s.lane l).claim.state = .queued ∧ c = Claim.blank)
    (block : ¬ PickRuns s l → blk = (s.lane l).block) :
    LinkTurn s { s.modLane l fun x => { x with block := blk, claim := c } with io := io } := by
  have other {k : LaneIx} (hk : k ≠ l) : (s.modLane l fun x => { x with block := blk, claim := c }).lane k = s.lane k :=
    lane_modLane_other hk _
  have same : (s.modLane l fun x => { x with block := blk, claim := c }).lane l = { s.lane l with block := blk, claim := c } :=
    State.lane_modLane_same s l _
  have field {β : Type} (p : Lane → β) (h : p { s.lane l with block := blk, claim := c } = p (s.lane l)) (k : LaneIx) :
      p ((s.modLane l fun x => { x with block := blk, claim := c }).lane k) = p (s.lane k) := by
    by_cases hk : k = l
    · rw [hk, same, h]
    · rw [other hk]
  refine ⟨rfl, rfl, rfl, rfl, field Lane.order rfl, field Lane.attendance rfl, field Lane.renewal rfl, field Lane.sale rfl,
    field Lane.term rfl, fun k => ?_, fun k none => ?_, fun _ _ _ h _ => h, fun _ _ _ h => .inl h⟩
  · by_cases hk : k = l
    · subst hk
      exact claim.imp (congrArg Lane.claim same).trans fun h => ⟨h.1, (congrArg Lane.claim same).trans h.2⟩
    · exact .inl (congrArg Lane.claim (other hk))
  · by_cases hk : k = l
    · subst hk
      exact (congrArg Lane.block same).trans (block none)
    · exact congrArg Lane.block (other hk)

/-- A change of the seats that touches CLAIMING seats alone, and makes them FREE or keeps them. -/
theorem LinkTurn.mapSeats (s : State) (code : Nat) (seats : List SeatRef) (f : SeatState → SeatState)
    (others : ∀ st, (∀ l, st ≠ .claiming l) → f st = st) (claiming : ∀ l, f (.claiming l) = .claiming l ∨ f (.claiming l) = .free) :
    LinkTurn s (s.mapSeats code seats f) where
  house := rfl
  vouchers := rfl
  printing := rfl
  pins := rfl
  order _ := rfl
  attendance _ := rfl
  renewal _ := rfl
  sale _ := rfl
  term _ := rfl
  claim _ := .inl rfl
  block _ _ := rfl
  seats c r st hs no := by rw [seat_mapSeats, hs, Option.map_some, others st no, ite_self]
  claiming c r l hs := by
    rw [seat_mapSeats, hs, Option.map_some]
    split
    · simpa using claiming l
    · exact .inl rfl

theorem freeClaim_turn (s : State) (l : LaneIx) : LinkTurn s (s.freeClaim l) := by
  refine .mapSeats s _ _ _ (fun st no => if_neg (by simp [SeatState.claimedBy, no])) fun k => ?_
  by_cases h : k = l
  · exact .inr (by simp [SeatState.claimedBy, h])
  · exact .inl (by simp [SeatState.claimedBy, h])

/-- The end of a PICK that waits for its claim. -/
theorem endPick_turn (s : State) (l : LaneIx) (e : WordEnd) : LinkTurn s (s.endPick l e) := by
  unfold State.endPick
  split
  case h_2 => exact .refl s
  case h_1 a es runs =>
    obtain ⟨blk, io, h⟩ := endWord_shape s l e
    rw [h]
    exact .of_lane s l blk (s.lane l).claim io (.inl rfl) fun none => absurd ⟨a, es, runs⟩ none

/-- A QUEUED claim record that is cleared. -/
theorem clearClaim_turn {s : State} {l : LaneIx} (queued : (s.lane l).claim.state = .queued) : LinkTurn s (s.clearClaim l) :=
  .of_lane s l (s.lane l).block Claim.blank s.io (.inr ⟨queued, rfl⟩) fun _ => rfl

theorem claimFails_turn (s : State) (l : LaneIx) (c : Code) : LinkTurn s (s.claimFails l c) := by
  unfold State.claimFails
  split
  next queued => exact ((freeClaim_turn s l).trans (clearClaim_turn queued)).trans (endPick_turn _ l _)
  · exact .refl s

theorem modScreening_turn (s : State) (code : Nat) (f : Screening → Screening) (codes : ∀ x, (f x).code = x.code)
    (seats : ∀ x, (f x).seats = x.seats) : LinkTurn s (s.modScreening code f) :=
  ⟨rfl, rfl, rfl, rfl, fun _ => rfl, fun _ => rfl, fun _ => rfl, fun _ => rfl, fun _ => rfl, fun _ => .inl rfl, fun _ _ => rfl,
    fun c r _ h _ => (seat_modScreening s code f codes seats c r).trans h,
    fun c r _ h => .inl ((seat_modScreening s code f codes seats c r).trans h)⟩

theorem endCensus_turn (s : State) (code : Nat) : LinkTurn s (s.endCensus code) := by
  unfold State.endCensus
  split
  · exact .refl s
  · have ended := modScreening_turn s code
      (fun y => { y with phase := .idle, censusTimer := none, sync := .ready, request := none }) (fun _ => rfl) fun _ => rfl
    split
    · split
      · exact ended.trans (.of_link _ _ _)
      · exact ended
    · exact ended

theorem noticeLost_turn (s : State) (n : Notice) (l : Option LaneIx) (tag : Option Nat) : LinkTurn s (s.noticeLost n l tag) := by
  cases n with
  | hold =>
    cases l with
    | some l => exact claimFails_turn s l _
    | none => exact .refl s
  | censusCall code => exact endCensus_turn s code
  | renew =>
    show LinkTurn s (s.owe l)
    unfold State.owe
    split
    · split
      · exact .of_link s _ s.io
      · exact .refl s
    · exact .refl s
  | object => exact .of_link s s.link _
  | _ => exact .refl s

theorem modLink_turn (s : State) (f : Link → Link) : LinkTurn s (s.modLink f) := .of_link s _ s.io

theorem offer_turn (s : State) (n : Notice) (cls : Machine.Class) (l : Option LaneIx) (tag : Option Nat) :
    LinkTurn s (s.offer n cls l tag) := by
  unfold State.offer
  split
  · exact modLink_turn s _
  · exact (modLink_turn s _).trans (noticeLost_turn _ _ _ _)
  · exact modLink_turn s _
  · exact noticeLost_turn s n l tag

theorem offerRelease_turn (s : State) (l : LaneIx) (tag : Option Nat) (code : Nat) (seats : List SeatRef) :
    LinkTurn s (s.offerRelease l tag code seats) := by
  unfold State.offerRelease
  split
  · exact .refl s
  · exact offer_turn s _ _ _ _

theorem takeOwed_turn (s : State) (l : LaneIx) : LinkTurn s (s.takeOwed l) := by
  unfold State.takeOwed
  split
  · split
    · exact modLink_turn s _
    · exact (modLink_turn s _).trans (modLink_turn _ _)
  · exact .refl s

theorem placeFreed_turn (s : State) : LinkTurn s s.placeFreed := by
  have owed : ∀ (ls : List LaneIx) (u : State), LinkTurn u (ls.foldl State.takeOwed u) := by
    intro ls
    induction ls with
    | nil => exact fun u => .refl u
    | cons l ls ih => exact fun u => (takeOwed_turn u l).trans (ih _)
  exact (modLink_turn s Link.takeOverflow).trans (owed laneOrder (s.modLink Link.takeOverflow))

theorem removeEntry_turn (s : State) (id : Nat) : LinkTurn s (s.removeEntry id) := by
  unfold State.removeEntry
  split
  · exact modLink_turn s _
  · split
    · exact (modLink_turn s _).trans (placeFreed_turn _)
    · exact .refl s

theorem offerRenew_turn (s : State) (l : LaneIx) (cls : Machine.Class) : LinkTurn s (s.offerRenew l cls) := by
  unfold State.offerRenew
  dsimp only
  split
  · split
    · exact removeEntry_turn s _
    · exact (modLink_turn s _).trans (modLink_turn _ _)
  · split
    · exact .refl s
    · exact (modLink_turn s _).trans (offer_turn _ _ _ _ _)

/-! ### Room in the queue -/

/-- The link is ACTIVE or DEGRADED, and its queue has room for `n` more entries. -/
def HasRoom (n : Nat) (k : Link) : Prop := (k.state = .active ∨ k.state = .degraded) ∧ k.queue.length + n ≤ 32

theorem HasRoom.mono {n m : Nat} {k : Link} (h : HasRoom n k) (le : m ≤ n) : HasRoom m k := ⟨h.1, by have := h.2; omega⟩

theorem QueueOpen.hasRoom {k : Link} (h : QueueOpen k) : HasRoom 9 k := ⟨h.1, by have := h.2; omega⟩

theorem admission_room {n : Nat} {k : Link} (h : HasRoom (n + 1) k) {cls : Machine.Class} (free : cls.threshold = false) :
    k.admission cls = .admitted := by
  have below : k.queue.length < Config.queueSize := by have := h.2; show _ < 32; omega
  rcases h.1 with state | state <;> simp [Link.admission, state, Link.room, free, below]

/-- A class that may take every place of the queue enters while there is one (R35). -/
theorem offer_room {n : Nat} {s : State} (h : HasRoom (n + 1) s.link) (m : Notice) {cls : Machine.Class} (free : cls.threshold = false)
    (l : Option LaneIx) (tag : Option Nat) : s.offer m cls l tag = s.modLink fun k => k.withEntry m cls l tag := by
  simp only [State.offer, admission_room h free]
  rfl

theorem HasRoom.withEntry {n : Nat} {k : Link} (h : HasRoom (n + 1) k) (m : Notice) (cls : Machine.Class) (l : Option LaneIx)
    (tag : Option Nat) : HasRoom n (k.withEntry m cls l tag) :=
  ⟨h.1, by have := h.2; simp only [Link.withEntry, List.length_append, List.length_singleton]; omega⟩

/-- A queue with room for any class admits a HOLD, a CENSUS-CALL and a CENSUS-REPLY too (R35). -/
theorem offer_open {s : State} (h : QueueOpen s.link) (m : Notice) (cls : Machine.Class) (l : Option LaneIx) (tag : Option Nat) :
    s.offer m cls l tag = s.modLink fun k => k.withEntry m cls l tag := by
  have below : s.link.queue.length < Config.thresholdSize := h.2
  have more : s.link.queue.length < Config.queueSize := by show _ < 32; have := h.2; omega
  have admitted : s.link.admission cls = .admitted := by
    rcases h.1 with state | state <;> simp [Link.admission, state, Link.room, below, more]
  simp only [State.offer, admitted]
  rfl

/-! ### Places freed -/

theorem takeOwed_shape (s : State) (l : LaneIx) : ∃ k, s.takeOwed l = { s with link := k }
    ∧ ∀ n, HasRoom (n + 1) s.link → HasRoom n k := by
  unfold State.takeOwed
  split
  · split
    · exact ⟨_, rfl, fun n h => h.mono (by omega)⟩
    · exact ⟨_, rfl, fun n h => h.withEntry _ _ _ _⟩
  · exact ⟨s.link, rfl, fun n h => h.mono (by omega)⟩

/-- A freed place changes nothing but the link, and fills at most five places. -/
theorem placeFreed_shape (s : State) : ∃ k, s.placeFreed = { s with link := k } ∧ ∀ n, HasRoom (n + 5) s.link → HasRoom n k := by
  have owed : ∀ (ls : List LaneIx) (u : State), ∃ k, ls.foldl State.takeOwed u = { u with link := k }
      ∧ ∀ n, HasRoom (n + ls.length) u.link → HasRoom n k := by
    intro ls
    induction ls with
    | nil => exact fun u => ⟨u.link, rfl, fun n h => h⟩
    | cons l ls ih =>
      intro u
      obtain ⟨k, hk, room⟩ := takeOwed_shape u l
      obtain ⟨k', hk', room'⟩ := ih (u.takeOwed l)
      refine ⟨k', ?_, fun n h => room' n ?_⟩
      · rw [List.foldl_cons, hk', hk]
      · rw [hk]
        exact room _ h
  obtain ⟨k, hk, room⟩ := owed laneOrder (s.modLink Link.takeOverflow)
  refine ⟨k, hk, fun n h => room n ?_⟩
  show HasRoom (n + 4) s.link.takeOverflow
  unfold Link.takeOverflow
  split
  · split
    · exact ⟨h.1, by have := h.2; simp only [List.length_append, List.length_singleton]; omega⟩
    · exact h.mono (by omega)
  · exact h.mono (by omega)

theorem removeEntry_shape (s : State) (id : Nat) : ∃ k, s.removeEntry id = { s with link := k }
    ∧ ∀ n, HasRoom (n + 5) s.link → HasRoom n k := by
  unfold State.removeEntry
  split
  · exact ⟨_, rfl, fun n h => ⟨h.1, by
      have := h.2
      show (List.map _ s.link.queue).length + n ≤ 32
      rw [List.length_map]
      omega⟩⟩
  · split
    · obtain ⟨k, hk, room⟩ := placeFreed_shape (s.modLink fun k => if k.inContention id then (k.drop id).idle else k.drop id)
      refine ⟨k, hk, fun n h => room n ⟨?_, ?_⟩⟩
      · simp only [State.modLink]
        split <;> exact h.1
      · have := h.2
        have shorter := List.length_filter_le (fun e : Entry => decide (e.id ≠ id)) s.link.queue
        simp only [State.modLink]
        split
        all_goals
          show (List.filter _ s.link.queue).length + (n + 5) ≤ 32
          omega
    · exact ⟨s.link, rfl, fun n h => h.mono (by omega)⟩

/-- With nothing owed and no SALE in the overflow slot a freed place stays free (R37, R39). -/
theorem placeFreed_nothingOwed {s : State} (h : NothingOwed s.link) : s.placeFreed = s := by
  have owed : ∀ ls : List LaneIx, ls.foldl State.takeOwed s = s := by
    intro ls
    induction ls with
    | nil => rfl
    | cons l ls ih => rwa [List.foldl_cons, State.takeOwed, h.2 l, if_neg (by simp)]
  have none : s.modLink Link.takeOverflow = s := by
    simp only [State.modLink, Link.takeOverflow, h.1]
  rw [State.placeFreed, none]
  exact owed laneOrder

/-- An entry off the pair leaves at its owner's request, and with nothing owed nothing enters (R31). -/
theorem removeEntry_without {s : State} {e : Entry} (owed : NothingOwed s.link) (off : s.link.onPair e.id = false)
    (queued : e ∈ s.link.queue) : s.removeEntry e.id = s.modLink fun k => k.without e.id := by
  have found : (s.link.queue.any fun x => x.id = e.id) = true := List.any_eq_true.mpr ⟨e, queued, by simp⟩
  have shape : (if s.link.inContention e.id = true then (s.link.drop e.id).idle else s.link.drop e.id) = s.link.without e.id := by
    by_cases h : s.link.contention.entry = some e.id
    · rw [if_pos (by simpa [Link.inContention] using h)]
      simp [Link.without, h, Link.drop, Link.idle, Link.modQueue]
    · rw [if_neg (by simpa [Link.inContention] using h)]
      simp [Link.without, h, Link.drop, Link.modQueue]
  rw [State.removeEntry, if_neg (by simp [off]), if_pos found]
  have after : (s.modLink fun k => if k.inContention e.id = true then (k.drop e.id).idle else k.drop e.id)
      = s.modLink fun k => k.without e.id := by
    simp only [State.modLink, shape]
  rw [after]
  exact placeFreed_nothingOwed owed

end Sys2Proof.Proofs.LinkRules
end

section
/-! PROOFS of O40 and O41: peer notices on seats that this station does not hold. -/

namespace Sys2Proof.Proofs.Received

open Sys2Proof Sys2Proof.Machine Sys2Proof.Proofs.Inputs Sys2Proof.Proofs.Requests Sys2Proof.Proofs.Words Sys2Proof.Proofs.LinkRules

/-! ### A notice that is kept -/

theorem exec_notice {c : Instr} {sender : Nat} {n : Notice} (h : Instr.notice c = some (sender, n)) (s : State) :
    exec c s = .next (s.acted (State.receive sender (some n))) := by
  cases c <;> cases h <;> rfl

theorem deaf_iff {k : Link} : k.deaf = true ↔ k.state = .off ∨ k.contention.phase = .sending ∨ k.contention.phase = .jamming := by
  simp [Link.deaf, or_assoc]

theorem Hears.not_deaf {s : State} {sender : Nat} (h : Hears s sender) : s.link.deaf = false := by
  rw [Bool.eq_false_iff, ne_eq, deaf_iff]
  rintro (off | sending | jamming)
  · exact h.on off
  · exact h.sending sending
  · exact h.jamming jamming

/-- A good notice of another station meets the receive filter (R32, R34). -/
theorem receive_kept {s : State} {sender : Nat} {n : Notice} (hears : Hears s sender) (ok : n.ok = true) :
    s.receive sender (some n) = s.keep sender n := by
  have range : stationOk sender = true := by simp [stationOk, hears.range.1, hears.range.2]
  simp [State.receive, Hears.not_deaf hears, range, hears.other, Option.filter, ok]

theorem effects_kept {c : Instr} {s m : State} {sender : Nat} {n : Notice} (h : Instr.notice c = some (sender, n)) (live : Live s)
    (hears : Hears s sender) (ok : n.ok = true) (e : s.keep sender n = m) : Effects c s m :=
  effects_of_eq (exec_notice h s) live ((receive_kept hears ok).trans e)

theorem isLoaded_of_ne {s : State} {code : Nat} (h : s.screening code ≠ none) : s.isLoaded code = true :=
  Option.isSome_iff_ne_none.mpr h

theorem foldl_lanes_self {s : State} {f : State → LaneIx → State} (h : ∀ l, f s l = s) : laneOrder.foldl f s = s := by
  simp [laneOrder, h]

/-! ### Seats that this station does not hold -/

theorem seatHeld_iff {s : State} {code : Nat} {l : LaneIx} {r : SeatRef} :
    s.seatHeld code l r = true ↔ s.seat code r = some (.held l) := by
  unfold State.seatHeld
  cases s.seat code r <;> simp [SeatState.heldBy]

theorem seatClaimed_iff {s : State} {code : Nat} {l : LaneIx} {r : SeatRef} :
    s.seatClaimed code l r = true ↔ s.seat code r = some (.claiming l) := by
  unfold State.seatClaimed
  cases s.seat code r <;> simp [SeatState.claimedBy]

section NoLocal

variable {s : State} {code : Nat} {seats : List SeatRef}

theorem heldSeats_none (h : NoLocalSeat s code seats) (l : LaneIx) : s.heldSeats l code seats = [] :=
  List.filter_eq_nil_iff.mpr fun r hr held => (h r hr l).2 (seatHeld_iff.mp held)

theorem claimHit_none (h : NoLocalSeat s code seats) (l : LaneIx) (st : ClaimState) : s.claimHit l st code seats = false := by
  rw [Bool.eq_false_iff]
  intro hit
  simp only [State.claimHit, Bool.and_eq_true, decide_eq_true_eq, Bool.not_eq_true', List.isEmpty_eq_false_iff_exists_mem] at hit
  obtain ⟨⟨-, rfl⟩, r, hr⟩ := hit
  obtain ⟨-, named⟩ := List.mem_filter.mp hr
  obtain ⟨named, claimed⟩ := Bool.and_eq_true_iff.mp named
  exact (h r (by simpa using named) l).1 (seatClaimed_iff.mp claimed)

theorem standingSeats_none (h : NoLocalSeat s code seats) (l : LaneIx) : s.standingSeats l code seats = [] := by
  refine List.filter_eq_nil_iff.mpr fun r hr standing => ?_
  rcases Bool.or_eq_true_iff.mp standing with held | claimed
  · exact (h r hr l).2 (seatHeld_iff.mp held)
  · exact (h r hr l).1 (seatClaimed_iff.mp (Bool.and_eq_true_iff.mp claimed).2)

theorem localSeats_none (h : NoLocalSeat s code seats) (l : LaneIx) : s.localSeats l code seats = [] := by
  refine List.filter_eq_nil_iff.mpr fun r hr mine => ?_
  rcases Bool.or_eq_true_iff.mp mine with held | claimed
  · exact (h r hr l).2 (seatHeld_iff.mp held)
  · exact (h r hr l).1 (seatClaimed_iff.mp claimed)

theorem takeHeld_none (h : NoLocalSeat s code seats) (l : LaneIx) (dest : SeatState) (lost double : ReportQual) :
    s.takeHeld l code seats dest lost double = s := by
  simp [State.takeHeld, heldSeats_none h]

theorem holdAgainst_none (h : NoLocalSeat s code seats) (sender life : Nat) (l : LaneIx) :
    s.holdAgainst sender code life seats l = s := by
  simp [State.holdAgainst, claimHit_none h, standingSeats_none h]

theorem objectAgainst_none (h : NoLocalSeat s code seats) (sender claimant : Nat) (l : LaneIx) :
    s.objectAgainst sender code claimant seats l = s := by
  simp [State.objectAgainst, claimHit_none h, standingSeats_none h, takeHeld_none h, State.conflict]

theorem divergence_none (h : NoLocalSeat s code seats) (l : LaneIx) : s.divergence code seats l = s := by
  simp [State.divergence, localSeats_none h]

theorem printedSeats_none (h : NoPrintingSeat s seats) (l : LaneIx) : s.printedSeats l code seats = [] := by
  unfold State.printedSeats
  dsimp only
  split
  next printing =>
    refine List.filter_eq_nil_iff.mpr fun r hr sold => ?_
    obtain ⟨live, -⟩ := Bool.and_eq_true_iff.mp sold
    obtain ⟨v, hv, rfl⟩ := List.mem_map.mp (List.elem_iff.mp live)
    exact h l printing.1 v (List.mem_filter.mp hv).1 hr
  · rfl

theorem saleAgainst_none (h : NoLocalSeat s code seats) (p : NoPrintingSeat s seats) (sender : Nat) (l : LaneIx) :
    s.saleAgainst sender code seats l = s := by
  simp [State.saleAgainst, State.saleMeetsOrder, claimHit_none h, heldSeats_none h, printedSeats_none p, takeHeld_none h,
    State.conflict]

end NoLocal

theorem seatsBecome_of_mapSeats {s : State} {code : Nat} {seats : List SeatRef} {f g : SeatState → SeatState}
    (h : ∀ st, f st = g st) : SeatsBecome s (s.mapSeats code seats f) code seats g :=
  funext h ▸ State.seatsBecome_mapSeats s code seats f

/-- Settles O41: no lane meets the notice, and its seats take what it gives them. -/
theorem peerHolds : Obligations.PeerHolds := by
  intro s sender code life owner seats live hears found clear
  have loaded := isLoaded_of_ne found
  refine ⟨?_, fun claimant ok => ?_, fun ok => ⟨fun own => ?_, fun other => ?_⟩, fun ok => ?_⟩
  · have effect : s.hold sender code life seats = s.mapSeats code seats (SeatState.hold sender (s.house.clock + life)) := by
      rw [State.hold, foldl_lanes_self fun l => holdAgainst_none clear sender life l]
    rintro c (rfl | rfl) ok
    · exact ⟨_, effects_kept rfl live hears ok ((if_pos loaded).trans effect),
        seatsBecome_of_mapSeats fun st => by cases st <;> rfl⟩
    · exact ⟨_, effects_kept rfl live hears ok ((if_pos loaded).trans effect),
        seatsBecome_of_mapSeats fun st => by cases st <;> rfl⟩
  · have effect : s.object sender code claimant seats
        = s.mapSeats code seats (SeatState.object sender (s.house.clock + s.cfg.holdLifetime)) := by
      rw [State.object, foldl_lanes_self fun l => objectAgainst_none clear sender claimant l]
    exact ⟨_, effects_kept rfl live hears ok ((if_pos loaded).trans effect),
      seatsBecome_of_mapSeats fun st => by cases st <;> rfl⟩
  · exact effects_kept rfl live hears ok ((if_pos loaded).trans (if_pos own))
  · have effect : s.censusReply code .held owner life seats
        = s.mapSeats code seats (SeatState.censusHeld owner s.house.clock life) := by
      refine (if_neg other).trans ?_
      rw [foldl_lanes_self fun l => divergence_none clear l]
    exact ⟨_, effects_kept rfl live hears ok ((if_pos loaded).trans effect),
      seatsBecome_of_mapSeats fun st => by cases st <;> rfl⟩
  · have effect : s.censusReply code .sold owner life seats = s.mapSeats code seats (SeatState.sale owner) := by
      rw [State.censusReply, foldl_lanes_self fun l => divergence_none clear l]
    exact ⟨_, effects_kept rfl live hears ok ((if_pos loaded).trans effect),
      seatsBecome_of_mapSeats fun st => by cases st <;> rfl⟩

/-! ### Seats under a SALE, whatever else it meets -/

/-- A seat that is neither CLAIMING nor HELD here. -/
def NotOwn (st : SeatState) : Prop := ∀ l, st ≠ .claiming l ∧ st ≠ .held l

/-- Every seat that this station does not hold is as it was. -/
def PeerSeatsKept (s t : State) : Prop := ∀ c r st, s.seat c r = some st → NotOwn st → t.seat c r = some st

theorem PeerSeatsKept.refl (s : State) : PeerSeatsKept s s := fun _ _ _ h _ => h

theorem PeerSeatsKept.trans {s t u : State} (h : PeerSeatsKept s t) (k : PeerSeatsKept t u) : PeerSeatsKept s u :=
  fun c r st hs own => k c r st (h c r st hs own) own

theorem PeerSeatsKept.of_turn {s t : State} (h : LinkTurn s t) : PeerSeatsKept s t :=
  fun c r st hs own => h.seats c r st hs fun l => (own l).1

theorem PeerSeatsKept.of_slots {s t : State} (h : t.slots = s.slots) : PeerSeatsKept s t :=
  fun c r _ hs _ => (seat_congr h c r).trans hs

theorem PeerSeatsKept.mapSeats (s : State) (code : Nat) (seats : List SeatRef) {f : SeatState → SeatState}
    (h : ∀ st, NotOwn st → f st = st) : PeerSeatsKept s (s.mapSeats code seats f) := fun c r st hs own => by
  rw [seat_mapSeats, hs, Option.map_some, h st own, ite_self]

theorem yieldClaim_peerSeats (s : State) (l : LaneIx) (named : List SeatRef) (dest : SeatState) :
    PeerSeatsKept s (s.yieldClaim l named dest) :=
  (PeerSeatsKept.mapSeats s _ _ fun st own => if_neg (by simp [SeatState.claimedBy, (own l).1])).trans
    (.of_turn (freeClaim_turn _ l))

theorem clearClaim_peerSeats (s : State) (l : LaneIx) : PeerSeatsKept s (s.clearClaim l) := .of_slots rfl

theorem claimLoses_peerSeats (s : State) (l : LaneIx) (named : List SeatRef) (dest : SeatState) :
    PeerSeatsKept s (s.claimLoses l named dest) := by
  have yielded := (yieldClaim_peerSeats s l named dest).trans (clearClaim_peerSeats _ l)
  unfold State.claimLoses
  dsimp only
  split
  · exact (yielded.trans (.of_turn (removeEntry_turn _ _))).trans (.of_turn (endPick_turn _ _ _))
  · exact yielded.trans (.of_turn (endPick_turn _ _ _))

theorem claimWithdrawn_peerSeats (s : State) (l : LaneIx) (named : List SeatRef) (dest : SeatState) :
    PeerSeatsKept s (s.claimWithdrawn l named dest) :=
  (((yieldClaim_peerSeats s l named dest).trans (clearClaim_peerSeats _ l)).trans (.of_turn (offerRelease_turn _ _ _ _ _))).trans
    (.of_turn (endPick_turn _ _ _))

theorem renewalShrunk_peerSeats (s : State) (l : LaneIx) : PeerSeatsKept s (s.renewalShrunk l) := by
  unfold State.renewalShrunk
  split
  · exact (PeerSeatsKept.of_slots (s := s) (t := s.modLane l _) rfl).trans
      ((PeerSeatsKept.of_turn (offerRenew_turn _ l _)).trans (.of_turn (modLink_turn _ _)))
  · split
    · exact .of_turn (offerRenew_turn s l _)
    · exact .refl s

theorem PeerSeatsKept.shrunk {s t : State} (h : t.slots = s.slots) (l : LaneIx) : PeerSeatsKept s (t.renewalShrunk l) :=
  (PeerSeatsKept.of_slots h).trans (renewalShrunk_peerSeats t l)

/-- What the loss of HELD seats does to the lines of an order, by its state (R54). -/
theorem loseLines_cases (s : State) (l : LaneIx) (lost : List SeatRef) :
    ((s.lane l).order.state = .opened ∨ (s.lane l).order.state = .quoted)
        ∧ s.loseLines l lost
          = ((s.modOrder l fun o => { o with seatLines := o.seatLines.filter fun x => !lost.contains x.seat }).linesChanged
              l).renewalShrunk l
      ∨ ((s.lane l).order.state = .paying ∨ (s.lane l).order.state = .short ∨ (s.lane l).order.state = .unwinding)
        ∧ s.loseLines l lost
          = (s.modOrder l fun o =>
              { o with
                seatLines := o.seatLines.map fun x => if lost.contains x.seat then { x with lost := true } else x }).renewalShrunk l
      ∨ ((s.lane l).order.state = .empty ∨ (s.lane l).order.state.committingOrLater = true) ∧ s.loseLines l lost = s := by
  unfold State.loseLines
  cases (s.lane l).order.state <;> simp [OrderState.committingOrLater]

theorem loseLines_peerSeats (s : State) (l : LaneIx) (lost : List SeatRef) : PeerSeatsKept s (s.loseLines l lost) := by
  rcases loseLines_cases s l lost with ⟨-, h⟩ | ⟨-, h⟩ | ⟨-, h⟩
  · rw [h]
    refine .shrunk ?_ l
    rfl
  · rw [h]
    refine .shrunk ?_ l
    rfl
  · rw [h]
    exact .refl s

theorem conflict_peerSeats (s : State) (q : ReportQual) (l : LaneIx) (code : Nat) (seats : List SeatRef) :
    PeerSeatsKept s (s.conflict q l code seats) := by
  unfold State.conflict
  split
  · exact .refl s
  · exact .of_slots rfl

theorem takeHeld_peerSeats (s : State) (l : LaneIx) (code : Nat) (seats : List SeatRef) (dest : SeatState) (lost double : ReportQual) :
    PeerSeatsKept s (s.takeHeld l code seats dest lost double) := by
  unfold State.takeHeld
  dsimp only
  split
  · exact .refl s
  · split
    · exact conflict_peerSeats s _ _ _ _
    · have moved := PeerSeatsKept.mapSeats s code (s.heldSeats l code seats) (f := fun st => if st.heldBy l then dest else st)
        fun st own => if_neg (by simp [SeatState.heldBy, (own l).2])
      unfold State.seatsTaken
      refine moved.trans (PeerSeatsKept.trans ?_ (loseLines_peerSeats _ l _))
      exact .of_slots rfl

theorem saleAgainst_peerSeats (s : State) (sender code : Nat) (seats : List SeatRef) (l : LaneIx) :
    PeerSeatsKept s (s.saleAgainst sender code seats l) := by
  have queued : PeerSeatsKept s (if s.claimHit l .queued code seats then s.claimLoses l seats (.sold sender) else s) := by
    split
    · exact claimLoses_peerSeats s l seats _
    · exact .refl s
  have contest (u : State) :
      PeerSeatsKept u (if u.claimHit l .contest code seats then u.claimWithdrawn l seats (.sold sender) else u) := by
    split
    · exact claimWithdrawn_peerSeats u l seats _
    · exact .refl u
  have order (u : State) : PeerSeatsKept u (u.saleMeetsOrder sender code seats l) := by
    unfold State.saleMeetsOrder
    split
    · exact conflict_peerSeats u _ _ _ _
    · exact takeHeld_peerSeats u l code seats _ _ _
  exact (queued.trans (contest _)).trans (order _)

/-- Settles O40: a RELEASE meets seats alone, and a SALE leaves the seats that are not this station's to its own rule. -/
theorem peerReleaseAndSale : Obligations.PeerReleaseAndSale := by
  refine ⟨fun s sender code seats live hears ok found =>
      ⟨_, effects_kept rfl live hears ok (if_pos (isLoaded_of_ne found)), seatsBecome_of_mapSeats fun st => by cases st <;> rfl⟩,
    fun s sender code seats live hears ok found => ⟨_, effects_kept rfl live hears ok (if_pos (isLoaded_of_ne found)),
      fun r hr => ?_, fun clear none => ?_⟩⟩
  · have met : PeerSeatsKept s (laneOrder.foldl (fun s l => s.saleAgainst sender code seats l) s) := by
      simp only [laneOrder, List.foldl_cons, List.foldl_nil]
      exact (((saleAgainst_peerSeats s _ _ _ _).trans (saleAgainst_peerSeats _ _ _ _ _)).trans
        (saleAgainst_peerSeats _ _ _ _ _)).trans (saleAgainst_peerSeats _ _ _ _ _)
    have sale {st : SeatState} (hs : s.seat code r = some st) (own : NotOwn st) :
        (s.peerSale sender code seats).seat code r = some (st.sale sender) := by
      rw [State.peerSale, seat_mapSeats, met code r st hs own]
      simp [hr]
    exact ⟨fun h => sale h fun l => by simp, fun o e h => sale h fun l => by simp, fun o h => sale h fun l => by simp,
      fun h => sale h fun l => by simp⟩
  · have none' : s.peerSale sender code seats = s.mapSeats code seats (SeatState.sale sender) := by
      rw [State.peerSale, foldl_lanes_self fun l => saleAgainst_none clear none sender l]
    rw [none']
    exact seatsBecome_of_mapSeats fun st => by cases st <;> rfl

end Sys2Proof.Proofs.Received
end

section
/-! PROOFS of O44: the answer to a CENSUS-CALL. -/

namespace Sys2Proof.Proofs.Census

open Sys2Proof Sys2Proof.Machine Sys2Proof.Proofs.Words Sys2Proof.Proofs.LinkRules Sys2Proof.Proofs.Received

/-! ### The answer in the queue -/

/-- Notices that enter one after another are the youngest entries, in their order. -/
theorem queue_foldl_withEntry (ns : List Notice) (cls : Machine.Class) (k : Link) :
    ∃ es : List Entry, (ns.foldl (fun k n => k.withEntry n cls none none) k).queue = k.queue ++ es
      ∧ es.map Entry.notice = ns ∧ ∀ e ∈ es, e.cls = cls ∧ e.lane = none ∧ e.tag = none := by
  induction ns generalizing k with
  | nil => exact ⟨[], by simp⟩
  | cons n ns ih =>
    obtain ⟨es, queue, notices, fields⟩ := ih (k.withEntry n cls none none)
    refine ⟨⟨k.nextId, n, cls, none, none, false, none⟩ :: es, ?_, by simp [notices], ?_⟩
    · rw [List.foldl_cons, queue]
      simp [Link.withEntry]
    · intro e he
      rcases List.mem_cons.mp he with rfl | he
      · exact ⟨rfl, rfl, rfl⟩
      · exact fields e he

/-- With room below 24 entries for every notice each of them enters. -/
theorem foldl_offer (ns : List Notice) (s : State) (state : s.link.state = .active ∨ s.link.state = .degraded)
    (room : s.link.queue.length + ns.length ≤ 24) :
    ns.foldl (fun s n => s.offer n .censusReply none none) s
      = { s with link := ns.foldl (fun k n => k.withEntry n .censusReply none none) s.link } := by
  induction ns generalizing s with
  | nil => rfl
  | cons n ns ih =>
    simp only [List.length_cons] at room
    have admitted : s.offer n .censusReply none none = s.modLink fun k => k.withEntry n .censusReply none none :=
      offer_open ⟨state, by omega⟩ n _ _ _
    have room' : (s.modLink fun k => k.withEntry n .censusReply none none).link.queue.length + ns.length ≤ 24 := by
      simp only [State.modLink, Link.withEntry, List.length_append, List.length_singleton]
      omega
    rw [List.foldl_cons, admitted, ih (s.modLink fun k => k.withEntry n .censusReply none none) state room']
    rfl

/-! ### The SOLD sections -/

theorem mem_insertNat {n m : Nat} {l : List Nat} : m ∈ insertNat n l ↔ m = n ∨ m ∈ l := by
  induction l with
  | nil => simp [insertNat]
  | cons x xs ih =>
    unfold insertNat
    split
    · simp
    · split
      next h =>
        subst h
        simp
      · simp [ih, or_left_comm]

theorem insertNat_rising {n : Nat} {l : List Nat} (h : l.Pairwise (· < ·)) : (insertNat n l).Pairwise (· < ·) := by
  induction l with
  | nil => simp [insertNat]
  | cons x xs ih =>
    obtain ⟨above, rising⟩ := List.pairwise_cons.mp h
    unfold insertNat
    split
    next lt =>
      refine List.pairwise_cons.mpr ⟨fun y hy => ?_, h⟩
      rcases List.mem_cons.mp hy with rfl | hy
      · exact lt
      · exact lt.trans (above y hy)
    next le =>
      split
      · exact h
      next ne =>
        refine List.pairwise_cons.mpr ⟨fun y hy => ?_, ih rising⟩
        rcases mem_insertNat.mp hy with rfl | hy
        · omega
        · exact above y hy

theorem soldOwner_eq_some {st : SeatState} {o : Nat} : st.soldOwner = some o ↔ st = .sold o := by
  cases st <;> simp [SeatState.soldOwner]

/-- The owners of the SOLD seats, each once and ascending. -/
theorem owners_spec (x : Screening) :
    x.owners.Pairwise (· < ·) ∧ ∀ o, o ∈ x.owners ↔ ∃ e ∈ x.seats, e.2 = .sold o := by
  have fold : ∀ (ns os : List Nat), os.Pairwise (· < ·) →
      (ns.foldl (fun os o => insertNat o os) os).Pairwise (· < ·)
        ∧ ∀ o, o ∈ ns.foldl (fun os o => insertNat o os) os ↔ o ∈ ns ∨ o ∈ os := by
    intro ns
    induction ns with
    | nil => exact fun os h => ⟨h, fun o => by simp⟩
    | cons n ns ih =>
      intro os h
      obtain ⟨rising, mem⟩ := ih (insertNat n os) (insertNat_rising h)
      refine ⟨rising, fun o => ?_⟩
      rw [List.foldl_cons, mem, mem_insertNat, List.mem_cons, or_left_comm, or_assoc]
  obtain ⟨rising, mem⟩ := fold (x.seats.filterMap fun e => e.2.soldOwner) [] .nil
  refine ⟨rising, fun o => ?_⟩
  rw [Screening.owners, mem]
  simp [soldOwner_eq_some]

theorem mem_seatRuns {n : Nat} {rs run : List SeatRef} (h : run ∈ seatRuns n rs) : 1 ≤ run.length ∧ run.length ≤ 16 := by
  induction n generalizing rs with
  | zero => simp [seatRuns] at h
  | succ n ih =>
    unfold seatRuns at h
    split at h
    · simp at h
    next some =>
      rcases List.mem_cons.mp h with rfl | h
      · have : 0 < rs.length := List.length_pos_iff.mpr (by simpa using some)
        have length : (rs.take Config.sectionSeats).length = min 16 rs.length := List.length_take ..
        omega
      · exact ih h

theorem seatRuns_flatten {n : Nat} {rs : List SeatRef} (h : rs.length ≤ n) : (seatRuns n rs).flatten = rs := by
  induction n generalizing rs with
  | zero => simpa [seatRuns, eq_comm] using h
  | succ n ih =>
    unfold seatRuns
    split
    next none => exact (List.isEmpty_iff.mp none).symm
    · have shorter : (rs.drop Config.sectionSeats).length ≤ n := by
        have : (rs.drop Config.sectionSeats).length = rs.length - 16 := List.length_drop ..
        omega
      rw [List.flatten_cons, ih shorter, List.take_append_drop]

/-- Of a list without repetition only the given member counts. -/
theorem flatMap_of_single {α β : Type} {os : List α} (nodup : os.Nodup) (o : α) (f : α → List β) (others : ∀ p ∈ os, p ≠ o → f p = [])
    (absent : o ∉ os → f o = []) : os.flatMap f = f o := by
  induction os with
  | nil => exact (absent (by simp)).symm
  | cons p ps ih =>
    obtain ⟨fresh, nodup⟩ := List.nodup_cons.mp nodup
    rw [List.flatMap_cons]
    by_cases hp : p = o
    · subst hp
      rw [List.flatMap_eq_nil_iff.mpr fun q hq => others q (List.mem_cons_of_mem p hq) fun e => fresh (e ▸ hq), List.append_nil]
    · rw [others p List.mem_cons_self hp, List.nil_append]
      exact ih nodup (fun q hq => others q (List.mem_cons_of_mem p hq)) fun no => absent (by simp [no, Ne.symm hp])

/-- The SOLD sections of one owner. -/
def ownerSections (x : Screening) (o : Nat) : List Notice :=
  (seatRuns (x.seatsWhere fun st => st.soldOwner = some o).length (x.seatsWhere fun st => st.soldOwner = some o)).map fun run =>
    .censusReply x.code .sold o 0 run

theorem soldSections_eq (x : Screening) : x.soldSections = x.owners.flatMap (ownerSections x) := rfl

theorem mem_ownerSections {x : Screening} {o : Nat} {n : Notice} (h : n ∈ ownerSections x o) :
    ∃ seats, n = .censusReply x.code .sold o 0 seats ∧ 1 ≤ seats.length ∧ seats.length ≤ 16 := by
  obtain ⟨run, hrun, rfl⟩ := List.mem_map.mp h
  exact ⟨run, rfl, mem_seatRuns hrun⟩

/-- An owner's sections name every seat SOLD to it, and no other owner's. -/
theorem ownerSections_seats (x : Screening) (p o : Nat) :
    (ownerSections x p).flatMap (soldSeatsOf o) = if p = o then (x.seats.filter fun e => e.2 = .sold o).map Prod.fst else [] := by
  rw [ownerSections, List.flatMap_map]
  by_cases h : p = o
  · subst h
    have seats : (x.seatsWhere fun st => st.soldOwner = some p) = (x.seats.filter fun e => e.2 = .sold p).map Prod.fst := by
      simp only [Screening.seatsWhere, soldOwner_eq_some]
    have runs : (fun run => soldSeatsOf p (.censusReply x.code .sold p 0 run)) = id := funext fun run => if_pos rfl
    rw [runs, if_pos rfl, seats, List.flatMap_id, seatRuns_flatten le_rfl]
  · rw [if_neg h]
    exact List.flatMap_eq_nil_iff.mpr fun run _ => if_neg h

/-- Settles O44: the offers by the room of the queue, the HELD sections lane by lane, and the SOLD sections owner by owner. -/
theorem censusAnswered : Obligations.CensusAnswered := by
  intro s sender code x found
  refine ⟨fun live hears ok state room => ⟨_, effects_kept rfl live hears ok ?_, rfl, ?_, ?_⟩, laneOrder.flatMap (s.heldSection x),
    x.soldSections, rfl, ?_, fun n hn => ?_, ?_, fun o => ?_⟩
  · show s.answerCall code = _
    rw [State.answerCall, found]
    exact foldl_offer _ s state room
  · obtain ⟨es, queue, notices, -⟩ := queue_foldl_withEntry (s.censusAnswer x) .censusReply s.link
    exact (congrArg (List.map Entry.notice) queue).trans (by rw [List.map_append, notices])
  · obtain ⟨es, queue, -, fields⟩ := queue_foldl_withEntry (s.censusAnswer x) .censusReply s.link
    intro e he
    refine fields e ?_
    rw [show es = (s.link.queue ++ es).drop s.link.queue.length by simp, ← queue]
    exact he
  · refine congrArg (laneOrder.flatMap ·) (funext fun l => ?_)
    have none : (x.seatsWhere fun st => st.heldBy l).isEmpty = true ↔ ∀ e ∈ x.seats, e.2 ≠ .held l := by
      simp only [Screening.seatsWhere, List.isEmpty_iff, List.map_eq_nil_iff, List.filter_eq_nil_iff, SeatState.heldBy,
        decide_eq_true_eq, ne_eq]
    simp only [State.heldSection, none]
    rfl
  · obtain ⟨o, -, hn⟩ := List.mem_flatMap.mp hn
    obtain ⟨seats, rfl, sizes⟩ := mem_ownerSections hn
    exact ⟨o, seats, rfl, sizes⟩
  · rw [soldSections_eq, List.pairwise_flatMap]
    refine ⟨fun o _ => List.pairwise_of_forall_mem_list fun a ha b hb => ?_, (owners_spec x).1.imp fun {o p} lt a ha b hb => ?_⟩
    all_goals
      obtain ⟨_, rfl, -⟩ := mem_ownerSections ha
      obtain ⟨_, rfl, -⟩ := mem_ownerSections hb
      rintro o' p' u v w y ⟨⟩ ⟨⟩
      omega
  · rw [soldSections_eq, List.flatMap_assoc]
    obtain ⟨rising, mem⟩ := owners_spec x
    simp only [ownerSections_seats]
    refine (flatMap_of_single (rising.imp fun lt => ne_of_lt lt) o _ (fun p _ hp => if_neg hp) fun absent => ?_).trans (if_pos rfl)
    refine (if_pos rfl).trans ?_
    rw [List.map_eq_nil_iff, List.filter_eq_nil_iff]
    exact fun e he sold => absent ((mem o).mpr ⟨e, he, by simpa using sold⟩)

end Sys2Proof.Proofs.Census
end

section
/-! PROOFS of O48: the next notice, offers at every fill of the queue, renewals merged. -/

namespace Sys2Proof.Proofs.Queue

open Sys2Proof Sys2Proof.Machine Sys2Proof.Proofs.Inputs Sys2Proof.Proofs.Requests Sys2Proof.Proofs.Words
open Sys2Proof.Proofs.LinkRules Sys2Proof.Proofs.Invariants

/-! ### A fold that keeps one entry -/

section Pick

variable {α : Type} {P : α → α → Prop} [DecidableRel P] {f : Option α → α → Option α}

/-- A fold that replaces what it keeps where `P` says so keeps something once it has met an element. -/
theorem foldl_pick_isSome (start : ∀ x, f none x = some x) (step : ∀ b x, f (some b) x = if P b x then some x else some b)
    {xs : List α} (h : xs ≠ []) : (xs.foldl f none).isSome = true := by
  have kept : ∀ (ys : List α) (b : α), (ys.foldl f (some b)).isSome = true := by
    intro ys
    induction ys with
    | nil => exact fun _ => rfl
    | cons y ys ih =>
      intro b
      rw [List.foldl_cons, step]
      split
      · exact ih y
      · exact ih b
  obtain ⟨x, xs, rfl⟩ := List.exists_cons_of_ne_nil h
  rw [List.foldl_cons, start]
  exact kept xs x

/-- It keeps the element that replaces every one before it and is replaced by none after it. -/
theorem foldl_pick (start : ∀ x, f none x = some x) (step : ∀ b x, f (some b) x = if P b x then some x else some b)
    {older newer : List α} {e : α} (before : ∀ x ∈ older, P x e) (after : ∀ x ∈ newer, ¬ P e x) :
    (older ++ e :: newer).foldl f none = some e := by
  have inside : ∀ (ys : List α) (b : α), ∃ c, (c = b ∨ c ∈ ys) ∧ ys.foldl f (some b) = some c := by
    intro ys
    induction ys with
    | nil => exact fun b => ⟨b, .inl rfl, rfl⟩
    | cons y ys ih =>
      intro b
      rw [List.foldl_cons, step]
      split
      · obtain ⟨c, hc, e⟩ := ih y
        exact ⟨c, .inr (by simpa using hc), e⟩
      · obtain ⟨c, hc, e⟩ := ih b
        exact ⟨c, hc.imp_right (List.mem_cons_of_mem y), e⟩
  have kept : ∀ ys : List α, (∀ x ∈ ys, ¬ P e x) → ys.foldl f (some e) = some e := by
    intro ys
    induction ys with
    | nil => exact fun _ => rfl
    | cons y ys ih =>
      intro h
      rw [List.foldl_cons, step, if_neg (h y List.mem_cons_self)]
      exact ih fun x hx => h x (List.mem_cons_of_mem y hx)
  rw [List.foldl_append, List.foldl_cons]
  have reached : f (older.foldl f none) e = some e := by
    cases older with
    | nil => exact start e
    | cons x xs =>
      rw [List.foldl_cons, start]
      obtain ⟨c, hc, h⟩ := inside xs x
      rw [h, step, if_pos (before c (by simpa using hc))]
  rw [reached, kept newer after]

end Pick

/-! ### The next notice -/

theorem choose_of_not {k : Link} (h : ¬ (k.contention.phase = .idle ∧ (k.state = .active ∨ k.state = .degraded))) : k.choose = k :=
  if_neg h

/-- A link that sends has a notice in contention once one is queued (R24). -/
def Chosen (k : Link) : Prop := k.state = .active ∨ k.state = .degraded → k.queue ≠ [] → k.contention.phase ≠ .idle

theorem choose_chosen (k : Link) : Chosen k.choose := by
  unfold Link.choose
  split
  next h =>
    split
    next none =>
      intro _ queued
      refine absurd none (Option.isSome_iff_ne_none.mp ?_)
      exact foldl_pick_isSome (P := fun b e : Entry => e.cls.rank < b.cls.rank) (fun _ => rfl) (fun _ _ => rfl) queued
    · exact fun _ _ => by simp
  next h => exact fun state _ idle => h ⟨idle, state⟩

theorem testDrained_link (s before : State) : (s.testDrained before).link = s.link := by
  unfold State.testDrained
  split <;> rfl

theorem acted_chosen {s : State} (f : State → State) (h : Chosen s.link) : Chosen (s.acted f).link := by
  unfold State.acted
  split
  · exact h
  · rw [settle, testDrained_link]
    exact choose_chosen _

theorem takeEvents_chosen (es : List TimedEvent) {s : State} (h : Chosen s.link) : Chosen (s.takeEvents es).link := by
  induction es generalizing s with
  | nil => exact h
  | cons e es ih => exact ih (acted_chosen _ h)

theorem exec_chosen {c : Instr} {s t : State} (live : Live s) (h : Chosen s.link) (step : exec c s = .next t) : Chosen t.link := by
  obtain ⟨idle, closes⟩ := Closing.drainedReport.1 c s live
  have reads {u : State} (completes : Completes c s u) : t = u := by
    have same := step.symm.trans completes
    cases same
    rfl
  by_cases unclosed : c ∈ ([.supplyWarningReleased, .resetReleased] : List Instr) ∨ (∃ o v mem, c = .otherRegisterWrite o v mem)
      ∨ (∃ p, c = .paperLowReleased p ∨ c = .printerByteGapTimeout p) ∨ ∃ l, c = .terminalByteGapTimeout l
  · obtain ⟨u, completes, -, link, -⟩ := idle unclosed
    rw [reads completes, link]
    exact h
  · by_cases reset : c = .resetAsserted
    · subst reset
      cases step
      rintro (state | state) <;> cases state
    · by_cases advance : c = .houseClockAdvance
      · subst advance
        cases step
        split
        · exact takeEvents_chosen _ (takeEvents_chosen _ (acted_chosen _ h))
        · exact h
      · simp only [not_or, not_exists, List.mem_cons, List.not_mem_nil, or_false] at unclosed
        obtain ⟨supply, write, port, gap⟩ := unclosed
        obtain ⟨m, u, completes, rfl, -, -⟩ := closes (by simp [supply, reset, advance]) (fun o v mem => write o v mem)
          (fun p => port p) fun l => gap l
        rw [reads completes, testDrained_link]
        exact choose_chosen _

/-! ### The reset input is a level -/

theorem takeSetup_pins (t : TakenRequest) (s : State) : (s.takeSetup t).pins = s.pins := by
  unfold State.takeSetup
  split
  · rfl
  · split
    · exact (State.lookRing_keeps (State.complete_keeps (Keeps.refl s) _ _)).pins
    next r h =>
      have ports := (State.enablePorts_keeps (Keeps.refl s) r.printerCount).pins
      exact (State.flushReports_keeps (State.lookRing_keeps (useRings_keeps
        (State.complete_keeps (Keeps.refl _) _ _)))).pins.trans ports

theorem takeLoad_pins (t : TakenRequest) (s : State) : (s.takeLoad t).pins = s.pins := by
  unfold State.takeLoad
  split
  · rfl
  · split
    · rfl
    · split
      · rfl
      · split
        · exact (State.callCensus_keeps (Keeps.refl _) _).pins
        · rfl

theorem takeUnload_pins (t : TakenRequest) (s : State) : (s.takeUnload t).pins = s.pins := by
  unfold State.takeUnload
  split
  · rfl
  · split
    · rfl
    · split
      · rfl
      · split
        · rfl
        · exact (State.applyUnload_keeps s t _).pins

theorem takeResume_pins (t : TakenRequest) (s : State) : (s.takeResume t).pins = s.pins := by
  unfold State.takeResume
  split
  · rfl
  · split <;> rfl

theorem serve_pins (k : RequestKind) (f : TakenRequest → State → State) (h : ∀ t u, (f t u).pins = u.pins) (s : State) :
    (s.serve k f).pins = s.pins := by
  unfold State.serve
  split
  · rfl
  · split
    · rfl
    · exact h _ _

theorem acted_pins {s : State} {f : State → State} (h : (f s).pins = s.pins) : (s.acted f).pins = s.pins := by
  unfold State.acted
  split
  · rfl
  · exact (settle_closed s (f s)).pins.trans h

/-- No command but the one of the reset input asserts it. -/
theorem exec_live {c : Instr} {s t : State} (live : Live s) (step : exec c s = .next t) (hc : c ≠ .resetAsserted) : Live t := by
  by_cases ordinary : c.ordinary = true
  · exact (congrArg Pins.reset (exec_keeps c s t ordinary step).pins).trans live
  · have of_pins {u : State} (h : exec c s = .next u) (pins : u.pins.reset = s.pins.reset) : Live t := by
      obtain rfl : t = u := by
        have same := step.symm.trans h
        cases same
        rfl
      exact pins.trans live
    cases c <;> try exact absurd rfl ordinary
    case setup => exact of_pins rfl (congrArg Pins.reset (acted_pins (serve_pins _ _ takeSetup_pins s)))
    case loadScreening => exact of_pins rfl (congrArg Pins.reset (acted_pins (serve_pins _ _ takeLoad_pins s)))
    case unloadScreening => exact of_pins rfl (congrArg Pins.reset (acted_pins (serve_pins _ _ takeUnload_pins s)))
    case resume => exact of_pins rfl (congrArg Pins.reset (acted_pins (serve_pins _ _ takeResume_pins s)))
    case houseClockAdvance =>
      refine of_pins rfl (congrArg Pins.reset ?_)
      split
      · exact s.advance_keeps.pins.trans (acted_pins rfl)
      · rfl
    case supplyWarningAsserted =>
      refine of_pins rfl (congrArg Pins.reset (acted_pins ?_) :)
      split
      · exact (State.latchDrain_keeps (Keeps.refl _)).pins
      · rfl
    case supplyWarningReleased => exact of_pins rfl rfl
    case resetAsserted => exact absurd rfl hc
    case resetReleased =>
      refine of_pins (u := s) ?_ rfl
      simp [exec, execResetReleased, show s.pins.reset = false from live]
    case faultLineAsserted p line =>
      refine of_pins rfl (congrArg Pins.reset (acted_pins ?_) :)
      split
      · rfl
      · exact (State.faultLine_keeps (Keeps.refl _) p line).pins
    case faultLineReleased p line =>
      refine of_pins rfl (congrArg Pins.reset (acted_pins ?_) :)
      split
      · exact (State.sendProbe_keeps (Keeps.refl _) p).pins
      · rfl
    case paperLowAsserted p =>
      refine of_pins rfl (congrArg Pins.reset (acted_pins ?_) :)
      split
      · rfl
      · exact (State.paperLow_keeps (Keeps.refl _) p).pins
    case paperLowReleased p => exact of_pins rfl rfl

/-- A part released from reset has its lanes and its link as after reset. -/
theorem releaseReset_of_reset {s : State} (lanes : s.lanes = State.reset.lanes) (link : s.link = Link.reset) :
    s.releaseReset
      = { s with
          pins := { s.pins with reset := false }
          house := if s.pins.supply then { s.house with drain := .draining } else s.house } := by
  have latched := latchDrain_of_reset_lanes (s := { s with pins := { s.pins with reset := false } }) lanes link
  unfold State.releaseReset
  cases supply : s.pins.supply
  · simp [supply]
  · simpa [supply] using latched

theorem nofun_of_off {k : Link} (off : k.state = .off) : Chosen k := by
  rintro (h | h) <;> simp [off] at h

/-! ### Offers -/

theorem inContention_false_iff {k : Link} {i : Nat} : k.inContention i = false ↔ k.contention.entry ≠ some i := by
  simp [Link.inContention]

theorem evictable_iff {k : Link} {cls : Machine.Class} {x : Entry} :
    (decide (cls.rank < x.cls.rank) && decide (x.cls ≠ .sale) && !k.inContention x.id) = true ↔ Evictable k cls x := by
  simp only [Bool.and_eq_true, decide_eq_true_eq, Bool.not_eq_true', inContention_false_iff, Evictable, and_assoc]

theorem victim_eq_some {k : Link} {cls : Machine.Class} {older newer : List Entry} {v : Entry}
    (queue : k.queue = older ++ v :: newer) (evictable : Evictable k cls v)
    (before : ∀ x ∈ older, Evictable k cls x → x.cls.rank ≤ v.cls.rank)
    (after : ∀ x ∈ newer, Evictable k cls x → x.cls.rank < v.cls.rank) : k.victim cls = some v := by
  unfold Link.victim
  rw [queue, List.filter_append, List.filter_cons, if_pos (evictable_iff.mpr evictable)]
  refine foldl_pick (P := fun w e : Entry => w.cls.rank ≤ e.cls.rank) (fun _ => rfl) (fun _ _ => rfl) (fun x hx => ?_) fun x hx => ?_
  · obtain ⟨mem, may⟩ := List.mem_filter.mp hx
    exact before x mem (evictable_iff.mp may)
  · obtain ⟨mem, may⟩ := List.mem_filter.mp hx
    exact not_le.mpr (after x mem (evictable_iff.mp may))

theorem victim_eq_none {k : Link} {cls : Machine.Class} (h : ∀ x ∈ k.queue, ¬ Evictable k cls x) : k.victim cls = none := by
  unfold Link.victim
  rw [List.filter_eq_nil_iff.mpr fun x hx may => h x hx (evictable_iff.mp may)]
  rfl

theorem youngestDemand_eq_some {k : Link} {older newer : List Entry} {v : Entry} (queue : k.queue = older ++ v :: newer)
    (demand : v.cls = .renewDemand) (off : k.contention.entry ≠ some v.id)
    (after : ∀ x ∈ newer, x.cls = .renewDemand → k.contention.entry = some x.id) : k.youngestDemand = some v := by
  unfold Link.youngestDemand
  have none : newer.filter (fun e => decide (e.cls = .renewDemand) && !k.inContention e.id) = [] :=
    List.filter_eq_nil_iff.mpr fun x hx may => by
      simp only [Bool.and_eq_true, decide_eq_true_eq, Bool.not_eq_true', inContention_false_iff] at may
      exact may.2 (after x hx may.1)
  rw [queue, List.filter_append, List.filter_cons, if_pos (by simp [demand, inContention_false_iff.mpr off]), none]
  exact List.getLast?_concat

section Admission

variable {k : Link} {cls : Machine.Class}

theorem admission_sending (state : k.state = .active ∨ k.state = .degraded) : k.admission cls = k.room cls := by
  rcases state with h | h <;> simp [Link.admission, h]

theorem threshold_iff : cls.threshold = true ↔ cls ∈ ([.hold, .censusCall, .censusReply] : List Machine.Class) := by
  cases cls <;> simp [Class.threshold]

theorem room_full (free : cls.threshold = false) (full : 32 ≤ k.queue.length) {v : Entry} (h : k.victim cls = some v) :
    k.room cls = .evicting v := by
  have : ¬ k.queue.length < Config.queueSize := not_lt.mpr full
  simp [Link.room, free, this, h]

theorem room_full_none (free : cls.threshold = false) (full : 32 ≤ k.queue.length) (h : k.victim cls = none) :
    (cls ≠ .sale → k.room cls = .refused) ∧ (cls = .sale → k.overflow = none → k.room cls = .overflow)
      ∧ ∀ v, cls = .sale → k.overflow ≠ none → k.youngestDemand = some v → k.room cls = .evicting v := by
  have : ¬ k.queue.length < Config.queueSize := not_lt.mpr full
  refine ⟨fun other => ?_, fun sale none => ?_, fun v sale some demand => ?_⟩
  · simp [Link.room, free, this, h, other]
  · subst sale
    simp [Link.room, free, this, h, none]
  · subst sale
    simp [Link.room, free, this, h, some, demand]

end Admission

/-- Settles O48: the choice as a fold over the queue, an offer by the answer of the queue, and a renewal by the entry it meets. -/
theorem nextNotice : Obligations.NextNotice := by
  refine ⟨fun k => ⟨fun h => ?_, fun older e newer queue before after idle state => ?_⟩, fun s n cls l tag =>
    ⟨fun mute other => ?_, fun state => ⟨fun below => ⟨fun room => ?_, fun full => ?_⟩, fun free => ⟨fun room => ?_, fun full =>
      ⟨fun older v newer queue may before after => ?_, fun none => ⟨fun other => ?_, fun sale empty => ?_,
        fun older v newer sale some queue demand off after => ?_⟩⟩⟩⟩, fun k lane renew state => ?_⟩,
    fun s l cls e code n merged found named content hm => ⟨fun none => ?_, fun some off => ?_, fun some on => ?_⟩,
    fun s t chosen held step => ?_⟩
  · rcases h with queue | busy | off | mute
    · unfold Link.choose
      split
      · simp [queue]
      · rfl
    · exact choose_of_not fun h => busy h.1
    · exact choose_of_not fun h => by simp [off] at h
    · exact choose_of_not fun h => by simp [mute] at h
  · unfold Link.choose
    rw [if_pos ⟨idle, state⟩, queue, foldl_pick (P := fun b e : Entry => e.cls.rank < b.cls.rank) (fun _ => rfl) (fun _ _ => rfl)
      before fun x hx => not_lt.mpr (after x hx)]
  · have refused : s.link.admission cls = .refused := by simp [Link.admission, mute, other]
    simp only [State.offer, refused]
  · have threshold : cls.threshold = true := threshold_iff.mpr below
    have admitted : s.link.admission cls = .admitted := by
      rw [admission_sending state, Link.room, if_pos threshold]
      exact if_pos room
    simp only [State.offer, admitted]
    rfl
  · have threshold : cls.threshold = true := threshold_iff.mpr below
    have refused : s.link.admission cls = .refused := by
      rw [admission_sending state, Link.room, if_pos threshold]
      exact if_neg (not_lt.mpr full)
    simp only [State.offer, refused]
  · exact offer_room (n := 31 - s.link.queue.length) ⟨state, by omega⟩ n (Bool.eq_false_iff.mpr (threshold_iff.not.mpr free)) l tag
  all_goals try have threshold : cls.threshold = false := Bool.eq_false_iff.mpr (threshold_iff.not.mpr free)
  · have evicting : s.link.admission cls = .evicting v :=
      (admission_sending state).trans (room_full threshold full (victim_eq_some queue may before after))
    simp only [State.offer, evicting]
    rfl
  · have refused : s.link.admission cls = .refused :=
      (admission_sending state).trans ((room_full_none threshold full (victim_eq_none none)).1 other)
    simp only [State.offer, refused]
  · have overflow : s.link.admission cls = .overflow :=
      (admission_sending state).trans ((room_full_none threshold full (victim_eq_none none)).2.1 sale empty)
    simp only [State.offer, overflow]
  · have evicting : s.link.admission cls = .evicting v :=
      (admission_sending state).trans ((room_full_none threshold full (victim_eq_none none)).2.2 v sale some
        (youngestDemand_eq_some queue demand off after))
    simp only [State.offer, evicting]
    rfl
  · subst lane
    cases n <;> simp [Notice.isRenew] at renew
    simp [State.noticeLost, State.owe, state, State.setOwed]
  · simp only [State.offerRenew, found, none]
    rfl
  · have notice : s.renewNotice l = n := by rw [content, State.renewNotice, named]; rfl
    have left : (s.renewalSeats l).isEmpty = false := by simpa using some
    simp only [State.offerRenew, found, if_neg (Bool.eq_false_iff.mp left), notice, hm, State.modLink, State.setOwed,
      Link.mergeRenew, off]
    rfl
  · have notice : s.renewNotice l = n := by rw [content, State.renewNotice, named]; rfl
    have left : (s.renewalSeats l).isEmpty = false := by simpa using some
    simp only [State.offerRenew, found, if_neg (Bool.eq_false_iff.mp left), notice, hm, State.modLink, State.setOwed,
      Link.mergeRenew, on]
    rfl
  · cases queue : s.pending with
    | nil =>
      obtain rfl : s = t := by simpa [Machine.step, queue] using step
      exact ⟨chosen, held⟩
    | cons c cs =>
      have run : exec c { s with pending := cs } = .next t := by simpa [Machine.step, queue] using step
      by_cases asserted : c = .resetAsserted
      · subst asserted
        cases run
        exact ⟨nofun_of_off rfl, fun _ => ⟨rfl, rfl⟩⟩
      by_cases live : s.pins.reset = false
      · have after : Live t := exec_live (s := { s with pending := cs }) live run asserted
        exact ⟨exec_chosen (s := { s with pending := cs }) live chosen run, fun h => by simp [show t.pins.reset = false from after] at h⟩
      · have on : s.pins.reset = true := by simpa using live
        obtain ⟨link, lanes⟩ := held on
        by_cases released : c = .resetReleased
        · subst released
          cases run
          rw [if_pos on, releaseReset_of_reset (s := { s with pending := cs }) lanes link]
          exact ⟨nofun_of_off (congrArg Link.state link), nofun⟩
        · have same := (heldInReset c { s with pending := cs } on asserted released).1
          cases run.symm.trans same
          exact ⟨chosen, fun _ => ⟨link, lanes⟩⟩

end Sys2Proof.Proofs.Queue
end

section
/-! PROOFS of O46: receptions, receive errors, the receive filter and the duplicate-station fault. -/

namespace Sys2Proof.Proofs.Reception

open Sys2Proof Sys2Proof.Machine Sys2Proof.Proofs.Inputs Sys2Proof.Proofs.Requests Sys2Proof.Proofs.Words
open Sys2Proof.Proofs.LinkRules Sys2Proof.Proofs.Received Sys2Proof.Proofs.Queue

/-! ### What a reception is -/

theorem receive_deaf {s : State} (h : s.link.deaf = true) (sender : Nat) (n : Option Notice) : s.receive sender n = s := if_pos h

theorem receiveBytes_deaf {s : State} (h : s.link.deaf = true) (bytes : List Byte) : s.receiveBytes bytes = s := by
  unfold State.receiveBytes
  split
  · rfl
  · exact if_pos h
  · exact receive_deaf h _ _

theorem receiveBytes_runt {bytes : List Byte} (h : bytes.length < 8) (s : State) : s.receiveBytes bytes = s := by
  simp [State.receiveBytes, readReception, h]

/-- A run of bytes that fails the CRC, the sender check or the form check is a receive error (R32). -/
theorem receiveBytes_error {s : State} {sender : Nat} {bytes : List Byte} (hears : Hears s sender) (long : 8 ≤ bytes.length)
    (h : crcBytes (bytes.take (bytes.length - 2)) ≠ bytes.drop (bytes.length - 2)
      ∨ (∃ station body, readReception bytes = .notice station body ∧ (station = 0 ∨ 250 < station))
      ∨ readReception bytes = .notice sender none) : s.receiveBytes bytes = s.receiveError := by
  have awake : s.link.deaf = false := Hears.not_deaf hears
  rcases h with crc | ⟨station, body, read, range⟩ | read
  · have bad : readReception bytes = .badCrc := by simp [readReception, show ¬ bytes.length < 8 by omega, crc]
    simp [State.receiveBytes, bad, awake]
  · have outside : stationOk station = false := by
      rw [Bool.eq_false_iff]
      simp only [stationOk, ne_eq, Bool.and_eq_true, decide_eq_true_eq]
      omega
    simp [State.receiveBytes, read, State.receive, awake, outside]
  · have range : stationOk sender = true := by simp [stationOk, hears.range.1, hears.range.2]
    simp [State.receiveBytes, read, State.receive, awake, range, hears.other]

/-! ### A re-census -/

/-- The screenings that a re-census calls. -/
def recalled (s : State) : List Screening := (s.slots.filterMap id).filter fun x => x.sync = .ready ∧ x.phase = .idle

theorem recensus_eq (s : State) : s.recensus = (recalled s).foldl (fun u x => u.callCensus x.code) s := by
  rw [recalled, List.foldl_filter]
  simp only [State.recensus, decide_eq_true_eq]

theorem mem_slots {s : State} {x : Screening} : x ∈ s.slots.filterMap id ↔ some x ∈ s.slots := by simp

theorem recalled_nil {s : State} (h : ∀ x, some x ∈ s.slots → x.sync = .ready → x.phase ≠ .idle) : recalled s = [] := by
  refine List.filter_eq_nil_iff.mpr fun x hx called => ?_
  obtain ⟨ready, idle⟩ := by simpa using called
  exact h x (mem_slots.mp hx) ready idle

/-- The entries of the CENSUS-CALLs, with the ids they take. -/
def callEntries (next : Nat) (calls : List Screening) : List Entry :=
  ((List.range calls.length).zip calls).map fun e => ⟨next + e.1, .censusCall e.2.code, .censusCall, none, none, false, none⟩

theorem callEntries_cons (next : Nat) (x : Screening) (calls : List Screening) :
    callEntries next (x :: calls) = ⟨next, .censusCall x.code, .censusCall, none, none, false, none⟩ :: callEntries (next + 1) calls := by
  simp only [callEntries, List.length_cons, List.range_succ_eq_map, List.zip_cons_cons, List.map_cons, List.zip_map_left,
    List.map_map, Nat.add_zero]
  refine congrArg (_ :: ·) (List.map_congr_left fun e _ => ?_)
  simp only [Function.comp, Prod.map, Nat.succ_eq_add_one, id]
  rw [show next + (e.1 + 1) = next + 1 + e.1 by omega]

/-- A screening once its census is called, where its code is among the ones called. -/
def calledIn (codes : List Nat) (x : Screening) : Screening :=
  if x.code ∈ codes then { x with phase := .calling, censusTimer := none } else x

theorem callCensus_open {s : State} (h : QueueOpen s.link) (code : Nat) :
    s.callCensus code
      = { s with
          slots := s.slots.map fun o => o.map (calledIn [code])
          link := s.link.withEntry (.censusCall code) .censusCall none none } := by
  have admitted := admission_censusCall_admitted h.1 h.2
  have one : calledIn [code] = fun x => if x.code = code then { x with phase := .calling, censusTimer := none } else x := by
    funext x
    simp [calledIn]
  simp only [State.callCensus, admitted, State.offer, State.modScreening, State.modLink, one]
  rfl

theorem calledIn_calledIn (a b : List Nat) (x : Screening) : calledIn b (calledIn a x) = calledIn (a ++ b) x := by
  have code : (calledIn a x).code = x.code := by
    unfold calledIn
    split <;> rfl
  by_cases ha : x.code ∈ a <;> by_cases hb : x.code ∈ b <;> simp [calledIn, ha, hb]

theorem foldl_callCensus (calls : List Screening) (s : State) (state : s.link.state = .active ∨ s.link.state = .degraded)
    (room : s.link.queue.length + calls.length ≤ 24) :
    calls.foldl (fun u x => u.callCensus x.code) s
      = { s with
          slots := s.slots.map fun o => o.map (calledIn (calls.map Screening.code))
          link :=
            { s.link with
              queue := s.link.queue ++ callEntries s.link.nextId calls
              nextId := s.link.nextId + calls.length } } := by
  induction calls generalizing s with
  | nil =>
    have same : (fun o : Option Screening => o.map (calledIn [])) = id := by
      funext o
      cases o <;> simp [calledIn]
    simp [same, callEntries]
  | cons x calls ih =>
    simp only [List.length_cons] at room
    have slots : (fun o : Option Screening => (o.map (calledIn [x.code])).map (calledIn (calls.map Screening.code)))
        = fun o => o.map (calledIn ((x :: calls).map Screening.code)) := by
      funext o
      simp only [Option.map_map, List.map_cons]
      exact congrArg (Option.map · o) (funext fun y => calledIn_calledIn [x.code] _ y)
    have later := ih
      { s with
        slots := s.slots.map fun o => o.map (calledIn [x.code])
        link := s.link.withEntry (.censusCall x.code) .censusCall none none }
      state (by simp only [Link.withEntry, List.length_append, List.length_singleton]; omega)
    rw [List.foldl_cons, callCensus_open ⟨state, by omega⟩, later]
    simp only [Link.withEntry, List.map_map, List.append_assoc, List.singleton_append, callEntries_cons, List.length_cons]
    rw [show s.link.nextId + 1 + calls.length = s.link.nextId + (calls.length + 1) by omega]
    exact congrArg (fun g => ({ s with slots := s.slots.map g, link := _ } : State)) slots

/-- With each code loaded once, the screenings whose code is called are those that a re-census picks. -/
theorem calledIn_recalled {s : State} (nodup : ((s.slots.filterMap id).map Screening.code).Nodup) :
    (s.slots.map fun o => o.map (calledIn ((recalled s).map Screening.code)))
      = s.slots.map fun (o : Option Screening) => o.map fun (x : Screening) =>
          if x.sync = .ready ∧ x.phase = .idle then { x with phase := .calling, censusTimer := none } else x := by
  refine List.map_congr_left fun o ho => ?_
  cases o with
  | none => rfl
  | some x =>
    have mem : x ∈ s.slots.filterMap id := mem_slots.mpr ho
    have called : x.code ∈ (recalled s).map Screening.code ↔ x.sync = .ready ∧ x.phase = .idle := by
      constructor
      · intro h
        obtain ⟨y, hy, code⟩ := List.mem_map.mp h
        obtain ⟨hy, picked⟩ := List.mem_filter.mp hy
        rw [← List.inj_on_of_nodup_map nodup hy mem code]
        simpa using picked
      · exact fun h => List.mem_map_of_mem (List.mem_filter.mpr ⟨mem, by simpa using h⟩)
    simp only [Option.map_some, calledIn, called]

/-- A census that has ended already ends with nothing changed. -/
theorem endCensus_ended {s : State} {code : Nat}
    (h : ∀ x, some x ∈ s.slots → x.code = code → x.phase = .idle ∧ x.censusTimer = none ∧ x.sync = .ready ∧ x.request = none) :
    s.endCensus code = s := by
  unfold State.endCensus
  split
  · rfl
  next x found =>
    obtain ⟨mem, code'⟩ : some x ∈ s.slots ∧ x.code = code := by
      obtain ⟨o, ho, hx⟩ := List.exists_of_findSome?_eq_some found
      obtain ⟨rfl, hc⟩ := Option.filter_eq_some_iff.mp hx
      exact ⟨ho, by simpa using hc⟩
    have same : s.modScreening code
        (fun y => { y with phase := .idle, censusTimer := none, sync := .ready, request := none }) = s := by
      show { s with slots := s.slots.map _ } = s
      rw [List.map_congr_left (g := id), List.map_id]
      intro o ho
      cases o with
      | none => rfl
      | some y =>
        simp only [Option.map_some, id, Option.some.injEq]
        split
        next hy =>
          obtain ⟨phase, timer, sync, request⟩ := h y ho hy
          rw [← phase, ← timer, ← sync, ← request]
        · rfl
    simp only [same, (h x mem code').2.2.2]

theorem foldl_callCensus_refused {calls : List Screening} {s : State} (refused : s.link.admission .censusCall = .refused)
    (ended : ∀ x ∈ calls, s.endCensus x.code = s) : calls.foldl (fun u x => u.callCensus x.code) s = s := by
  induction calls with
  | nil => rfl
  | cons x calls ih =>
    have same : s.callCensus x.code = s := by
      simp only [State.callCensus, refused]
      exact ended x List.mem_cons_self
    rw [List.foldl_cons, same]
    exact ih fun y hy => ended y (List.mem_cons_of_mem x hy)

/-! ### The duplicate-station fault -/

theorem endPick_link (s : State) (l : LaneIx) (e : WordEnd) : (s.endPick l e).link = s.link := by
  unfold State.endPick
  split
  · obtain ⟨blk, io, h⟩ := endWord_shape s l e
    rw [h]
    rfl
  · rfl

theorem claimFails_link (s : State) (l : LaneIx) (c : Code) : (s.claimFails l c).link = s.link := by
  unfold State.claimFails
  split
  · exact endPick_link _ _ _
  · rfl

theorem endCensus_link (s : State) (code : Nat) : (s.endCensus code).link = s.link := by
  unfold State.endCensus
  split
  · rfl
  · split
    · split <;> rfl
    · rfl

theorem muteLoss_link (s : State) (e : Entry) : (s.muteLoss e).link = s.link := by
  unfold State.muteLoss
  split
  · split
    · exact claimFails_link _ _ _
    · rfl
  · exact endCensus_link _ _
  all_goals rfl

theorem foldl_muteLoss_link (es : List Entry) (s : State) : (es.foldl State.muteLoss s).link = s.link := by
  induction es generalizing s with
  | nil => rfl
  | cons e es ih => rw [List.foldl_cons, ih, muteLoss_link]

/-- The link that becomes MUTE. -/
theorem mute_link (s : State) :
    s.mute.link
      = Link.takeOverflow
          { s.link.idle with
            state := .mute
            queue := s.link.queue.filter fun e => e.notice.isSale
            owed := ⟨false, false, false, false⟩ } := by
  show Link.takeOverflow (List.foldl State.muteLoss _ _).link = _
  rw [foldl_muteLoss_link]
  rfl

/-- The SALE of the overflow slot stays an entry of the part. -/
theorem takeOverflow_entries (k : Link) : k.takeOverflow.entries = k.entries := by
  unfold Link.takeOverflow
  split
  next e h =>
    split
    · simp [Link.entries, h]
    · rfl
  · rfl

theorem takeOverflow_fields (k : Link) : k.takeOverflow.state = k.state ∧ k.takeOverflow.contention = k.contention
    ∧ k.takeOverflow.owed = k.owed ∧ k.takeOverflow.station = k.station ∧ k.takeOverflow.aborts = k.aborts := by
  unfold Link.takeOverflow
  split
  · split <;> exact ⟨rfl, rfl, rfl, rfl, rfl⟩
  · exact ⟨rfl, rfl, rfl, rfl, rfl⟩

/-- In MUTE a receive error changes only the count of the link (R20, R35). -/
theorem receiveError_link {s : State} (mute : s.link.state = .mute) :
    ∃ n, s.receiveError.link = { s.link with receiveErrors := n } := by
  unfold State.receiveError
  split
  · refine ⟨0, ?_⟩
    have calls : ∀ (xs : List Screening) (u : State), u.link.state = .mute →
        (xs.foldl (fun u x => u.callCensus x.code) u).link = u.link := by
      intro xs
      induction xs with
      | nil => exact fun _ _ => rfl
      | cons x xs ih =>
        intro u hu
        have same : (u.callCensus x.code).link = u.link := by
          simp only [State.callCensus, admission_censusCall_refused (.inl hu)]
          exact endCensus_link u x.code
        rw [List.foldl_cons, ih _ (same ▸ hu), same]
    rw [recensus_eq]
    exact calls _ _ mute
  · exact ⟨_, rfl⟩

/-- The filter does not keep a notice of a screening that is not loaded (R34). -/
theorem keep_not_loaded {s : State} {n : Notice} {code : Nat} (named : n.screening? = some code) (gone : s.screening code = none)
    (sender : Nat) : s.keep sender n = s := by
  have notLoaded : ¬ s.isLoaded code = true := by simp [State.isLoaded, gone]
  cases n with
  | censusCall c =>
    cases named
    show s.answerCall code = s
    rw [State.answerCall, gone]
  | verify | redeem | voucherState => cases named
  | _ =>
    cases named
    exact if_neg notLoaded

/-- Settles O46: each reception by the check that it meets, the re-census call by call, and MUTE by what leaves the queue. -/
theorem reception : Obligations.Reception := by
  refine ⟨fun s bytes live => ⟨fun short => effects_of_eq rfl live (receiveBytes_runt short s), fun deaf => ?_,
    fun sender hears long bad => ?_⟩, fun s c sender n live notice ok => ⟨fun hears drop => ?_, fun own low high state sending jamming => ?_⟩⟩
  · have deaf' : s.link.deaf = true := deaf_iff.mpr deaf
    exact ⟨effects_of_eq rfl live (receiveBytes_deaf deaf' bytes), fun c sender n h =>
      effects_of_eq (exec_notice h s) live (receive_deaf deaf' sender (some n))⟩
  · have effect : ∀ m, s.receiveError = m → Effects (.noticeCheckFailed bytes) s m := fun m h =>
      effects_of_eq rfl live ((receiveBytes_error hears long bad).trans h)
    have eighth : s.link.receiveErrors = 7 → s.receiveError = (s.modLink fun k => { k with receiveErrors := 0 }).recensus := fun h =>
      if_pos (show 8 ≤ s.link.receiveErrors + 1 by omega)
    have reset := fun full => (eighth full).trans (recensus_eq (s.modLink fun k => { k with receiveErrors := 0 }))
    refine ⟨fun few => effect _ (if_neg (show ¬ 8 ≤ s.link.receiveErrors + 1 by omega)), fun full none => effect _ ?_,
      fun calls full hcalls nodup => ⟨fun state room => effect _ ?_, fun busy ended => effect _ ?_⟩⟩
    · rw [reset full, recalled_nil (s := s.modLink _) none]
      rfl
    · subst hcalls
      rw [reset full]
      refine (foldl_callCensus _ (s.modLink fun k => { k with receiveErrors := 0 }) state room).trans ?_
      exact congrArg (fun xs => ({ s with slots := xs, link := _ } : State)) (calledIn_recalled (s := s) nodup)
    · rw [reset full]
      refine foldl_callCensus_refused (admission_censusCall_refused busy) fun x hx => endCensus_ended fun y hy code => ?_
      obtain ⟨mem, picked⟩ := List.mem_filter.mp (show x ∈ recalled s from hx)
      obtain rfl := List.inj_on_of_nodup_map nodup (mem_slots.mpr hy) mem code
      obtain ⟨ready, idle⟩ : y.sync = .ready ∧ y.phase = .idle := by simpa using picked
      obtain ⟨timer, request⟩ := ended y (hcalls ▸ hx)
      exact ⟨idle, timer, ready, request⟩
  · refine effects_kept notice live hears ok ?_
    rcases drop with ⟨code, named, gone⟩ | ⟨v, rfl | rfl, other⟩ | ⟨v, item, a, rfl⟩
    · exact keep_not_loaded named gone sender
    · exact if_neg other
    · exact if_neg other
    · rfl
  · have awake : s.link.deaf = false := by
      rw [Bool.eq_false_iff, ne_eq, deaf_iff]
      rintro (off | h | h)
      · simp [off] at state
      · exact sending h
      · exact jamming h
    have range : stationOk sender = true := by simp [stationOk, low, high]
    have met : s.receive sender (some n) = (s.mute.raise (duplicateReport sender)).receiveError := by
      simp [State.receive, awake, range, own, State.duplicateStation, state]
    obtain ⟨muted, contention, owed, station, aborts⟩ := takeOverflow_fields
      { s.link.idle with
        state := .mute
        queue := s.link.queue.filter fun e => e.notice.isSale
        owed := ⟨false, false, false, false⟩ }
    rw [← mute_link] at muted contention owed station aborts
    obtain ⟨count, link⟩ := receiveError_link (s := s.mute.raise (duplicateReport sender)) muted
    obtain ⟨t, completes, settled, -⟩ := effects_of_eq (exec_notice notice s) live met
    have after : t.link = { s.mute.link with receiveErrors := count } := by
      rw [settled, settle, testDrained_link]
      show Link.choose (State.receiveError _).link = _
      rw [link]
      exact choose_of_not fun h => by simp [muted] at h
    have entries : s.mute.link.entries = (s.link.queue.filter fun e => e.notice.isSale) ++ s.link.overflow.toList := by
      rw [mute_link, takeOverflow_entries]
      rfl
    refine ⟨t, completes, ?_, ?_, ?_, fun l => ?_, ?_, ?_⟩
    · rw [after]
      exact muted
    · rw [after]
      exact contention
    · rw [after]
      exact entries
    · rw [after]
      show s.mute.link.owed.get l = false
      rw [owed]
      fin_cases l <;> rfl
    · rw [after]
      exact station
    · rw [after]
      exact aborts

end Sys2Proof.Proofs.Reception
end

section
/-! PROOFS of O47: a notice read back from its bytes. -/

namespace Sys2Proof.Proofs.Encoding

open Sys2Proof Sys2Proof.Machine Sys2Proof.Proofs.Rings Sys2Proof.Proofs.Requests

/-! ### Fields of a record -/

theorem byte_toNat {n : Nat} (h : n < 256) : (Byte.ofNat n).toNat = n := by
  simp [Byte.ofNat, Nat.mod_eq_of_lt h]

theorem leNat_leBytes {n v : Nat} (h : v < 256 ^ n) : leNat (leBytes n v) = v := by
  induction n generalizing v with
  | zero =>
    obtain rfl : v = 0 := by simpa using h
    rfl
  | succ n ih =>
    have small : v / 256 < 256 ^ n := Nat.div_lt_of_lt_mul (by rwa [Nat.pow_succ, Nat.mul_comm] at h)
    rw [leBytes, leNat, ih small]
    have low : (Byte.ofNat v).toNat = v % 256 := by simp [Byte.ofNat]
    omega

theorem beNat_beBytes {n v : Nat} (h : v < 256 ^ n) : beNat (beBytes n v) = v := by
  rw [beNat, beBytes, List.reverse_reverse, leNat_leBytes h]

theorem beBytes_length (n v : Nat) : (beBytes n v).length = n := by
  rw [beBytes, List.length_reverse, leBytes_length]

/-- A field of the record, after the bytes in front of it. -/
theorem beField_at {front : List Byte} {off n v : Nat} (at_ : front.length = off) (h : v < 256 ^ n) (rest : List Byte) :
    beField (front ++ (beBytes n v ++ rest)) off n = v := by
  have field : slice (front ++ (beBytes n v ++ rest)) off n = beBytes n v :=
    (slice_skip (off := 0) at_).trans (slice_head (beBytes_length n v))
  rw [beField, field, beNat_beBytes h]

theorem beField_byte_at {front : List Byte} {off v : Nat} (at_ : front.length = off) (h : v < 256) (rest : List Byte) :
    beField (front ++ Byte.ofNat v :: rest) off 1 = v :=
  beField_at at_ (by omega) rest

theorem beField_head {n v : Nat} (h : v < 256 ^ n) (rest : List Byte) : beField (beBytes n v ++ rest) 0 n = v :=
  beField_at (front := []) rfl h rest

/-! ### Seat lists and voucher codes -/

theorem readSeats_seatsBytes {rs : List SeatRef} (h : ∀ r ∈ rs, seatInRange r = true) : readSeats (seatsBytes rs) = rs := by
  induction rs with
  | nil => rfl
  | cons r rs ih =>
    have range := h r List.mem_cons_self
    simp only [seatInRange, Bool.and_eq_true, decide_eq_true_eq] at range
    show (⟨(Byte.ofNat r.row).toNat, (Byte.ofNat r.num).toNat⟩ : SeatRef) :: readSeats (seatsBytes rs) = r :: rs
    rw [byte_toNat (by omega), byte_toNat (by omega), ih fun x hx => h x (List.mem_cons_of_mem r hx)]

theorem seatListBytes_length (rs : List SeatRef) : (seatListBytes rs).length = 1 + 2 * rs.length := by
  rw [seatListBytes, List.length_cons, seatsBytes_length]
  omega

/-- A seat list in range is read back from its bytes. -/
theorem readSeatList_seatListBytes {rs : List SeatRef} (h : seatListOk rs = true) : readSeatList (seatListBytes rs) = some rs := by
  simp only [seatListOk, Bool.and_eq_true, decide_eq_true_eq, List.all_eq_true] at h
  obtain ⟨⟨⟨-, short⟩, -⟩, range⟩ := h
  have length : (seatsBytes rs).length = 2 * (Byte.ofNat rs.length).toNat := by
    rw [seatsBytes_length, byte_toNat (by omega)]
  rw [seatListBytes, readSeatList, if_pos length, readSeats_seatsBytes range]

theorem vcodeBytes_length (v : VCode) : (vcodeBytes v).length = 4 := by
  rw [vcodeBytes, List.length_cons, beBytes_length]

theorem readVCode_vcodeBytes {v : VCode} (h : vcodeOk v = true) (rest : List Byte) : readVCode (vcodeBytes v ++ rest) = v := by
  simp only [vcodeOk, stationOk, Bool.and_eq_true, decide_eq_true_eq] at h
  have serial : v.serial ≤ 1048575 := h.2
  have station : beField (vcodeBytes v ++ rest) 0 1 = v.station := beField_byte_at (front := []) rfl (by omega) _
  have number : beField (vcodeBytes v ++ rest) 1 3 = v.serial :=
    beField_at (front := [Byte.ofNat v.station]) rfl (by omega) rest
  rw [readVCode, station, number]

/-! ### The body of a notice -/

theorem readAnswer_answerCode (a : Answer) : answerCode a < 256 ∧ readAnswer (answerCode a) = some a := by
  cases a <;> decide

theorem codeOk_lt {c : Nat} (h : codeOk c = true) : c < 256 ^ 2 := by
  simp only [codeOk, Bool.and_eq_true, decide_eq_true_eq] at h
  omega

theorem stationOk_lt {c : Nat} (h : stationOk c = true) : c < 256 := by
  simp only [stationOk, Bool.and_eq_true, decide_eq_true_eq] at h
  omega

theorem drop_front {front rest : List Byte} {n : Nat} (h : front.length = n) : (front ++ rest).drop n = rest := List.drop_left' h

/-- A body of a code, a lifetime and a seat list. -/
theorem readBody_timed (kind : Nat) (make : Nat → Nat → List SeatRef → Notice)
    (reads : ∀ bs, readBody kind bs
      = if bs.length < 5 then none else (readSeatList (bs.drop 4)).map (make (beField bs 0 2) (beField bs 2 2)))
    {code life : Nat} {seats : List SeatRef} (hc : code < 256 ^ 2) (hl : life < 256 ^ 2) (list : seatListOk seats = true) :
    readBody kind (beBytes 2 code ++ beBytes 2 life ++ seatListBytes seats) = some (make code life seats) := by
  have long : ¬ (beBytes 2 code ++ beBytes 2 life ++ seatListBytes seats).length < 5 := by
    simp only [List.length_append, beBytes_length, seatListBytes_length]
    omega
  have rest : (beBytes 2 code ++ beBytes 2 life ++ seatListBytes seats).drop 4 = seatListBytes seats :=
    drop_front (by simp [beBytes_length])
  rw [reads, if_neg long, rest, readSeatList_seatListBytes list, List.append_assoc, beField_head hc,
    beField_at (beBytes_length 2 code) hl]
  rfl

/-- A body of a code and a seat list. -/
theorem readBody_listed (kind : Nat) (make : Nat → List SeatRef → Notice)
    (reads : ∀ bs, readBody kind bs = (readSeatList (bs.drop 2)).map (make (beField bs 0 2)))
    {code : Nat} {seats : List SeatRef} (hc : code < 256 ^ 2) (list : seatListOk seats = true) :
    readBody kind (beBytes 2 code ++ seatListBytes seats) = some (make code seats) := by
  rw [reads, drop_front (beBytes_length 2 code), readSeatList_seatListBytes list, beField_head hc]
  rfl

/-- A body of a CENSUS-REPLY: the section's byte, its owner and the time left to it. -/
theorem readBody_section {code owner remaining : Nat} {seats : List SeatRef} (byte : Nat) (sect : Section)
    (small : byte < 256) (named : readSection byte = some sect) (hc : code < 256 ^ 2) (ho : owner < 256) (hr : remaining < 256 ^ 2)
    (list : seatListOk seats = true) (zero : sect = .sold → remaining = 0) :
    readBody 7 (beBytes 2 code ++ [Byte.ofNat byte, Byte.ofNat owner] ++ beBytes 2 remaining ++ seatListBytes seats)
      = some (.censusReply code sect owner remaining seats) := by
  have rest : (beBytes 2 code ++ [Byte.ofNat byte, Byte.ofNat owner] ++ beBytes 2 remaining ++ seatListBytes seats).drop 6
      = seatListBytes seats := drop_front (by simp [beBytes_length])
  have shape : beBytes 2 code ++ [Byte.ofNat byte, Byte.ofNat owner] ++ beBytes 2 remaining ++ seatListBytes seats
      = beBytes 2 code ++ Byte.ofNat byte :: (Byte.ofNat owner :: (beBytes 2 remaining ++ seatListBytes seats)) := by simp
  have first := beField_head hc (Byte.ofNat byte :: (Byte.ofNat owner :: (beBytes 2 remaining ++ seatListBytes seats)))
  have second := beField_byte_at (beBytes_length 2 code) small (Byte.ofNat owner :: (beBytes 2 remaining ++ seatListBytes seats))
  have third := beField_byte_at (front := beBytes 2 code ++ [Byte.ofNat byte]) (off := 3) (by simp [beBytes_length]) ho
    (beBytes 2 remaining ++ seatListBytes seats)
  have fourth := beField_at (front := beBytes 2 code ++ [Byte.ofNat byte, Byte.ofNat owner]) (off := 4)
    (by simp [beBytes_length]) hr (seatListBytes seats)
  simp only [List.append_assoc, List.cons_append, List.nil_append] at third fourth
  have reads (bs : List Byte) (named : readSection (beField bs 2 1) = some sect) (listed : readSeatList (bs.drop 6) = some seats) :
      readBody 7 bs
        = some (.censusReply (beField bs 0 2) sect (beField bs 3 1) (if sect = .sold then 0 else beField bs 4 2) seats) := by
    unfold readBody
    cases sect <;> simp only [named, listed] <;> rfl
  rw [reads _ (by rw [shape, second, named]) (by rw [rest, readSeatList_seatListBytes list]), shape, first, third, fourth]
  cases sect with
  | held => rfl
  | sold => simp [zero rfl]

/-- Every kind's body is read back, where a SOLD section has no remaining lifetime. -/
theorem readBody_body {n : Notice} (ok : n.ok = true)
    (sold : ∀ code owner remaining seats, n = .censusReply code .sold owner remaining seats → remaining = 0) :
    readBody n.kindCode n.body = some n := by
  cases n with
  | hold code life seats =>
    simp only [Notice.ok, Bool.and_eq_true, decide_eq_true_eq] at ok
    obtain ⟨⟨⟨code_ok, -⟩, short⟩, list⟩ := ok
    exact readBody_timed 1 Notice.hold (fun _ => rfl) (codeOk_lt code_ok) (by omega) list
  | renew code life seats =>
    simp only [Notice.ok, Bool.and_eq_true, decide_eq_true_eq] at ok
    obtain ⟨⟨⟨code_ok, -⟩, short⟩, list⟩ := ok
    exact readBody_timed 2 Notice.renew (fun _ => rfl) (codeOk_lt code_ok) (by omega) list
  | release code seats =>
    simp only [Notice.ok, Bool.and_eq_true] at ok
    exact readBody_listed 3 Notice.release (fun _ => rfl) (codeOk_lt ok.1) ok.2
  | sale code seats =>
    simp only [Notice.ok, Bool.and_eq_true] at ok
    exact readBody_listed 5 Notice.sale (fun _ => rfl) (codeOk_lt ok.1) ok.2
  | object code claimant seats =>
    simp only [Notice.ok, Bool.and_eq_true] at ok
    obtain ⟨⟨code_ok, claimant_ok⟩, list⟩ := ok
    have body : (Notice.object code claimant seats).body = beBytes 2 code ++ Byte.ofNat claimant :: seatListBytes seats := by
      simp [Notice.body]
    have rest : (beBytes 2 code ++ Byte.ofNat claimant :: seatListBytes seats).drop 3 = seatListBytes seats := by
      have shape : beBytes 2 code ++ Byte.ofNat claimant :: seatListBytes seats
          = (beBytes 2 code ++ [Byte.ofNat claimant]) ++ seatListBytes seats := by simp
      rw [shape]
      exact drop_front (by simp [beBytes_length])
    have reads (bs : List Byte) :
        readBody 4 bs = (readSeatList (bs.drop 3)).map (Notice.object (beField bs 0 2) (beField bs 2 1)) := rfl
    show readBody 4 _ = _
    rw [body, reads, rest, readSeatList_seatListBytes list, beField_head (codeOk_lt code_ok),
      beField_byte_at (beBytes_length 2 code) (stationOk_lt claimant_ok)]
    rfl
  | censusCall code =>
    have length : (beBytes 2 code).length = 2 := beBytes_length 2 code
    have field := beField_head (codeOk_lt ok) []
    rw [List.append_nil] at field
    show (if (beBytes 2 code).length = 2 then some (Notice.censusCall (beField (beBytes 2 code) 0 2)) else none) = _
    rw [if_pos length, field]
  | censusReply code sect owner remaining seats =>
    cases sect with
    | held =>
      simp only [Notice.ok, Bool.and_eq_true, decide_eq_true_eq] at ok
      obtain ⟨⟨⟨code_ok, owner_ok⟩, short⟩, list⟩ := ok
      exact readBody_section 0 .held (by omega) rfl (codeOk_lt code_ok) (stationOk_lt owner_ok) (by omega) list nofun
    | sold =>
      obtain rfl := sold code owner remaining seats rfl
      simp only [Notice.ok, Bool.and_eq_true] at ok
      obtain ⟨⟨code_ok, owner_ok⟩, list⟩ := ok
      exact readBody_section 1 .sold (by omega) rfl (codeOk_lt code_ok) (stationOk_lt owner_ok) (by omega) list fun _ => rfl
  | verify v =>
    have read := readVCode_vcodeBytes ok []
    rw [List.append_nil] at read
    show (if (vcodeBytes v).length = 4 then some (Notice.verify (readVCode (vcodeBytes v))) else none) = _
    rw [if_pos (vcodeBytes_length v), read]
  | redeem v =>
    have read := readVCode_vcodeBytes ok []
    rw [List.append_nil] at read
    show (if (vcodeBytes v).length = 4 then some (Notice.redeem (readVCode (vcodeBytes v))) else none) = _
    rw [if_pos (vcodeBytes_length v), read]
  | voucherState v item answer =>
    simp only [Notice.ok, Bool.and_eq_true, decide_eq_true_eq] at ok
    obtain ⟨code, small⟩ := ok
    obtain ⟨byte, named⟩ := readAnswer_answerCode answer
    have reads (bs : List Byte) : readBody 10 bs
        = if bs.length = 7 then (readAnswer (beField bs 6 1)).map (.voucherState (readVCode bs) (beField bs 4 2)) else none := rfl
    have length : (vcodeBytes v ++ beBytes 2 item ++ [Byte.ofNat (answerCode answer)]).length = 7 := by
      simp [vcodeBytes_length, beBytes_length]
    have last : beField (vcodeBytes v ++ beBytes 2 item ++ [Byte.ofNat (answerCode answer)]) 6 1 = answerCode answer :=
      beField_byte_at (by simp [vcodeBytes_length, beBytes_length]) byte []
    have shape : (Notice.voucherState v item answer).body
        = vcodeBytes v ++ beBytes 2 item ++ [Byte.ofNat (answerCode answer)] := rfl
    show readBody 10 _ = _
    rw [shape, reads, if_pos length, last, named, List.append_assoc, readVCode_vcodeBytes code,
      beField_at (vcodeBytes_length v) (by omega)]
    rfl

/-! ### The whole notice -/

theorem body_length_lt {n : Notice} (ok : n.ok = true) : n.body.length < 256 ∧ 2 ≤ n.body.length := by
  have list {rs : List SeatRef} (h : seatListOk rs = true) : rs.length ≤ 16 := by
    simp only [seatListOk, Bool.and_eq_true, decide_eq_true_eq] at h
    exact h.1.1.2
  cases n with
  | censusReply code sect owner remaining seats =>
    cases sect
    all_goals
      simp only [Notice.ok, Bool.and_eq_true] at ok
      have := list ok.2
      simp only [Notice.body, List.length_append, beBytes_length, seatListBytes_length, List.length_cons, List.length_nil]
      omega
  | hold | renew | release | object | sale =>
    simp only [Notice.ok, Bool.and_eq_true] at ok
    have := list ok.2
    simp only [Notice.body, List.length_append, beBytes_length, seatListBytes_length, List.length_cons, List.length_nil]
    omega
  | censusCall | verify | redeem | voucherState =>
    simp only [Notice.body, List.length_append, beBytes_length, vcodeBytes_length, List.length_cons, List.length_nil]
    omega

theorem kindCode_lt (n : Notice) : n.kindCode < 256 := by
  cases n <;> simp [Notice.kindCode]

/-- Settles O47: the check field is the one computed, the header gives kind, sender and length, and the body is read back. -/
theorem noticeRoundTrip : Obligations.NoticeRoundTrip := by
  intro sender n low high ok sold
  obtain ⟨short, long⟩ := body_length_lt ok
  have run : n.encode sender = (Byte.ofNat n.kindCode :: Byte.ofNat sender :: Byte.ofNat n.body.length :: 0 :: n.body)
      ++ crcBytes (Byte.ofNat n.kindCode :: Byte.ofNat sender :: Byte.ofNat n.body.length :: 0 :: n.body) := rfl
  have check : (crcBytes (Byte.ofNat n.kindCode :: Byte.ofNat sender :: Byte.ofNat n.body.length :: 0 :: n.body)).length = 2 :=
    beBytes_length 2 _
  have length : (n.encode sender).length = 6 + n.body.length := by
    rw [run, List.length_append, check]
    simp only [List.length_cons]
    omega
  have kind : beField (n.encode sender) 0 1 = n.kindCode := beField_byte_at (front := []) rfl (kindCode_lt n) _
  have from_ : beField (n.encode sender) 1 1 = sender := beField_byte_at (front := [_]) rfl (by omega) _
  have size : beField (n.encode sender) 2 1 = n.body.length := beField_byte_at (front := [_, _]) rfl short _
  have body : slice (n.encode sender) 4 n.body.length = n.body := by
    show slice ([_, _, _, _] ++ (n.body ++ _)) (4 + 0) n.body.length = n.body
    exact (slice_skip rfl).trans (slice_head rfl)
  have read : readNotice (n.encode sender) = some n := by
    simp only [readNotice, length, size, if_true, kind, body, readBody_body ok sold, ok]
  have cut : (n.encode sender).length - 2
      = (Byte.ofNat n.kindCode :: Byte.ofNat sender :: Byte.ofNat n.body.length :: 0 :: n.body).length := by
    rw [length]
    simp only [List.length_cons]
    omega
  rw [readReception, if_neg (by omega), cut]
  refine (if_pos ?_).trans (by rw [from_, read])
  rw [run, List.take_left, List.drop_left]

end Sys2Proof.Proofs.Encoding
end

section
/-! PROOFS of O49 and O50: the events of the notice in contention up to an attempt that ends unsent. -/

namespace Sys2Proof.Proofs.Contention

open Sys2Proof Sys2Proof.Machine Sys2Proof.Proofs.Inputs Sys2Proof.Proofs.Requests Sys2Proof.Proofs.Words
open Sys2Proof.Proofs.LinkRules Sys2Proof.Proofs.Received Sys2Proof.Proofs.Queue

/-! ### The notice in contention -/

theorem current_eq_some {k : Link} {e : Entry} (h : k.current = some e) : k.contention.entry = some e.id ∧ e ∈ k.queue := by
  obtain ⟨i, hi, found⟩ := Option.bind_eq_some_iff.mp h
  have id : e.id = i := by simpa using List.find?_some found
  exact ⟨id ▸ hi, List.mem_of_find?_eq_some found⟩

/-- While an attempt goes on the close of a step leaves the link. -/
theorem link_of_busy {s m t : State} (settled : t = settle s m) (busy : m.link.contention.phase ≠ .idle) : t.link = m.link := by
  rw [settled, settle, testDrained_link]
  exact choose_of_not fun h => busy h.1

/-- With no content kept aside none replaces an entry's (R38). -/
theorem modEntry_takeKept {k : Link} {id : Nat} (h : ∀ x ∈ k.queue, x.kept = none) : k.modEntry id Entry.takeKept = k := by
  show { k with queue := k.queue.map _ } = k
  rw [List.map_congr_left (g := fun x => x), List.map_id']
  intro x hx
  split
  · simp [Entry.takeKept, h x hx]
  · rfl

/-! ### An entry that leaves unsent -/

theorem runningWord_clearClaim (s : State) (l : LaneIx) : (s.clearClaim l).runningWord l = s.runningWord l := by
  simp only [State.runningWord, State.clearClaim, State.lane_modLane_same]

/-- A WITHDRAWING claim ends, with no PICK waiting for it (R64). -/
theorem endWithdrawal_freed {s : State} {l : LaneIx} (h : ∀ w, s.runningWord l ≠ some (w, .waiting)) :
    s.endWithdrawal l false = (s.freeClaim l).clearClaim l := by
  unfold State.endWithdrawal
  dsimp only
  split
  next a es runs =>
    have same : ((s.freeClaim l).clearClaim l).runningWord l = s.runningWord l := runningWord_clearClaim (s.freeClaim l) l
    exact absurd (same.symm.trans runs) (h _)
  · rfl

theorem freeClaim_eq (s : State) (l : LaneIx) :
    s.freeClaim l = s.mapSeats (s.lane l).claim.code ((s.lane l).claim.seats.map ClaimSeat.seat) fun st =>
      if st = .claiming l then .free else st := by
  simp only [State.freeClaim, SeatState.claimedBy, decide_eq_true_eq]

/-- The seats of a claim that is cleared, each of them CLAIMING by the lane FREE. -/
theorem freed_seatsBecome (s : State) (l : LaneIx) :
    SeatsBecome (s.modLane l fun y => { y with claim := Claim.blank }) ((s.freeClaim l).clearClaim l) (s.lane l).claim.code
      ((s.lane l).claim.seats.map ClaimSeat.seat) (fun st => if st = .claiming l then .free else st) := by
  rw [freeClaim_eq]
  exact State.seatsBecome_mapSeats (s.modLane l fun y => { y with claim := Claim.blank }) _ _ _

theorem freed_free {s m : State} {l : LaneIx} {code : Nat} {seats : List SeatRef}
    (h : SeatsBecome s m code seats fun st => if st = .claiming l then .free else st) {r : SeatRef} (hr : r ∈ seats)
    (claiming : s.seat code r = some (.claiming l)) : m.seat code r = some .free := by
  rw [h.seats, claiming]
  simp [hr]

/-- Settles O49: each event by its definition, and an entry that leaves by its owner. -/
theorem contentionEvents : Obligations.ContentionEvents := by
  intro s draw k live
  refine ⟨fun deferring => ⟨effects_of_eq rfl live (if_pos deferring), fun e station current own => ?_⟩, fun sending =>
    ⟨effects_of_eq rfl live (if_pos sending), ?_⟩, ?_, fun backoff => effects_of_eq rfl live (if_pos backoff), ?_⟩
  · obtain ⟨t, completes, settled, closed⟩ := effects_of_eq (c := .gapComplete) rfl live (if_pos deferring)
    have link := link_of_busy settled (by simp [State.modContention, State.modLink])
    refine ⟨t, completes, ?_⟩
    have reset : t.pins.reset = false := (congrArg Pins.reset closed.pins).trans live
    have current' : t.link.current = some e := by rw [link]; exact current
    have station' : t.link.station = some station := by rw [link]; exact own
    have phase : t.link.contention.phase = .sending := by rw [link]; rfl
    simp [State.pairOutput, reset, phase, current', station']
  · obtain ⟨t, completes, settled, closed⟩ := effects_of_eq (c := .collisionDetected) rfl live (if_pos sending)
    have link := link_of_busy settled (by simp [State.modContention, State.modLink])
    have reset : t.pins.reset = false := (congrArg Pins.reset closed.pins).trans live
    have phase : t.link.contention.phase = .jamming := by rw [link]; rfl
    exact ⟨t, completes, by simp [State.pairOutput, reset, phase]⟩
  · intro e c gone report current leaving owed hc hgone
    obtain ⟨entry, queued⟩ := current_eq_some current
    have effect : ∀ m, s.leaveUnsent e = m → Effects c s (report m) := by
      rintro m rfl
      rcases hc with ⟨rfl, jamming, rfl⟩ | ⟨rfl, sending, rfl⟩
      · exact effects_of_eq rfl live (by simp [State.jamEnd, jamming, current, leaving])
      · refine effects_of_eq rfl live ?_
        simp only [State.jabber, sending, current, leaving, if_true]
        rfl
    have dropped : s.dropEntry e = { s with link := gone } := by
      rw [hgone]
      rfl
    have none : NothingOwed gone := hgone ▸ owed
    refine ⟨fun other => effect _ ?_, fun l hold lane withdrawing waits => ⟨_, effect _ ?_, freed_seatsBecome { s with link := gone } l,
      fun r hr claiming => freed_free (freed_seatsBecome { s with link := gone } l) hr claiming⟩⟩
    · have silent (u : State) : u.removedUnsent e = u := by
        unfold State.removedUnsent
        split
        next notice => simp [notice, Notice.isHold] at other
        all_goals rfl
      rw [State.leaveUnsent, dropped, silent]
      exact placeFreed_nothingOwed none
    · have told : ({ s with link := gone } : State).removedUnsent e = ({ s with link := gone } : State).holdRemoved l := by
        unfold State.removedUnsent
        cases notice : e.notice <;> simp [notice, Notice.isHold] at hold
        simp [lane]
      have ended : ({ s with link := gone } : State).holdRemoved l
          = (State.freeClaim { s with link := gone } l).clearClaim l :=
        (if_pos withdrawing).trans (endWithdrawal_freed (s := { s with link := gone }) waits)
      rw [State.leaveUnsent, dropped, told, ended]
      exact placeFreed_nothingOwed none
  · intro e jamming few current stays kept hk
    have below : ¬ Config.collisionLimit ≤ s.link.contention.collisions := not_le.mpr few
    have met : s.jamEnd draw = s.backOff e draw := by
      simp [State.jamEnd, jamming, current, stays, below]
    have content : (s.modLink fun k => k.modEntry e.id Entry.takeKept) = s :=
      congrArg (fun q => ({ s with link := q } : State)) (modEntry_takeKept kept)
    have slots : backoffSlots s.link.contention.collisions draw = k := hk.symm
    refine ⟨fun zero => effects_of_eq rfl live (met.trans ?_), fun some => effects_of_eq rfl live (met.trans ?_)⟩
    · rw [State.backOff, content]
      simp only [slots, if_pos zero]
      rfl
    · rw [State.backOff, content]
      simp only [slots, if_neg some]
      rfl

end Sys2Proof.Proofs.Contention
end

section
/-! PROOFS of O50: the notice in contention aborted, by its class. -/

namespace Sys2Proof.Proofs.Aborts

open Sys2Proof Sys2Proof.Machine Sys2Proof.Proofs.Inputs Sys2Proof.Proofs.Requests Sys2Proof.Proofs.Words
open Sys2Proof.Proofs.LinkRules Sys2Proof.Proofs.Received Sys2Proof.Proofs.Queue Sys2Proof.Proofs.Contention

/-! ### A census that ends -/

/-- The screening of a code with its census over and its slot READY (R5). -/
def censusOver (s : State) (code : Nat) : State :=
  s.modScreening code fun y => { y with phase := .idle, censusTimer := none, sync := .ready, request := none }

theorem endCensus_ready {s : State} {code : Nat} {x : Screening} (found : s.screening code = some x) (ready : x.sync = .ready) :
    s.endCensus code = censusOver s code := by
  simp only [State.endCensus, found]
  cases x.request with
  | none => rfl
  | some ref => exact if_neg (by simp [ready])

theorem endCensus_syncing {s : State} {code : Nat} {x : Screening} {ref : RequestRef} (found : s.screening code = some x)
    (syncing : x.sync = .syncing) (request : x.request = some ref) :
    s.endCensus code = (censusOver s code).complete ref (Status.plain .done).bytes := by
  simp only [State.endCensus, found, request]
  exact if_pos syncing

/-! ### Entries after a freed place -/

/-- A queued entry after a freed place was queued, was in the overflow slot, or is new (R37, R39). -/
theorem mem_placeFreed {s : State} {x : Entry} (h : x ∈ s.placeFreed.link.queue) :
    x ∈ s.link.queue ∨ s.link.overflow = some x ∨ s.link.nextId ≤ x.id := by
  have owed : ∀ (ls : List LaneIx) (u : State), x ∈ (ls.foldl State.takeOwed u).link.queue →
      x ∈ u.link.queue ∨ u.link.nextId ≤ x.id := by
    intro ls
    induction ls with
    | nil => exact fun u h => .inl h
    | cons l ls ih =>
      intro u h
      have step : (∀ y ∈ (u.takeOwed l).link.queue, y ∈ u.link.queue ∨ u.link.nextId ≤ y.id)
          ∧ u.link.nextId ≤ (u.takeOwed l).link.nextId := by
        unfold State.takeOwed
        split
        · split
          · exact ⟨fun y hy => .inl hy, le_rfl⟩
          · refine ⟨fun y hy => ?_, Nat.le_succ _⟩
            rcases List.mem_append.mp hy with hy | hy
            · exact .inl hy
            · exact .inr (by rw [List.mem_singleton.mp hy])
        · exact ⟨fun y hy => .inl hy, le_rfl⟩
      rcases ih _ h with h | h
      · exact step.1 x h
      · exact .inr (step.2.trans h)
  have slot : ∀ k : Link, (∀ y ∈ k.takeOverflow.queue, y ∈ k.queue ∨ k.overflow = some y) ∧ k.takeOverflow.nextId = k.nextId := by
    intro k
    unfold Link.takeOverflow
    split
    next e he =>
      split
      · refine ⟨fun y hy => ?_, rfl⟩
        rcases List.mem_append.mp hy with hy | hy
        · exact .inl hy
        · exact .inr (by rw [he, List.mem_singleton.mp hy])
      · exact ⟨fun y hy => .inl hy, rfl⟩
    · exact ⟨fun y hy => .inl hy, rfl⟩
  rcases owed laneOrder (s.modLink Link.takeOverflow) h with h | h
  · exact ((slot s.link).1 x h).imp_right .inl
  · exact .inr (.inr ((slot s.link).2 ▸ h))

/-! ### The outcome by class -/

/-- The state with the link's state, its abort count and the Ring Interface as an abort has left them. -/
def aborted (s : State) (state : LinkState) (aborts : Nat) (io : Io) : State :=
  { s with io := io, link := { s.link with state := state, aborts := aborts } }

section Outcome

variable {s : State} {e : Entry}

theorem abortOutcome_sale (h : e.notice.isSale = true) : s.abortOutcome e = s.modLink Link.idle := by
  unfold State.abortOutcome
  cases notice : e.notice <;> simp [notice, Notice.isSale] at h
  rfl

theorem abortOutcome_renew (h : e.notice.isRenew = true) (kept : ∀ x ∈ s.link.queue, x.kept = none) :
    s.abortOutcome e
      = s.modLink fun k =>
          { k with
            queue := k.queue.map fun x => if x.id = e.id then { x with cls := .renewDemand } else x
            contention := Contention.none } := by
  unfold State.abortOutcome
  cases notice : e.notice <;> simp [notice, Notice.isRenew] at h
  show { s with link := { s.link with queue := s.link.queue.map _, contention := Contention.none } } = _
  rw [List.map_congr_left (g := fun x => if x.id = e.id then { x with cls := .renewDemand } else x)]
  · rfl
  · intro x hx
    simp [Entry.takeKept, kept x hx]

/-- A notice of any other class leaves the queue and meets its owner (R41). -/
theorem abortOutcome_leaves (sale : e.notice.isSale = false) (renew : e.notice.isRenew = false) :
    s.abortOutcome e = ((s.dropEntry e).noticeLost e.notice e.lane e.tag).placeFreed := by
  unfold State.abortOutcome
  cases notice : e.notice with
  | sale => simp [notice, Notice.isSale] at sale
  | renew => simp [notice, Notice.isRenew] at renew
  | _ => rfl

end Outcome

/-- What a HOLD that is aborted leaves of its claim, the lane's order, the seats and the queue. -/
structure HoldAborted (s : State) (e : Entry) (l : LaneIx) (m : State) : Prop where
  claim : (m.lane l).claim = Claim.blank
  order : (m.lane l).order = (s.lane l).order
  queue : ∀ x ∈ m.link.queue, x.id ≠ e.id ∨ s.link.nextId ≤ x.id ∨ s.link.overflow = some x
  slots : m.slots
    = (s.withSeats (s.lane l).claim.code ((s.lane l).claim.seats.map ClaimSeat.seat) fun st =>
        if st = .claiming l then .free else st).slots

theorem endPick_shape (s : State) (l : LaneIx) (w : WordEnd) :
    ∃ blk io, s.endPick l w = { s.modLane l fun x => { x with block := blk } with io := io } := by
  unfold State.endPick
  split
  · exact endWord_shape s l w
  · exact ⟨_, s.io, (modLane_self (f := fun x => { x with block := (s.lane l).block }) rfl).symm⟩

theorem abortOutcome_hold {s : State} {e : Entry} {l : LaneIx} (hold : e.notice.isHold = true) (lane : e.lane = some l)
    (queued : (s.lane l).claim.state = .queued) : HoldAborted s e l (s.abortOutcome e) := by
  obtain ⟨code, life, seats, notice⟩ : ∃ code life seats, e.notice = .hold code life seats := by
    cases h : e.notice <;> simp [h, Notice.isHold] at hold
    exact ⟨_, _, _, rfl⟩
  have leaves : s.abortOutcome e = (s.dropEntry e |>.claimFails l (s.dropEntry e).link.state.busyCode).placeFreed := by
    rw [abortOutcome_leaves (by simp [notice, Notice.isSale]) (by simp [notice, Notice.isRenew]), notice, lane]
    rfl
  obtain ⟨blk, io, ended⟩ := endPick_shape (((s.dropEntry e).freeClaim l).clearClaim l) l
    (.refused (s.dropEntry e).link.state.busyCode (seatsResidual (s.lane l).claim.seatRefs) [])
  have fails : (s.dropEntry e).claimFails l (s.dropEntry e).link.state.busyCode
      = { (((s.dropEntry e).freeClaim l).clearClaim l).modLane l fun x => { x with block := blk } with io := io } :=
    (if_pos queued).trans ended
  obtain ⟨k, placed, -⟩ := placeFreed_shape ((s.dropEntry e).claimFails l (s.dropEntry e).link.state.busyCode)
  have lanes : (s.abortOutcome e).lane l = { s.lane l with claim := Claim.blank, block := blk } := by
    rw [leaves, placed, fails]
    have cleared : (((s.dropEntry e).freeClaim l).clearClaim l).lane l = { s.lane l with claim := Claim.blank } :=
      State.lane_modLane_same _ l _
    have blocked := State.lane_modLane_same (((s.dropEntry e).freeClaim l).clearClaim l) l fun x => { x with block := blk }
    rw [cleared] at blocked
    exact blocked
  refine ⟨by rw [lanes], by rw [lanes], fun x hx => ?_, ?_⟩
  · rw [leaves] at hx
    rw [fails] at hx
    rcases mem_placeFreed hx with hx | hx | hx
    · exact .inl (by simpa using (List.mem_filter.mp hx).2)
    · exact .inr (.inr hx)
    · exact .inr (.inl hx)
  · rw [leaves, placed, fails]
    show ((s.dropEntry e).freeClaim l).slots = _
    rw [freeClaim_eq, State.mapSeats_eq_withSeats]
    rfl

/-! ### The two ways of an abort -/

/-- The notice in contention is aborted: by its sixteenth collision, which counts, or by a jabber cut-off, which does not. -/
def AbortedBy (s : State) (c : Instr) (e : Entry) (draw aborts : Nat) (state : LinkState) (io : Io) : Prop :=
  c = .jamComplete draw ∧ s.link.contention.phase = .jamming ∧ s.link.contention.collisions = 16
      ∧ aborts = min 3 (s.link.aborts + 1)
      ∧ (s.link.state = .active → 3 ≤ s.link.aborts + 1 → state = .degraded ∧ io = (s.raise (Report.of .linkDegraded .entered)).io)
      ∧ (s.link.state ≠ .active ∨ s.link.aborts + 1 < 3 → state = s.link.state ∧ io = s.io)
    ∨ c = .jabberCutoff ∧ s.link.contention.phase = .sending ∧ aborts = s.link.aborts ∧ state = s.link.state
      ∧ io = (s.raise (jabberReport e.notice)).io

section Ways

variable {s : State} {c : Instr} {e : Entry} {draw aborts : Nat} {state : LinkState} {io : Io}

theorem countAbort_eq (haborts : aborts = min 3 (s.link.aborts + 1))
    (third : s.link.state = .active → 3 ≤ s.link.aborts + 1 →
      state = .degraded ∧ io = (s.raise (Report.of .linkDegraded .entered)).io)
    (fewer : s.link.state ≠ .active ∨ s.link.aborts + 1 < 3 → state = s.link.state ∧ io = s.io) :
    s.countAbort = aborted s state aborts io := by
  unfold State.countAbort
  dsimp only
  have count : (s.modLink fun k => { k with aborts := min Config.abortLimit (k.aborts + 1) }).link.aborts = aborts := haborts.symm
  rw [count, show Config.abortLimit = 3 from rfl]
  by_cases h : aborts = 3 ∧ s.link.state = .active
  · obtain ⟨degraded, raised⟩ := third h.2 (by omega)
    rw [if_pos h, aborted, degraded, raised, haborts]
    rfl
  · obtain ⟨same, quiet⟩ := fewer (by
      by_cases active : s.link.state = .active
      · exact .inr (by
          have : aborts ≠ 3 := fun three => h ⟨three, active⟩
          omega)
      · exact .inl active)
    rw [if_neg h, aborted, same, quiet, haborts]
    rfl

/-- What the outcome of the class is makes the state after either way of an abort. -/
theorem AbortedBy.effects (h : AbortedBy s c e draw aborts state io) (live : Live s) (current : s.link.current = some e)
    (stays : e.leaving = false) (g : State → State) (outcome : ∀ a b i, (aborted s a b i).abortOutcome e = g (aborted s a b i)) :
    (c = .jamComplete draw ∧ Effects c s (g (aborted s state aborts io)))
      ∨ (c = .jabberCutoff ∧ state = s.link.state ∧ aborts = s.link.aborts ∧ io = (s.raise (jabberReport e.notice)).io
        ∧ Effects c s ((g s).raise (jabberReport e.notice))) := by
  rcases h with ⟨rfl, jamming, full, haborts, third, fewer⟩ | ⟨rfl, sending, haborts, hstate, hio⟩
  · have limit : Config.collisionLimit ≤ s.link.contention.collisions := full.ge
    refine .inl ⟨rfl, effects_of_eq rfl live ?_⟩
    rw [← outcome, ← countAbort_eq haborts third fewer]
    simp only [State.jamEnd, jamming, current, stays, limit, if_true, Bool.false_eq_true, if_false]
  · have own : s.abortOutcome e = g s := outcome s.link.state s.link.aborts s.io
    refine .inr ⟨rfl, hstate, haborts, hio, effects_of_eq rfl live ?_⟩
    rw [← own]
    simp only [State.jabber, sending, current, stays, if_true, Bool.false_eq_true, if_false]

/-- An outcome of the link alone. -/
theorem AbortedBy.effects_link (h : AbortedBy s c e draw aborts state io) (live : Live s) (current : s.link.current = some e)
    (stays : e.leaving = false) (f : Link → Link)
    (outcome : ∀ a b i, (aborted s a b i).abortOutcome e = (aborted s a b i).modLink f) :
    Effects c s { s with io := io, link := f { s.link with state := state, aborts := aborts } } := by
  rcases h.effects live current stays (fun u => u.modLink f) outcome with ⟨-, effect⟩ | ⟨-, rfl, rfl, rfl, effect⟩
  · exact effect
  · exact effect

end Ways

/-- Settles O50: the state as the abort has left it, then the outcome of the class, and at a cut-off the report. -/
theorem aborts : Obligations.Aborts := by
  intro s c e draw aborts state io live current stays kept hc
  have by_ : AbortedBy s c e draw aborts state io := hc
  have linked := by_.effects_link live current stays
  refine ⟨fun sale => linked Link.idle fun a b i => abortOutcome_sale sale, fun renew => linked (fun k =>
    { k with
      queue := k.queue.map fun x => if x.id = e.id then { x with cls := .renewDemand } else x
      contention := Contention.none }) fun a b i => abortOutcome_renew (s := aborted s a b i) renew kept, fun owed silent =>
    linked (fun k => (k.drop e.id).idle) fun a b i => ?_, fun l hold lane queued => ?_,
    fun left report owed hleft hreport => ⟨fun code claimant seats unsent notice hunsent => ?_, fun code x u notice found hu => ?_⟩⟩
  · rcases silent with ⟨x, y, notice⟩ | ⟨x, y, z, notice⟩ | ⟨x, y, z, w, v, notice⟩
    all_goals
      rw [abortOutcome_leaves (by simp [notice, Notice.isSale]) (by simp [notice, Notice.isRenew]), notice]
      exact placeFreed_nothingOwed owed
  · have outcome (a : LinkState) (b : Nat) (i : Io) : HoldAborted s e l ((aborted s a b i).abortOutcome e) := by
      obtain ⟨claim, order, queue, slots⟩ := abortOutcome_hold (s := aborted s a b i) hold lane queued
      exact ⟨claim, order, queue, slots⟩
    have free {m : State} (h : HoldAborted s e l m) (r : SeatRef) (hr : r ∈ (s.lane l).claim.seats.map ClaimSeat.seat)
        (claiming : s.seat (s.lane l).claim.code r = some (.claiming l)) : m.seat (s.lane l).claim.code r = some .free := by
      rw [seat_congr h.slots, ← State.mapSeats_eq_withSeats]
      exact freed_free (State.seatsBecome_mapSeats s _ _ _) hr claiming
    rcases by_.effects live current stays (fun u => u.abortOutcome e) (fun _ _ _ => rfl) with ⟨-, effect⟩ | ⟨-, rfl, rfl, -, effect⟩
    · have h := outcome state aborts io
      exact ⟨_, effect, h.claim, h.order, h.queue, h.slots, free h⟩
    · have h : HoldAborted s e l ((s.abortOutcome e).raise (jabberReport e.notice)) := by
        obtain ⟨claim, order, queue, slots⟩ := abortOutcome_hold hold lane queued
        exact ⟨claim, order, queue, slots⟩
      exact ⟨_, effect, h.claim, h.order, h.queue, h.slots, free h⟩
  · have outcome (a : LinkState) (b : Nat) (i : Io) :
        (aborted s a b i).abortOutcome e = ((aborted s a b i).dropEntry e).raise unsent := by
      rw [abortOutcome_leaves (by simp [notice, Notice.isSale]) (by simp [notice, Notice.isRenew]), notice, hunsent]
      exact placeFreed_nothingOwed owed
    rcases by_.effects live current stays (fun u => (u.dropEntry e).raise unsent) outcome with ⟨rfl, effect⟩ | ⟨rfl, rfl, rfl, -, effect⟩
    · refine ⟨fun _ => ?_, nofun⟩
      rw [hleft]
      exact effect
    · refine ⟨nofun, fun _ => ?_⟩
      rw [hleft, hreport]
      exact effect
  · have outcome (a : LinkState) (b : Nat) (i : Io) :
        (aborted s a b i).abortOutcome e = (((aborted s a b i).dropEntry e).endCensus code).placeFreed := by
      rw [abortOutcome_leaves (by simp [notice, Notice.isSale]) (by simp [notice, Notice.isRenew]), notice]
      rfl
    rw [hu, hleft]
    refine ⟨fun ready => ?_, fun ref syncing request => ?_⟩
    · rcases by_.effects live current stays (fun u => censusOver (u.dropEntry e) code) (fun a b i => by
        rw [outcome, endCensus_ready (s := (aborted s a b i).dropEntry e) found ready]
        exact placeFreed_nothingOwed owed) with ⟨-, effect⟩ | ⟨-, rfl, rfl, rfl, effect⟩
      · exact effect
      · exact effect
    · rcases by_.effects live current stays
        (fun u => (censusOver (u.dropEntry e) code).complete ref (Status.plain .done).bytes) (fun a b i => by
          rw [outcome, endCensus_syncing (s := (aborted s a b i).dropEntry e) found syncing request]
          exact placeFreed_nothingOwed owed) with ⟨rfl, effect⟩ | ⟨rfl, rfl, rfl, -, effect⟩
      · exact ⟨fun _ => effect, nofun⟩
      · refine ⟨nofun, fun _ => ?_⟩
        rw [hreport]
        exact effect

end Sys2Proof.Proofs.Aborts
end

section
/-! PROOFS of O51: the transmit end of a notice. -/

namespace Sys2Proof.Proofs.TransmitEnd

open Sys2Proof Sys2Proof.Machine Sys2Proof.Proofs.Inputs Sys2Proof.Proofs.Requests Sys2Proof.Proofs.Words
open Sys2Proof.Proofs.LinkRules Sys2Proof.Proofs.Received Sys2Proof.Proofs.Queue Sys2Proof.Proofs.Contention

/-- The link once a notice has been transmitted: its entry gone, contention over and the abort count 0 (R23, R29). -/
def sent (k : Link) (e : Entry) : Link :=
  { k with queue := k.queue.filter fun x => x.id ≠ e.id, contention := Contention.none, aborts := 0 }

section Sent

variable {s : State} {e : Entry} {instant : Nat}

theorem transmitted_active (sending : s.link.contention.phase = .sending) (current : s.link.current = some e)
    (active : s.link.state = .active) :
    s.transmitted instant
      = (((({ s with link := sent s.link e } : State).transmitEnd e instant).admitKept e).placeFreed) := by
  have degraded : ¬ s.link.state = .degraded := by simp [active]
  have cleared : (s.dropEntry e).clearAborts = { s with link := sent s.link e } := if_neg degraded
  simp only [State.transmitted, sending, if_true, current, cleared]

theorem transmitted_degraded (sending : s.link.contention.phase = .sending) (current : s.link.current = some e)
    (degraded : s.link.state = .degraded) :
    s.transmitted instant
      = (((({ s.raise (Report.of .linkDegraded .cleared) with link := { sent s.link e with state := .active } } : State).transmitEnd e
          instant).admitKept e).placeFreed) := by
  have cleared : (s.dropEntry e).clearAborts
      = { s.raise (Report.of .linkDegraded .cleared) with link := { sent s.link e with state := .active } } := if_pos degraded
  simp only [State.transmitted, sending, if_true, current, cleared]

end Sent

theorem admitKept_none {s : State} {e : Entry} (h : e.kept = none) : s.admitKept e = s := by
  simp only [State.admitKept, h]

theorem transmitEnd_plain {e : Entry} (hold : e.notice.isHold = false) (renew : e.notice.isRenew = false)
    (sale : e.notice.isSale = false) (call : ∀ code, e.notice ≠ .censusCall code) (s : State) (instant : Nat) :
    s.transmitEnd e instant = s := by
  unfold State.transmitEnd
  cases notice : e.notice with
  | hold => simp [notice, Notice.isHold] at hold
  | renew => simp [notice, Notice.isRenew] at renew
  | sale => simp [notice, Notice.isSale] at sale
  | censusCall code => exact absurd notice (call code)
  | _ => rfl

theorem transmitEnd_hold {e : Entry} {l : LaneIx} (hold : e.notice.isHold = true) (lane : e.lane = some l) (s : State) (instant : Nat) :
    s.transmitEnd e instant = s.holdTransmitted l instant := by
  unfold State.transmitEnd
  cases notice : e.notice <;> simp [notice, Notice.isHold] at hold
  simp only [lane]

theorem transmitEnd_sale {e : Entry} {l : LaneIx} (sale : e.notice.isSale = true) (lane : e.lane = some l) (s : State) (instant : Nat) :
    s.transmitEnd e instant = s.saleTransmitted l e.id := by
  unfold State.transmitEnd
  cases notice : e.notice <;> simp [notice, Notice.isSale] at sale
  simp only [lane]

/-- The end of a RENEW leaves the link. -/
theorem transmitEnd_renew_link {e : Entry} (renew : e.notice.isRenew = true) (s : State) (instant : Nat) :
    (s.transmitEnd e instant).link = s.link := by
  unfold State.transmitEnd
  cases notice : e.notice <;> simp [notice, Notice.isRenew] at renew
  cases e.lane with
  | none => rfl
  | some l =>
    show (s.renewTransmitted l e.tag _ instant).link = s.link
    unfold State.renewTransmitted
    split <;> rfl

/-! ### The place freed -/

theorem takeOwed_not {s : State} {l : LaneIx} (h : s.link.owed.get l = false) : s.takeOwed l = s := by
  simp [State.takeOwed, h]

theorem foldl_takeOwed_none (ls : List LaneIx) (s : State) (none : ∀ j ∈ ls, s.link.owed.get j = false) :
    ls.foldl State.takeOwed s = s := by
  induction ls with
  | nil => rfl
  | cons j js ih =>
    rw [List.foldl_cons, takeOwed_not (none j List.mem_cons_self)]
    exact ih fun i hi => none i (List.mem_cons_of_mem j hi)

/-- Of the renewals owed one alone is there to take the place (R39). -/
theorem foldl_takeOwed {s : State} {l : LaneIx} (ls : List LaneIx) (nodup : ls.Nodup) (mem : l ∈ ls)
    (others : ∀ j, j ≠ l → s.link.owed.get j = false) (after : ∀ j, (s.takeOwed l).link.owed.get j = false) :
    ls.foldl State.takeOwed s = s.takeOwed l := by
  obtain ⟨before, later, rfl⟩ := List.append_of_mem mem
  have fresh : ∀ j ∈ before, j ≠ l := fun j hj e => (List.nodup_append.mp nodup).2.2 j hj l List.mem_cons_self e
  rw [List.foldl_append, foldl_takeOwed_none before s fun j hj => others j (fresh j hj), List.foldl_cons]
  exact foldl_takeOwed_none later _ fun j _ => after j

/-- The SALE of the overflow slot takes the place when no renewal is owed (R37). -/
theorem placeFreed_overflow {s : State} {o : Entry} (overflow : s.link.overflow = some o) (room : s.link.queue.length < 32)
    (owed : ∀ l, s.link.owed.get l = false) :
    s.placeFreed = s.modLink fun k => { k with queue := k.queue ++ [o], overflow := none } := by
  have taken : s.modLink Link.takeOverflow = s.modLink fun k => { k with queue := k.queue ++ [o], overflow := none } := by
    simp only [State.modLink, Link.takeOverflow, overflow]
    exact congrArg (fun k => { s with link := k }) (if_pos room)
  rw [State.placeFreed, taken]
  exact foldl_takeOwed_none laneOrder _ fun j _ => owed j

/-- With no SALE in the overflow slot the one renewal owed takes the place, as RENEW-demand (R39). -/
theorem placeFreed_owed {s : State} {l : LaneIx} {code : Nat} (overflow : s.link.overflow = none) (room : s.link.queue.length < 32)
    (owed : s.link.owed.get l = true) (others : ∀ j, j ≠ l → s.link.owed.get j = false)
    (named : (s.lane l).order.code = some code) (seats : s.renewalSeats l ≠ []) :
    s.placeFreed = s.modLink fun k =>
      { k.withEntry (.renew code s.cfg.holdLifetime (s.renewalSeats l)) .renewDemand (some l) (s.lane l).order.tag with
        owed := k.owed.set l false } := by
  have none : s.modLink Link.takeOverflow = s := by simp only [State.modLink, Link.takeOverflow, overflow]
  have takes : (s.link.owed.get l && s.link.overflow.isNone && decide (s.link.queue.length < Config.queueSize)) = true := by
    simp [owed, overflow, show s.link.queue.length < Config.queueSize from room]
  have taken : s.takeOwed l = s.modLink fun k =>
      { k.withEntry (.renew code s.cfg.holdLifetime (s.renewalSeats l)) .renewDemand (some l) (s.lane l).order.tag with
        owed := k.owed.set l false } := by
    rw [State.takeOwed, if_pos takes, if_neg (by simpa using seats), State.renewNotice, named]
    rfl
  rw [State.placeFreed, none]
  refine (foldl_takeOwed laneOrder (by decide) (Requests.mem_laneOrder l) others fun j => ?_).trans taken
  rw [taken]
  show (s.link.owed.set l false).get j = false
  rw [PerLane.get_set]
  split
  · rfl
  next h => exact others j h

/-! ### The ends by class -/

theorem seat_link (s : State) (k : Link) (c : Nat) (r : SeatRef) : ({ s with link := k } : State).seat c r = s.seat c r := rfl

/-- The end of a WITHDRAWING claim whose HOLD was transmitted: its seats are FREE and announced (R64). -/
theorem endWithdrawal_released {s : State} {l : LaneIx} (waits : ∀ w, s.runningWord l ≠ some (w, .waiting))
    (seats : (s.lane l).claim.seats ≠ []) (room : HasRoom 1 s.link) :
    s.endWithdrawal l true
      = ((s.freeClaim l).clearClaim l).modLink fun k =>
          k.withEntry (.release (s.lane l).claim.code (planOrder ((s.lane l).claim.seats.map ClaimSeat.seat))) .release (some l)
            (s.lane l).claim.tag := by
  have named : ((s.lane l).claim.seats.map ClaimSeat.seat).isEmpty = false := by simpa using seats
  have offered : ((s.freeClaim l).clearClaim l).offerRelease l (s.lane l).claim.tag (s.lane l).claim.code
        ((s.lane l).claim.seats.map ClaimSeat.seat)
      = ((s.freeClaim l).clearClaim l).modLink fun k =>
          k.withEntry (.release (s.lane l).claim.code (planOrder ((s.lane l).claim.seats.map ClaimSeat.seat))) .release (some l)
            (s.lane l).claim.tag := by
    rw [State.offerRelease, if_neg (by simp [named])]
    exact offer_room (s := (s.freeClaim l).clearClaim l) (cls := .release) room _ rfl _ _
  unfold State.endWithdrawal
  simp only [if_true, Claim.seatRefs, offered]
  split
  next a es runs =>
    have same : ((s.freeClaim l).clearClaim l).runningWord l = s.runningWord l := runningWord_clearClaim (s.freeClaim l) l
    exact absurd (same.symm.trans runs) (waits _)
  · rfl

/-- The renewal seats of an order that holds none are none. -/
theorem renewalSeats_none {s : State} {l : LaneIx} (sale : (s.lane l).sale = none)
    (none : ∀ code r, (s.lane l).order.code = some code → s.seat code r ≠ some (.held l)) : s.renewalSeats l = [] := by
  unfold State.renewalSeats
  rw [sale]
  cases h : (s.lane l).order.code with
  | none => rfl
  | some code =>
    show planOrder _ = []
    rw [List.filter_eq_nil_iff.mpr fun r _ held => none code r h (seatHeld_iff.mp held)]
    rfl

/-- A lane's timer that stops, where its order has no renewal seat, no RENEW queued and none owed (R61). -/
theorem renewalShrunk_none {s : State} {l : LaneIx} (seats : s.renewalSeats l = [])
    (renew : s.link.renewOf l (s.lane l).order.tag = none) (owed : s.link.owed.get l = false) :
    s.renewalShrunk l = s.modLane l fun y => { y with renewal := none } := by
  have lane : (s.modLane l fun y => { y with renewal := none }).lane l = { s.lane l with renewal := none } := State.lane_modLane_same ..
  have seats' : (s.modLane l fun y => { y with renewal := none }).renewalSeats l = [] := by
    rw [← seats]
    simp only [State.renewalSeats, lane]
    rfl
  have offered : (s.modLane l fun y => { y with renewal := none }).offerRenew l .renewNormal
      = s.modLane l fun y => { y with renewal := none } := by
    have renew' : (s.modLane l fun y => { y with renewal := none }).link.renewOf l
        ((s.modLane l fun y => { y with renewal := none }).lane l).order.tag = none := by rw [lane]; exact renew
    simp only [State.offerRenew, renew', seats', List.isEmpty_nil, if_true]
  have same : s.link.owed.set l false = s.link.owed := by rw [← owed, PerLane.set_get]
  rw [State.renewalShrunk, if_pos (by rw [seats]; rfl), offered]
  show { s.modLane l _ with link := { s.link with owed := s.link.owed.set l false } } = _
  rw [same]
  rfl

/-- The transmit end of a SALE of an order that holds no seat, with no RENEW queued (R62). -/
theorem saleTransmitted_done {s : State} {l : LaneIx} {p : SalePending} (pending : (s.lane l).sale = some p)
    (none : ∀ code r, (s.lane l).order.code = some code → s.seat code r ≠ some (.held l))
    (renews : ∀ x ∈ s.link.queue, x.notice.isRenew = false) (owed : s.link.owed.get l = false) :
    s.saleTransmitted l p.entry = s.modLane l fun y => { y with sale := .none, renewal := .none } := by
  have matching : (s.lane l).sale.map SalePending.entry = some p.entry := by rw [pending]; rfl
  have lane : (s.modLane l fun x => { x with sale := .none }).lane l = { s.lane l with sale := .none } := State.lane_modLane_same ..
  have seats : (s.modLane l fun x => { x with sale := .none }).renewalSeats l = [] :=
    renewalSeats_none (by rw [lane]) (by rw [lane]; exact none)
  have renew : s.link.renewOf l ((s.modLane l fun x => { x with sale := .none }).lane l).order.tag = .none :=
    List.find?_eq_none.mpr fun x hx => by simp [renews x hx]
  rw [State.saleTransmitted, if_pos matching, renewalShrunk_none seats renew owed, modLane_modLane]

/-- The transmit end of the HOLD of a WITHDRAWING claim (R31, R64). -/
theorem holdTransmitted_withdrawing {s : State} {l : LaneIx} {instant : Nat} (withdrawing : (s.lane l).claim.state = .withdrawing) :
    s.holdTransmitted l instant = s.endWithdrawal l true := by
  simp only [State.holdTransmitted, withdrawing]

/-- The transmit end of the HOLD of a QUEUED claim (R48). -/
theorem holdTransmitted_queued {s : State} {l : LaneIx} {instant : Nat} (queued : (s.lane l).claim.state = .queued) :
    s.holdTransmitted l instant
      = s.modLane l fun y =>
          { y with
            claim :=
              { y.claim with
                state := .contest
                holdEnd := some ⟨s.house.clock, instant⟩
                contestTimer := some s.cfg.contestWindow } } := by
  simp only [State.holdTransmitted, queued]

/-- The seats of a WITHDRAWING claim that ends, with its RELEASE queued. -/
theorem released_seatsBecome (s : State) (l : LaneIx) (f : Link → Link) :
    SeatsBecome ((s.modLink f).modLane l fun y => { y with claim := Claim.blank }) (((s.freeClaim l).clearClaim l).modLink f)
      (s.lane l).claim.code ((s.lane l).claim.seats.map ClaimSeat.seat) (fun st => if st = .claiming l then .free else st) :=
  freed_seatsBecome (s.modLink f) l

/-- Settles O51: the entry gone and the count 0, then the end by class, content kept aside, and the place freed. -/
theorem noticeTransmitted : Obligations.NoticeTransmitted := by
  refine ⟨fun s e instant k live sending current active hk => ?_, fun s e instant k live sending current kept owed hk => ?_⟩
  · obtain rfl : sent s.link e = k := hk.symm
    have effect : ∀ m, (((({ s with link := sent s.link e } : State).transmitEnd e instant).admitKept e).placeFreed) = m →
        Effects (.noticeTransmitted instant) s m := fun m h =>
      effects_of_eq rfl live ((transmitted_active sending current active).trans h)
    refine ⟨fun l kept owed hold lane withdrawing seats room waits => ?_, fun c kept owed renew => ?_,
      fun kept hold renew sale call room => ⟨fun o overflow owed => effect _ ?_, fun l code overflow owed others named seats => effect _ ?_⟩⟩
    · have ended := endWithdrawal_released (s := { s with link := sent s.link e }) waits seats ⟨.inl active, room⟩
      have become := released_seatsBecome { s with link := sent s.link e } l fun k =>
          k.withEntry (.release (s.lane l).claim.code (planOrder ((s.lane l).claim.seats.map ClaimSeat.seat))) .release (some l)
            (s.lane l).claim.tag
      refine ⟨_, effect _ ?_, become, fun r hr claiming => freed_free become hr claiming⟩
      rw [transmitEnd_hold hold lane, holdTransmitted_withdrawing (s := { s with link := sent s.link e }) withdrawing, ended,
        admitKept_none kept]
      exact placeFreed_nothingOwed owed
    · obtain ⟨t, completes, -, closed⟩ := effect _ rfl
      refine ⟨t, completes, ?_⟩
      have same := transmitEnd_renew_link renew ({ s with link := sent s.link e } : State) instant
      have admitted : ((({ s with link := sent s.link e } : State).transmitEnd e instant).admitKept e).link
          = (sent s.link e).enqueue c.notice c.cls e.lane e.tag := by
        simp only [State.admitKept, kept]
        exact congrArg (fun q : Link => q.enqueue c.notice c.cls e.lane e.tag) same
      have free : NothingOwed ((({ s with link := sent s.link e } : State).transmitEnd e instant).admitKept e).link := by
        rw [admitted]
        exact owed
      rw [closed.link, placeFreed_nothingOwed free, admitted]
      rfl
    · rw [transmitEnd_plain hold renew sale call, admitKept_none kept]
      exact placeFreed_overflow (s := { s with link := sent s.link e }) overflow room owed
    · rw [transmitEnd_plain hold renew sale call, admitKept_none kept]
      exact placeFreed_owed (s := { s with link := sent s.link e }) overflow room owed others named seats
  · obtain rfl : sent s.link e = k := hk.symm
    have effect (active : s.link.state = .active) (m : State)
        (h : ({ s with link := sent s.link e } : State).transmitEnd e instant = m) (same : m.link = sent s.link e) :
        Effects (.noticeTransmitted instant) s m := by
      refine effects_of_eq rfl live ((transmitted_active sending current active).trans ?_)
      rw [h, admitKept_none kept]
      exact placeFreed_nothingOwed (by rw [same]; exact owed)
    refine ⟨fun ⟨hold, renew, sale, call⟩ => ⟨fun active => effect active _ (transmitEnd_plain hold renew sale call _ _) rfl,
      fun degraded => effects_of_eq rfl live ((transmitted_degraded sending current degraded).trans ?_)⟩, fun active =>
      ⟨fun l hold lane queued => effect active _ ?_ rfl, fun l code life seats notice lane tag running =>
        ⟨fun all => effect active _ ?_ rfl, fun missing => effect active _ ?_ rfl⟩,
        fun l p sale lane pending id none renews => effect active _ ?_ rfl, fun code call stays => effect active _ ?_ rfl⟩⟩
    · rw [transmitEnd_plain hold renew sale call, admitKept_none kept]
      exact placeFreed_nothingOwed owed
    · rw [transmitEnd_hold hold lane]
      exact holdTransmitted_queued (s := { s with link := sent s.link e }) queued
    · simp only [State.transmitEnd, notice, lane]
      exact if_pos ⟨tag.symm, Option.isSome_iff_ne_none.mpr running, List.all_eq_true.mpr fun r hr => by simpa using all r hr⟩
    · simp only [State.transmitEnd, notice, lane]
      obtain ⟨r, hr, out⟩ := missing
      exact if_neg fun h => out (by simpa using List.all_eq_true.mp h.2.2 r hr)
    · rw [transmitEnd_sale sale lane, ← id]
      refine saleTransmitted_done (s := { s with link := sent s.link e }) pending none (fun x hx => ?_) (owed.2 l)
      obtain ⟨queued, other⟩ := List.mem_filter.mp hx
      exact renews x queued (by simpa using other)
    · simp only [State.transmitEnd, call, stays]
      rfl

end Sys2Proof.Proofs.TransmitEnd
end

section
/-! PROOFS of O52: the census window, the expiry of a PEER-HELD seat, and the end of a contest. -/

namespace Sys2Proof.Proofs.SeatTimers

open Sys2Proof Sys2Proof.Machine Sys2Proof.Proofs.Inputs Sys2Proof.Proofs.Requests Sys2Proof.Proofs.Words
open Sys2Proof.Proofs.LinkRules Sys2Proof.Proofs.Received Sys2Proof.Proofs.LineWords Sys2Proof.Proofs.Closing
open Sys2Proof.Proofs.Aborts

theorem censusWindow_eq {s : State} {i : Nat} {x : Screening} (found : s.slot i = some x) (listening : x.phase = .listening)
    (timer : x.censusTimer ≠ none) : s.censusWindow i = s.endCensus x.code := by
  simp only [State.censusWindow, found]
  exact if_pos ⟨listening, Option.isSome_iff_ne_none.mpr timer⟩

theorem peerExpiry_eq {s : State} {i : Nat} {x : Screening} {r : SeatRef} (found : s.slot i = some x) :
    s.peerExpiry i r = s.mapSeats x.code [r] (SeatState.expire s.house.clock) := by
  simp only [State.peerExpiry, found]

/-- A lane whose CONTEST claim is confirmed (R52, R57, R78, R88). -/
def confirmedLane (s : State) (h : TransmitEnd) (x : Lane) : Lane :=
  { x with
    attendance := if x.order.state = .empty then some (s.house.clock + s.cfg.attendanceTimeout) else x.attendance
    order :=
      { x.order with
        state := .opened
        quoteCurrent := false
        seatLines := x.order.seatLines ++ x.claim.seats.map fun e => ⟨e.seat, e.type, none, false⟩
        screening := x.order.screening.or (some ⟨x.claim.slot, x.claim.code⟩) }
    claim := { x.claim with state := .confirmed, contestTimer := none }
    renewal := x.renewal.or (some ⟨h, 0⟩) }

theorem runningWord_congr {s t : State} {l : LaneIx} (h : (t.lane l).block = (s.lane l).block) :
    t.runningWord l = s.runningWord l := by
  simp only [State.runningWord, h]

/-- The PICK that runs and waits for its claim ends. -/
theorem endPick_runs {s : State} {l : LaneIx} {code : Nat} {es : List ClaimSeat}
    (runs : s.runningWord l = some (.pick code es, .taken)) (w : WordEnd) : s.endPick l w = s.endWord l w := by
  simp only [State.endPick, runs]

/-- With no RENEW of the order queued, a confirmed claim changes its lane, its seats and the word that runs. -/
theorem confirmClaim_eq {s : State} {l : LaneIx} {h : TransmitEnd} {code : Nat} {es : List ClaimSeat}
    (holdEnd : (s.lane l).claim.holdEnd = some h) (runs : s.runningWord l = some (.pick code es, .taken))
    (tag : (s.lane l).order.tag.isSome = true) (renew : s.link.renewOf l (s.lane l).order.tag = none) :
    s.confirmClaim l
      = ((s.mapSeats (s.lane l).claim.code (s.lane l).claim.seatRefs fun st => if st.claimedBy l then .held l else st).modLane l
          (confirmedLane s h)).endWord l .done := by
  have lined := linesChanged_modOrder
    (s := s.mapSeats (s.lane l).claim.code (s.lane l).claim.seatRefs fun st => if st.claimedBy l then .held l else st) (l := l)
    (f := fun o =>
      { o with
        seatLines := o.seatLines ++ (s.lane l).claim.seats.map fun e => ⟨e.seat, e.type, none, false⟩
        screening := o.screening.or (some ⟨(s.lane l).claim.slot, (s.lane l).claim.code⟩) }) tag rfl
  refine Eq.trans ?_ (endPick_runs ((runningWord_congr (by rw [State.lane_modLane_same]; rfl)).trans runs) _)
  unfold State.confirmClaim
  simp only [lined, modLane_modLane]
  refine congrArg (State.endPick · l .done) ?_
  cases renewal : (s.lane l).renewal with
  | none =>
    simp only
    refine modLane_congr ?_
    simp only [lane_mapSeats, confirmedLane, holdEnd, renewal]
    rfl
  | some r =>
    simp only [State.lane_modLane_same]
    rw [if_neg (by
      show ¬ (s.link.renewOf l (s.lane l).order.tag).isSome = true
      simp [renew])]
    refine modLane_congr ?_
    simp only [lane_mapSeats, confirmedLane, renewal]
    rfl

/-- Settles O52: each timer that runs meets its end. -/
theorem seatTimers : Obligations.SeatTimers := by
  refine ⟨fun s u i x live slot found listening timer hu => ?_, fun s i x r live slot => ?_,
    fun s l c o code es h live hc ho contest timer holdEnd runs tag renew => ?_⟩
  · have met := censusWindow_eq (slot_eq_some.mpr slot) listening timer
    have over_ : u = censusOver s x.code := hu
    rw [over_]
    exact ⟨fun ready => effects_of_eq rfl live (met.trans (endCensus_ready found ready)), fun ref syncing request =>
      effects_of_eq rfl live (met.trans (endCensus_syncing found syncing request))⟩
  · refine ⟨_, effects_of_eq rfl live (peerExpiry_eq (slot_eq_some.mpr slot)), seatsBecome_of_mapSeats fun st => ?_⟩
    cases st <;> rfl
  · subst hc ho
    have met : s.contestEnd l = s.confirmClaim l := if_pos ⟨contest, Option.isSome_iff_ne_none.mpr timer⟩
    have seats := State.seatsBecome_mapSeats s (s.lane l).claim.code (s.lane l).claim.seatRefs fun st =>
      if st.claimedBy l then .held l else st
    have own := State.lane_modLane_same (s.mapSeats (s.lane l).claim.code (s.lane l).claim.seatRefs fun st =>
      if st.claimedBy l then .held l else st) l (confirmedLane s h)
    refine ⟨_, effects_of_eq rfl live (met.trans (confirmClaim_eq holdEnd runs tag renew)), by rw [own]; rfl, by rw [own]; rfl,
      by rw [own]; rfl, by rw [own]; rfl, by rw [own]; rfl, fun k hk => lane_modLane_other hk _, fun e he claiming => ?_,
      fun r hr => ?_, ?_⟩
    · refine (seats.seats e.seat).trans ?_
      rw [claiming]
      simp [SeatState.claimedBy, Claim.seatRefs, List.mem_map_of_mem (f := ClaimSeat.seat) he]
    · refine (seats.seats r).trans ?_
      simp [show r ∉ (s.lane l).claim.seatRefs from hr]
    · show (s.mapSeats _ _ _).slots = _
      rw [State.mapSeats_eq_withSeats]
      simp [SeatState.claimedBy, Claim.seatRefs]

end Sys2Proof.Proofs.SeatTimers
end

section
/-! PROOFS: what a lane's order gives up. A release of its seats and its claim, its renewal when seats leave it, and its return
to EMPTY: what they leave of everything else, and what they come to while the queue has room. -/

namespace Sys2Proof.Proofs.GivingUp

open Sys2Proof Sys2Proof.Machine Sys2Proof.Proofs.Requests Sys2Proof.Proofs.Words Sys2Proof.Proofs.LinkRules
open Sys2Proof.Proofs.Received Sys2Proof.Proofs.SeatTimers

/-! ### Places that are spoken for -/

/-- The link is ACTIVE or DEGRADED, and its queue has room for `n` entries beside those queued, the SALE of the overflow slot and
the renewals owed. -/
def HasSpare (n : Nat) (k : Link) : Prop :=
  (k.state = .active ∨ k.state = .degraded)
    ∧ k.queue.length + (if k.overflow.isSome then 1 else 0) + laneOrder.countP (fun j => k.owed.get j) + n ≤ 32

theorem HasSpare.mono {n m : Nat} {k : Link} (h : HasSpare n k) (le : m ≤ n) : HasSpare m k := ⟨h.1, by have := h.2; omega⟩

theorem HasSpare.hasRoom {n : Nat} {k : Link} (h : HasSpare n k) : HasRoom n k := ⟨h.1, by have := h.2; omega⟩

/-- At most five places are spoken for. -/
theorem hasSpare_of_open {k : Link} (h : QueueOpen k) : HasSpare 4 k := by
  have owed : laneOrder.countP (fun j => k.owed.get j) ≤ 4 := List.countP_le_length
  have slot : (if k.overflow.isSome then 1 else 0) ≤ 1 := by split <;> omega
  exact ⟨h.1, by have := h.2; omega⟩

theorem countP_owed_clear (owed : PerLane Bool) (l : LaneIx) :
    laneOrder.countP (fun j => (owed.set l false).get j) + (if owed.get l then 1 else 0) = laneOrder.countP fun j => owed.get j := by
  obtain ⟨a, b, c, d⟩ := owed
  fin_cases l <;> cases a <;> cases b <;> cases c <;> cases d <;> rfl

/-- Clearing an owed mark speaks for no place more. -/
theorem HasSpare.clearOwed {n : Nat} {k : Link} (h : HasSpare n k) (l : LaneIx) : HasSpare n { k with owed := k.owed.set l false } := by
  have count := countP_owed_clear k.owed l
  refine ⟨h.1, ?_⟩
  have := h.2
  show k.queue.length + (if k.overflow.isSome then 1 else 0) + laneOrder.countP (fun j => (k.owed.set l false).get j) + n ≤ 32
  omega

theorem HasSpare.enter {n : Nat} {k : Link} (h : HasSpare (n + 1) k) (m : Notice) (cls : Machine.Class) (l : Option LaneIx)
    (tag : Option Nat) : HasSpare n (k.withEntry m cls l tag) := by
  refine ⟨h.1, ?_⟩
  have := h.2
  show (k.queue ++ [_]).length + (if k.overflow.isSome then 1 else 0) + laneOrder.countP (fun j => k.owed.get j) + n ≤ 32
  simp only [List.length_append, List.length_singleton]
  omega

/-- A queue that is no longer and nothing more that waits. -/
theorem HasSpare.shorter {n : Nat} {k j : Link} (h : HasSpare n k) (state : j.state = k.state)
    (queue : j.queue.length ≤ k.queue.length) (overflow : j.overflow = k.overflow) (owed : j.owed = k.owed) : HasSpare n j :=
  ⟨state ▸ h.1, by have := h.2; rw [overflow, owed]; omega⟩

/-! ### The link alone -/

/-- Only the link has changed, and no more of its places are spoken for. -/
def LinkOnly (s t : State) : Prop := ∃ k, t = { s with link := k } ∧ ∀ n, HasSpare n s.link → HasSpare n k

theorem LinkOnly.refl (s : State) : LinkOnly s s := ⟨s.link, rfl, fun _ h => h⟩

theorem LinkOnly.trans {s t u : State} (h : LinkOnly s t) (k : LinkOnly t u) : LinkOnly s u := by
  obtain ⟨a, rfl, ha⟩ := h
  obtain ⟨b, rfl, hb⟩ := k
  exact ⟨b, rfl, fun n h => hb n (ha n h)⟩

theorem setOwed_false_linkOnly (s : State) (l : LaneIx) : LinkOnly s (s.setOwed l false) := ⟨_, rfl, fun _ h => h.clearOwed l⟩

theorem takeOwed_linkOnly (s : State) (l : LaneIx) : LinkOnly s (s.takeOwed l) := by
  unfold State.takeOwed
  split
  next h =>
    have owed : s.link.owed.get l = true := by simp only [Bool.and_eq_true] at h; exact h.1.1
    split
    · exact setOwed_false_linkOnly s l
    · refine ⟨_, rfl, fun n h => ⟨h.1, ?_⟩⟩
      have count := countP_owed_clear s.link.owed l
      have := h.2
      rw [owed, if_pos rfl] at count
      show (s.link.queue ++ [_]).length + (if s.link.overflow.isSome then 1 else 0) + laneOrder.countP (fun j => (s.link.owed.set l false).get j) + n ≤ 32
      simp only [List.length_append, List.length_singleton]
      omega
  · exact .refl s

theorem takeOverflow_linkOnly (s : State) : LinkOnly s (s.modLink Link.takeOverflow) := by
  refine ⟨s.link.takeOverflow, rfl, fun n h => ?_⟩
  unfold Link.takeOverflow
  split
  next e slot =>
    split
    · refine ⟨h.1, ?_⟩
      have := h.2
      rw [slot] at this
      show (s.link.queue ++ [e]).length + 0 + _ + n ≤ 32
      simp only [List.length_append, List.length_singleton]
      simp only [Option.isSome_some, if_true] at this
      omega
    · exact h
  · exact h

theorem placeFreed_linkOnly (s : State) : LinkOnly s s.placeFreed := by
  have owed : ∀ (ls : List LaneIx) (u : State), LinkOnly u (ls.foldl State.takeOwed u) := by
    intro ls
    induction ls with
    | nil => exact fun u => .refl u
    | cons l ls ih => exact fun u => (takeOwed_linkOnly u l).trans (ih _)
  exact (takeOverflow_linkOnly s).trans (owed laneOrder _)

theorem removeEntry_linkOnly (s : State) (id : Nat) : LinkOnly s (s.removeEntry id) := by
  unfold State.removeEntry
  split
  · exact ⟨_, rfl, fun n h => h.shorter rfl (by simp [Link.modEntry, Link.modQueue]) rfl rfl⟩
  · split
    · have gone : LinkOnly s (s.modLink fun k => if k.inContention id then (k.drop id).idle else k.drop id) := by
        refine ⟨_, rfl, fun n h => ?_⟩
        have fewer : (s.link.queue.filter fun e => e.id ≠ id).length ≤ s.link.queue.length := List.length_filter_le _ _
        dsimp only
        split
        · exact h.shorter rfl fewer rfl rfl
        · exact h.shorter rfl fewer rfl rfl
      exact gone.trans (placeFreed_linkOnly _)
    · exact .refl s

/-! ### The renewal when seats have left an order (R61) -/

/-- Where an order has no renewal seat, an offer of its renewal removes its queued RENEW. -/
theorem offerRenew_empty {s : State} {l : LaneIx} {cls : Machine.Class} (none : s.renewalSeats l = []) : LinkOnly s (s.offerRenew l cls) := by
  unfold State.offerRenew
  simp only [none, List.isEmpty_nil, if_true]
  split
  · exact removeEntry_linkOnly s _
  · exact .refl s

theorem mergeRenew_length (k : Link) (e : Entry) (n : Notice) (cls : Machine.Class) :
    (k.mergeRenew e n cls).state = k.state ∧ (k.mergeRenew e n cls).queue.length = k.queue.length
      ∧ (k.mergeRenew e n cls).overflow = k.overflow ∧ (k.mergeRenew e n cls).owed = k.owed := by
  unfold Link.mergeRenew
  split <;> simp [Link.modEntry, Link.modQueue]

/-- Where a RENEW of the order is queued, an offer of its renewal merges or removes it. -/
theorem offerRenew_queued {s : State} {l : LaneIx} {cls : Machine.Class} (queued : (s.link.renewOf l (s.lane l).order.tag).isSome = true) :
    LinkOnly s (s.offerRenew l cls) := by
  obtain ⟨e, he⟩ := Option.isSome_iff_exists.mp queued
  unfold State.offerRenew
  simp only [he]
  split
  · exact removeEntry_linkOnly s _
  · refine LinkOnly.trans ⟨_, rfl, fun n h => ?_⟩ (setOwed_false_linkOnly _ l)
    obtain ⟨state, queue, overflow, owed⟩ := mergeRenew_length s.link e (s.renewNotice l) cls
    exact h.shorter state queue.le overflow owed

theorem renewalSeats_congr {s t : State} {l : LaneIx} (sale : (t.lane l).sale = (s.lane l).sale)
    (order : (t.lane l).order = (s.lane l).order) (slots : t.slots = s.slots) : t.renewalSeats l = s.renewalSeats l := by
  have held (code : Nat) : t.seatHeld code l = s.seatHeld code l := funext fun r => by simp only [State.seatHeld, seat_congr slots]
  simp only [State.renewalSeats, sale, order, held]

/-- With no renewal seat left the renewal timer stops. -/
theorem renewalShrunk_empty {s : State} {l : LaneIx} (none : s.renewalSeats l = []) :
    LinkOnly (s.modLane l fun x => { x with renewal := Option.none }) (s.renewalShrunk l) := by
  have lane : (s.modLane l fun x => { x with renewal := Option.none }).lane l = { s.lane l with renewal := Option.none } :=
    State.lane_modLane_same s l _
  have seats : (s.modLane l fun x => { x with renewal := Option.none }).renewalSeats l = s.renewalSeats l :=
    renewalSeats_congr (by rw [lane]) (by rw [lane]) rfl
  rw [State.renewalShrunk, if_pos (by simp [none])]
  exact (offerRenew_empty (seats.trans none)).trans (setOwed_false_linkOnly _ l)

/-- Seats that have left an order change its renewal timer and the link alone. -/
theorem renewalShrunk_linkOnly (s : State) (l : LaneIx) :
    ∃ r, LinkOnly (s.modLane l fun x => { x with renewal := r }) (s.renewalShrunk l) := by
  have same : s.modLane l (fun x => { x with renewal := (s.lane l).renewal }) = s := modLane_self rfl
  by_cases none : s.renewalSeats l = []
  · exact ⟨_, renewalShrunk_empty none⟩
  · refine ⟨(s.lane l).renewal, ?_⟩
    rw [same, State.renewalShrunk, if_neg (by simpa using none)]
    split
    next queued => exact offerRenew_queued queued
    · exact .refl s

/-! ### What is given up -/

/-- What lane `l` giving up seats, its claim and its renewal leaves of the rest: `n` places of the queue taken at most, and while
they are there no other lane, no block and nothing of the Ring Interface is touched. -/
structure GivesUp (l : LaneIx) (n : Nat) (s t : State) : Prop where
  house : t.house = s.house
  vouchers : t.vouchers = s.vouchers
  printing : t.printing = s.printing
  pins : t.pins = s.pins
  order : ∀ k, (t.lane k).order = (s.lane k).order
  attendance : ∀ k, (t.lane k).attendance = (s.lane k).attendance
  sale : ∀ k, (t.lane k).sale = (s.lane k).sale
  term : ∀ k, (t.lane k).term = (s.lane k).term
  renewal : ∀ k, k ≠ l → (t.lane k).renewal = (s.lane k).renewal
  claim : ∀ k, k ≠ l → (t.lane k).claim = (s.lane k).claim ∨ (s.lane k).claim.state = .queued ∧ (t.lane k).claim = Claim.blank
  ownClaim : (t.lane l).claim = (s.lane l).claim ∨ ((s.lane l).claim.state = .queued ∨ (s.lane l).claim.state = .contest)
    ∧ ((t.lane l).claim = Claim.blank ∨ (t.lane l).claim = { (s.lane l).claim with state := .withdrawing })
  block : ∀ k, ¬ PickRuns s k → (t.lane k).block = (s.lane k).block
  seats : ∀ c r st, s.seat c r = some st → (∀ k, st ≠ .claiming k) → st ≠ .held l → t.seat c r = some st
  held : ∀ c r, s.seat c r = some (.held l) → t.seat c r = some (.held l) ∨ t.seat c r = some .free
  claiming : ∀ c r k, s.seat c r = some (.claiming k) → t.seat c r = some (.claiming k) ∨ t.seat c r = some .free
  quiet : ∀ m, HasSpare (m + n) s.link → HasSpare m t.link ∧ t.io = s.io ∧ (∀ k, k ≠ l → t.lane k = s.lane k)
    ∧ (t.lane l).block = (s.lane l).block

namespace GivesUp

variable {l : LaneIx} {n m : Nat} {s t u : State}

theorem free (h : GivesUp l n s t) {c : Nat} {r : SeatRef} (free : s.seat c r = some .free) : t.seat c r = some .free :=
  h.seats c r _ free (by simp) (by simp)

theorem refl (s : State) (l : LaneIx) : GivesUp l 0 s s :=
  ⟨rfl, rfl, rfl, rfl, fun _ => rfl, fun _ => rfl, fun _ => rfl, fun _ => rfl, fun _ _ => rfl, fun _ _ => .inl rfl, .inl rfl,
    fun _ _ => rfl, fun _ _ _ h _ _ => h, fun _ _ h => .inl h, fun _ _ _ h => .inl h, fun _ h => ⟨h, rfl, fun _ _ => rfl, rfl⟩⟩

theorem trans (h : GivesUp l n s t) (k : GivesUp l m t u) : GivesUp l (m + n) s u where
  house := k.house.trans h.house
  vouchers := k.vouchers.trans h.vouchers
  printing := k.printing.trans h.printing
  pins := k.pins.trans h.pins
  order j := (k.order j).trans (h.order j)
  attendance j := (k.attendance j).trans (h.attendance j)
  sale j := (k.sale j).trans (h.sale j)
  term j := (k.term j).trans (h.term j)
  renewal j hj := (k.renewal j hj).trans (h.renewal j hj)
  claim j hj := by
    rcases h.claim j hj with h1 | ⟨h1, h2⟩
    · rw [← h1]
      exact k.claim j hj
    · rcases k.claim j hj with k1 | ⟨k1, k2⟩
      · exact .inr ⟨h1, k1.trans h2⟩
      · exact .inr ⟨h1, k2⟩
  ownClaim := by
    rcases h.ownClaim with h1 | ⟨h1, h2⟩
    · rw [← h1]
      exact k.ownClaim
    · refine .inr ⟨h1, ?_⟩
      rcases k.ownClaim with k1 | ⟨k1, -⟩
      · rw [k1]
        exact h2
      · rcases h2 with h2 | h2
        · simp [h2, Claim.blank] at k1
        · simp [h2] at k1
  block j none := (k.block j ((pickRuns_congr (h.block j none)).not.mpr none)).trans (h.block j none)
  seats c r st hs no own := k.seats c r st (h.seats c r st hs no own) no own
  held c r hs := (h.held c r hs).elim (k.held c r) fun free => .inr (k.free free)
  claiming c r j hs := (h.claiming c r j hs).elim (k.claiming c r j) fun free => .inr (k.free free)
  quiet a spare := by
    obtain ⟨spare, io, others, block⟩ := h.quiet (a + m) (by rw [Nat.add_assoc]; exact spare)
    obtain ⟨spare', io', others', block'⟩ := k.quiet a spare
    exact ⟨spare', io'.trans io, fun j hj => (others' j hj).trans (others j hj), block'.trans block⟩

/-- A turn of the link is giving up nothing. -/
theorem of_turn (h : LinkTurn s t) (quiet : ∀ m, HasSpare (m + n) s.link → HasSpare m t.link ∧ t.io = s.io
    ∧ (∀ k, k ≠ l → t.lane k = s.lane k) ∧ (t.lane l).block = (s.lane l).block) : GivesUp l n s t where
  house := h.house
  vouchers := h.vouchers
  printing := h.printing
  pins := h.pins
  order := h.order
  attendance := h.attendance
  sale := h.sale
  term := h.term
  renewal k _ := h.renewal k
  claim k _ := h.claim k
  ownClaim := (h.claim l).imp_right fun ⟨queued, blank⟩ => ⟨.inl queued, .inl blank⟩
  block := h.block
  seats c r st hs no _ := h.seats c r st hs no
  held c r hs := .inl (h.seats c r _ hs (by simp))
  claiming := h.claiming
  quiet := quiet

theorem of_linkOnly (h : LinkOnly s t) (l : LaneIx) : GivesUp l 0 s t := by
  obtain ⟨k, rfl, spare⟩ := h
  exact of_turn (.of_link s k s.io) fun m h => ⟨spare m h, rfl, fun _ _ => rfl, rfl⟩

/-- A change of lane `l`'s own claim and renewal timer. -/
theorem of_lane (s : State) (l : LaneIx) (c : Claim) (r : Option Renewal)
    (claim : c = (s.lane l).claim ∨ ((s.lane l).claim.state = .queued ∨ (s.lane l).claim.state = .contest)
      ∧ (c = Claim.blank ∨ c = { (s.lane l).claim with state := .withdrawing })) :
    GivesUp l 0 s (s.modLane l fun x => { x with claim := c, renewal := r }) := by
  have other {k : LaneIx} (hk : k ≠ l) : (s.modLane l fun x => { x with claim := c, renewal := r }).lane k = s.lane k :=
    lane_modLane_other hk _
  have own : (s.modLane l fun x => { x with claim := c, renewal := r }).lane l = { s.lane l with claim := c, renewal := r } :=
    State.lane_modLane_same s l _
  have field {β : Type} (p : Lane → β) (h : p { s.lane l with claim := c, renewal := r } = p (s.lane l)) (k : LaneIx) :
      p ((s.modLane l fun x => { x with claim := c, renewal := r }).lane k) = p (s.lane k) := by
    by_cases hk : k = l
    · rw [hk, own, h]
    · rw [other hk]
  exact ⟨rfl, rfl, rfl, rfl, field Lane.order rfl, field Lane.attendance rfl, field Lane.sale rfl, field Lane.term rfl,
    fun k hk => by rw [other hk], fun k hk => .inl (by rw [other hk]), by rw [own]; exact claim,
    fun k _ => field Lane.block rfl k, fun _ _ _ h _ _ => h, fun _ _ h => .inl h, fun _ _ _ h => .inl h,
    fun m h => ⟨h, rfl, fun k hk => other hk, field Lane.block rfl l⟩⟩

/-- Seats of lane `l` that become FREE. -/
theorem mapSeats (s : State) (l : LaneIx) (code : Nat) (seats : List SeatRef) (f : SeatState → SeatState)
    (others : ∀ st, (∀ k, st ≠ .claiming k) → st ≠ .held l → f st = st)
    (held : f (.held l) = .held l ∨ f (.held l) = .free)
    (claiming : ∀ k, f (.claiming k) = .claiming k ∨ f (.claiming k) = .free) : GivesUp l 0 s (s.mapSeats code seats f) where
  house := rfl
  vouchers := rfl
  printing := rfl
  pins := rfl
  order _ := rfl
  attendance _ := rfl
  sale _ := rfl
  term _ := rfl
  renewal _ _ := rfl
  claim _ _ := .inl rfl
  ownClaim := .inl rfl
  block _ _ := rfl
  seats c r st hs no own := by rw [seat_mapSeats, hs, Option.map_some, others st no own, ite_self]
  held c r hs := by
    rw [seat_mapSeats, hs, Option.map_some]
    split
    · simpa using held
    · exact .inl rfl
  claiming c r k hs := by
    rw [seat_mapSeats, hs, Option.map_some]
    split
    · simpa using claiming k
    · exact .inl rfl
  quiet m h := ⟨h, rfl, fun _ _ => rfl, rfl⟩

end GivesUp

/-! ### The claim, and a release -/

theorem freeClaim_gives (s : State) (l : LaneIx) : GivesUp l 0 s (s.freeClaim l) :=
  .of_turn (freeClaim_turn s l) fun _ h => ⟨h, rfl, fun _ _ => rfl, rfl⟩

theorem clearClaim_gives {s : State} {l : LaneIx} (inFlight : (s.lane l).claim.state = .queued ∨ (s.lane l).claim.state = .contest) :
    GivesUp l 0 s (s.clearClaim l) := by
  have cleared : s.clearClaim l = s.modLane l fun x => { x with claim := Claim.blank, renewal := (s.lane l).renewal } := modLane_congr rfl
  rw [cleared]
  exact .of_lane s l _ _ (.inr ⟨inFlight, .inl rfl⟩)

/-- The cases of a claim that is given up (R63). -/
theorem giveUpClaim_cases (s : State) (l : LaneIx) :
    ((s.lane l).claim.state ≠ .queued ∧ (s.lane l).claim.state ≠ .contest ∧ s.giveUpClaim l = s)
      ∨ (∃ e, (s.lane l).claim.state = .queued ∧ s.link.holdOf l = some e ∧ s.link.onPair e.id = true
          ∧ s.giveUpClaim l
            = (s.modLane l fun x => { x with claim := { x.claim with state := .withdrawing } }).removeEntry e.id)
      ∨ ((s.lane l).claim.state = .queued ∨ (s.lane l).claim.state = .contest)
        ∧ (((s.lane l).claim.state = .queued → s.link.holdOf l = none) ∧ s.giveUpClaim l = (s.freeClaim l).clearClaim l
          ∨ ∃ e, (s.lane l).claim.state = .queued ∧ s.link.holdOf l = some e ∧ s.link.onPair e.id = false
            ∧ s.giveUpClaim l = ((s.freeClaim l).clearClaim l).removeEntry e.id) := by
  unfold State.giveUpClaim
  cases state : (s.lane l).claim.state with
  | queued =>
    cases hold : s.link.holdOf l with
    | none => exact .inr (.inr ⟨.inl rfl, .inl ⟨fun _ => rfl, rfl⟩⟩)
    | some e =>
      cases pair : s.link.onPair e.id with
      | true => exact .inr (.inl ⟨e, rfl, rfl, pair, by simp [pair]⟩)
      | false => exact .inr (.inr ⟨.inl rfl, .inr ⟨e, rfl, rfl, pair, by simp [pair]⟩⟩)
  | contest => exact .inr (.inr ⟨.inr rfl, .inl ⟨by simp, rfl⟩⟩)
  | none => exact .inl ⟨by simp, by simp, rfl⟩
  | withdrawing => exact .inl ⟨by simp, by simp, rfl⟩
  | confirmed => exact .inl ⟨by simp, by simp, rfl⟩

theorem giveUpClaim_gives (s : State) (l : LaneIx) : GivesUp l 0 s (s.giveUpClaim l) := by
  rcases giveUpClaim_cases s l with ⟨-, -, h⟩ | ⟨e, queued, -, -, h⟩ | ⟨inFlight, ⟨-, h⟩ | ⟨e, -, -, -, h⟩⟩
  · rw [h]
    exact .refl s l
  · have withdrawing : (s.modLane l fun x => { x with claim := { x.claim with state := .withdrawing } })
        = s.modLane l fun x => { x with claim := { (s.lane l).claim with state := .withdrawing }, renewal := (s.lane l).renewal } :=
      modLane_congr rfl
    rw [h, withdrawing]
    exact (GivesUp.of_lane s l _ _ (.inr ⟨.inl queued, .inr rfl⟩)).trans (.of_linkOnly (removeEntry_linkOnly _ _) l)
  · rw [h]
    exact (freeClaim_gives s l).trans (clearClaim_gives (s := s.freeClaim l) inFlight)
  · rw [h]
    exact ((freeClaim_gives s l).trans (clearClaim_gives (s := s.freeClaim l) inFlight)).trans
      (.of_linkOnly (removeEntry_linkOnly _ _) l)

/-- A claim in flight whose HOLD is off the pair ends with its seats FREE (R63). -/
theorem giveUpClaim_ended {s : State} {l : LaneIx} (inFlight : (s.lane l).claim.state = .queued ∨ (s.lane l).claim.state = .contest)
    (off : ∀ e, s.link.holdOf l = some e → s.link.onPair e.id = false) :
    LinkOnly ((s.freeClaim l).clearClaim l) (s.giveUpClaim l) := by
  rcases giveUpClaim_cases s l with ⟨queued, contest, -⟩ | ⟨e, -, hold, pair, -⟩ | ⟨-, ⟨-, h⟩ | ⟨e, -, -, -, h⟩⟩
  · exact absurd inFlight (by simp [queued, contest])
  · simp [off e hold] at pair
  · rw [h]
    exact .refl _
  · rw [h]
    exact removeEntry_linkOnly _ _

theorem offerRelease_gives (s : State) (l : LaneIx) (tag : Option Nat) (code : Nat) (seats : List SeatRef) (j : LaneIx) :
    GivesUp j 1 s (s.offerRelease l tag code seats) := by
  refine .of_turn (offerRelease_turn s l tag code seats) fun m h => ?_
  unfold State.offerRelease
  split
  · exact ⟨h.mono (by omega), rfl, fun _ _ => rfl, rfl⟩
  · rw [offer_room h.hasRoom _ (cls := .release) rfl]
    exact ⟨h.enter _ _ _ _, rfl, fun _ _ => rfl, rfl⟩

theorem renewalShrunk_gives (s : State) (l : LaneIx) : GivesUp l 0 s (s.renewalShrunk l) := by
  obtain ⟨r, h⟩ := renewalShrunk_linkOnly s l
  have timer : (s.modLane l fun x => { x with renewal := r }) = s.modLane l fun x => { x with claim := (s.lane l).claim, renewal := r } :=
    modLane_congr rfl
  rw [timer] at h
  exact (GivesUp.of_lane s l _ r (.inl rfl)).trans (.of_linkOnly h l)

/-- The HELD seats of a list that become FREE. -/
def freed (s : State) (l : LaneIx) (seats : List SeatRef) : State :=
  s.mapSeats (s.lane l).seatCode (seats.filter (s.seatHeld (s.lane l).seatCode l)) fun st => if st.heldBy l then .free else st

theorem freed_gives (s : State) (l : LaneIx) (seats : List SeatRef) : GivesUp l 0 s (freed s l seats) :=
  .mapSeats s l _ _ _ (fun st _ own => if_neg (by simpa [SeatState.heldBy] using own)) (.inr (by simp [SeatState.heldBy]))
    fun k => .inl (by simp [SeatState.heldBy])

theorem freed_free {s : State} {l : LaneIx} {seats : List SeatRef} {r : SeatRef} (hr : r ∈ seats)
    (held : s.seat (s.lane l).seatCode r = some (.held l)) : (freed s l seats).seat (s.lane l).seatCode r = some .free := by
  have named : r ∈ seats.filter (s.seatHeld (s.lane l).seatCode l) := List.mem_filter.mpr ⟨hr, seatHeld_iff.mpr held⟩
  simp [freed, seat_mapSeats, held, named, SeatState.heldBy]

/-- The claim's part of a release. -/
def givenClaim (s : State) (l : LaneIx) (seats : List SeatRef) (withClaim : Bool) : State :=
  if withClaim then (freed s l seats).giveUpClaim l else freed s l seats

theorem release_eq (s : State) (l : LaneIx) (seats : List SeatRef) (withClaim : Bool) :
    s.release l seats withClaim
      = ((givenClaim s l seats withClaim).offerRelease l ((s.lane l).order.tag.or (s.lane l).claim.tag) (s.lane l).seatCode
          (seats.filter (s.seatHeld (s.lane l).seatCode l)
            ++ if withClaim && (s.lane l).claim.state = .contest then
                (s.lane l).claim.seatRefs.filter (s.seatClaimed (s.lane l).seatCode l)
              else [])).renewalShrunk l := rfl

theorem givenClaim_gives (s : State) (l : LaneIx) (seats : List SeatRef) (withClaim : Bool) :
    GivesUp l 0 s (givenClaim s l seats withClaim) := by
  cases withClaim with
  | false => exact freed_gives s l seats
  | true => exact (freed_gives s l seats).trans (giveUpClaim_gives _ l)

theorem released_gives (s : State) (l : LaneIx) (tag : Option Nat) (code : Nat) (seats : List SeatRef) :
    GivesUp l 1 s ((s.offerRelease l tag code seats).renewalShrunk l) :=
  (offerRelease_gives s l tag code seats l).trans (renewalShrunk_gives _ l)

theorem release_gives (s : State) (l : LaneIx) (seats : List SeatRef) (withClaim : Bool) :
    GivesUp l 1 s (s.release l seats withClaim) :=
  (givenClaim_gives s l seats withClaim).trans (released_gives _ l _ _ _)

/-- A HELD seat that is released is FREE. -/
theorem release_free {s : State} {l : LaneIx} {seats : List SeatRef} {withClaim : Bool} {r : SeatRef} (hr : r ∈ seats)
    (held : s.seat (s.lane l).seatCode r = some (.held l)) :
    (s.release l seats withClaim).seat (s.lane l).seatCode r = some .free := by
  have free := freed_free hr held
  have given : (givenClaim s l seats withClaim).seat (s.lane l).seatCode r = some .free := by
    cases withClaim with
    | false => exact free
    | true => exact (giveUpClaim_gives _ l).free free
  exact (released_gives _ l _ _ _).free given

/-- A claim in flight whose HOLD is off the pair is over once its lane's seats are released. -/
theorem release_claim {s : State} {l : LaneIx} {seats : List SeatRef}
    (inFlight : (s.lane l).claim.state = .queued ∨ (s.lane l).claim.state = .contest)
    (off : ∀ e, s.link.holdOf l = some e → s.link.onPair e.id = false) :
    ((s.release l seats true).lane l).claim = Claim.blank := by
  have given : ((givenClaim s l seats true).lane l).claim = Claim.blank := by
    obtain ⟨k, h, -⟩ := giveUpClaim_ended (s := freed s l seats) inFlight off
    show (((freed s l seats).giveUpClaim l).lane l).claim = Claim.blank
    rw [h]
    exact congrArg Lane.claim (State.lane_modLane_same ((freed s l seats).freeClaim l) l fun x => { x with claim := Claim.blank })
  rcases (released_gives (givenClaim s l seats true) l ((s.lane l).order.tag.or (s.lane l).claim.tag) (s.lane l).seatCode
    (seats.filter (s.seatHeld (s.lane l).seatCode l)
      ++ if true && (s.lane l).claim.state = .contest then
          (s.lane l).claim.seatRefs.filter (s.seatClaimed (s.lane l).seatCode l)
        else [])).ownClaim with same | ⟨inFlight, -⟩
  · exact same.trans given
  · simp [given, Claim.blank] at inFlight

/-- Its seats are FREE. -/
theorem release_claimed {s : State} {l : LaneIx} {seats : List SeatRef}
    (inFlight : (s.lane l).claim.state = .queued ∨ (s.lane l).claim.state = .contest)
    (off : ∀ e, s.link.holdOf l = some e → s.link.onPair e.id = false) {r : SeatRef}
    (hr : r ∈ (s.lane l).claim.seats.map ClaimSeat.seat) (claiming : s.seat (s.lane l).claim.code r = some (.claiming l)) :
    (s.release l seats true).seat (s.lane l).claim.code r = some .free := by
  have kept : (freed s l seats).seat (s.lane l).claim.code r = some (.claiming l) := by
    rw [freed, seat_mapSeats, claiming]
    simp [SeatState.heldBy]
  have given : (givenClaim s l seats true).seat (s.lane l).claim.code r = some .free := by
    obtain ⟨k, h, -⟩ := giveUpClaim_ended (s := freed s l seats) inFlight off
    show ((freed s l seats).giveUpClaim l).seat _ _ = some .free
    rw [h]
    show ((freed s l seats).freeClaim l).seat _ _ = some .free
    rw [Contention.freeClaim_eq]
    exact Contention.freed_free (State.seatsBecome_mapSeats (freed s l seats) _ _ _) hr kept
  exact (released_gives _ l _ _ _).free given

/-! ### The return to EMPTY (R79) -/

/-- What lane `l`'s return to EMPTY comes to, from `s` on: its Ring Interface `io` while the queue has `n` places to spare. -/
structure Emptied (l : LaneIx) (n : Nat) (f : Terminal → Terminal) (io : Io) (s t : State) : Prop where
  order : (t.lane l).order = Order.blank
  attendance : (t.lane l).attendance = none
  renewal : (t.lane l).renewal = none
  term : (t.lane l).term = f (s.lane l).term
  block : ¬ PickRuns s l → (t.lane l).block = (s.lane l).block
  vouchers : t.vouchers = s.vouchers.returned (s.lane l).order.voucherLines
  house : t.house = s.house
  printing : t.printing = s.printing
  pins : t.pins = s.pins
  quiet : HasSpare n s.link → t.io = io ∧ (∀ k, k ≠ l → t.lane k = s.lane k) ∧ (t.lane l).block = (s.lane l).block

/-- The lane without its seat lines and its pending SALE has no renewal seat. -/
theorem renewalSeats_unlined (s : State) (l : LaneIx) :
    (s.modLane l fun x => { x with sale := none, order := { x.order with seatLines := [] } }).renewalSeats l = [] := by
  have lane := State.lane_modLane_same s l fun x => { x with sale := none, order := { x.order with seatLines := [] } }
  simp only [State.renewalSeats, lane]
  cases Order.code _ with
  | none => rfl
  | some code => rfl

end Sys2Proof.Proofs.GivingUp
end

section
/-! PROOFS: the return of an order to EMPTY, its cancellation, and the first VOID of an order that unwinds. -/

namespace Sys2Proof.Proofs.Emptying

open Sys2Proof Sys2Proof.Machine Sys2Proof.Proofs.Requests Sys2Proof.Proofs.Words Sys2Proof.Proofs.LinkRules
open Sys2Proof.Proofs.SeatTimers Sys2Proof.Proofs.GivingUp

/-! ### The return to EMPTY -/

/-- A lane whose order has returned to EMPTY (R79). -/
def emptyLane (x : Lane) : Lane :=
  { x with
    order := Order.blank
    attendance := none
    renewal := none
    sale := none
    claim := if x.claim.state = .withdrawing then x.claim else Claim.blank }

/-- A lane without seat lines, pending SALE and renewal timer. -/
def unlinedLane (x : Lane) : Lane := { x with sale := none, renewal := none, order := { x.order with seatLines := [] } }

/-- The return to EMPTY changes the lane, the reservations and the link, and speaks for no more places of the queue. -/
theorem returnToEmpty_eq (s : State) (l : LaneIx) :
    ∃ k, (∀ n, HasSpare n s.link → HasSpare n k)
      ∧ s.returnToEmpty l
        = { s.modLane l emptyLane with link := k, vouchers := s.vouchers.returned (s.lane l).order.voucherLines } := by
  obtain ⟨k, shrunk, spare⟩ := renewalShrunk_empty (renewalSeats_unlined s l)
  refine ⟨k, spare, ?_⟩
  rw [modLane_modLane] at shrunk
  have lines : ((s.modLane l unlinedLane).lane l).order.voucherLines = (s.lane l).order.voucherLines := by
    rw [State.lane_modLane_same]
    rfl
  unfold State.returnToEmpty
  simp only [shrunk, State.returnLines_eq]
  have stopped : ((s.modLane l unlinedLane).modLane l fun y =>
      { y with
        order := Order.blank
        attendance := none
        claim := if y.claim.state = .withdrawing then y.claim else Claim.blank }) = s.modLane l emptyLane :=
    (modLane_modLane s l _ _).trans (modLane_congr rfl)
  exact (congrArg (fun ls => ({ (s.modLane l unlinedLane).modLane l (fun y =>
      { y with
        order := Order.blank
        attendance := none
        claim := if y.claim.state = .withdrawing then y.claim else Claim.blank }) with
      link := k, vouchers := s.vouchers.returned ls } : State)) lines).trans
    (congrArg (fun u : State => { u with link := k, vouchers := s.vouchers.returned (s.lane l).order.voucherLines }) stopped)

/-- Voucher lines that all carry a code return no reservation (R134). -/
theorem returned_issued (v : Vouchers) {lines : List VoucherLine} (issued : ∀ w ∈ lines, w.code ≠ none) : v.returned lines = v := by
  have none (i : CatalogItem) : unissuedOf lines i.code = 0 := List.countP_eq_zero.mpr fun w hw => by
    cases code : w.code with
    | none => exact absurd code (issued w hw)
    | some c => simp
  have same : (v.catalog.map fun i => { i with reserved := i.reserved - unissuedOf lines i.code }) = v.catalog := by
    rw [List.map_congr_left (g := id), List.map_id]
    intro i _
    rw [none, Nat.sub_zero]
    rfl
  exact congrArg (fun c => ({ v with catalog := c } : Vouchers)) same

/-- What follows when lane `l` has given seats up: its terminal and the Ring Interface change, and its order returns to EMPTY. -/
theorem emptied_of_gives {l : LaneIx} {n : Nat} {s g : State} (h : GivesUp l n s g) (f : Terminal → Terminal) (io : Io) :
    Emptied l n f io s (({ g.modTerm l f with io := io } : State).returnToEmpty l) := by
  obtain ⟨k, -, eq⟩ := returnToEmpty_eq ({ g.modTerm l f with io := io } : State) l
  have own : (({ g.modTerm l f with io := io } : State).returnToEmpty l).lane l = emptyLane { g.lane l with term := f (g.lane l).term } := by
    rw [eq]
    show ((g.modTerm l f).modLane l emptyLane).lane l = _
    rw [State.lane_modLane_same, State.modTerm, State.lane_modLane_same]
  have other {j : LaneIx} (hj : j ≠ l) : (({ g.modTerm l f with io := io } : State).returnToEmpty l).lane j = g.lane j := by
    rw [eq]
    show ((g.modTerm l f).modLane l emptyLane).lane j = _
    rw [lane_modLane_other hj, State.modTerm, lane_modLane_other hj]
  have lines : ((g.modTerm l f).lane l).order.voucherLines = (s.lane l).order.voucherLines := by
    rw [State.modTerm, State.lane_modLane_same, ← h.order l]
  refine ⟨by rw [own]; rfl, by rw [own]; rfl, by rw [own]; rfl, ?_, fun none => ?_, ?_, ?_, ?_, ?_, fun spare => ?_⟩
  · rw [own, ← h.term l]
    rfl
  · rw [own]
    exact h.block l none
  · rw [eq]
    exact (congrArg g.vouchers.returned lines).trans (congrArg (fun v : Vouchers => v.returned _) h.vouchers)
  · rw [eq]
    exact h.house
  · rw [eq]
    exact h.printing
  · rw [eq]
    exact h.pins
  · obtain ⟨-, -, others, block⟩ := h.quiet 0 (spare.mono (by omega))
    refine ⟨congrArg State.io eq, fun j hj => (other hj).trans (others j hj), ?_⟩
    rw [own]
    exact block

theorem returnToEmpty_seat (s : State) (l : LaneIx) (c : Nat) (r : SeatRef) : (s.returnToEmpty l).seat c r = s.seat c r := by
  obtain ⟨k, -, eq⟩ := returnToEmpty_eq s l
  rw [eq]
  rfl

/-! ### A cancellation at once -/

/-- The order cancelled at once, before what waits on its cancellation ends (R80). -/
def cancelled (s : State) (l : LaneIx) : State :=
  ((s.release l (s.lane l).order.liveSeats true).modTerm l fun t => { t with cause := none }).returnToEmpty l

theorem finishCancel_eq (s : State) (l : LaneIx) : s.finishCancel l = (cancelled s l).endCancelWait l .done := rfl

theorem cancelled_emptied (s : State) (l : LaneIx) : Emptied l 1 (fun t => { t with cause := none }) s.io s (cancelled s l) := by
  have gives := release_gives s l (s.lane l).order.liveSeats true
  have emptied := emptied_of_gives gives (fun t => { t with cause := none }) (s.release l (s.lane l).order.liveSeats true).io
  exact { emptied with
    quiet := fun spare =>
      ⟨(emptied.quiet spare).1.trans (gives.quiet 0 (spare.mono (by omega))).2.1, (emptied.quiet spare).2⟩ }

theorem cancelled_seat (s : State) (l : LaneIx) (c : Nat) (r : SeatRef) :
    (cancelled s l).seat c r = (s.release l (s.lane l).order.liveSeats true).seat c r := returnToEmpty_seat _ l c r

theorem seatCode_of_code {x : Lane} {code : Nat} (h : x.order.code = some code) : x.seatCode = code := by simp [Lane.seatCode, h]

/-- Its HELD seats that are not lost are FREE. -/
theorem cancelled_free {s : State} {l : LaneIx} {code : Nat} {r : SeatRef} (named : (s.lane l).order.code = some code)
    (hr : r ∈ (s.lane l).order.liveSeats) (held : s.seat code r = some (.held l)) : (cancelled s l).seat code r = some .free := by
  have release := release_free (withClaim := true) hr (by rw [seatCode_of_code named]; exact held)
  rw [cancelled_seat, ← seatCode_of_code named]
  exact release

theorem cancelled_claimed {s : State} {l : LaneIx}
    (inFlight : (s.lane l).claim.state = .queued ∨ (s.lane l).claim.state = .contest)
    (off : ∀ e, s.link.holdOf l = some e → s.link.onPair e.id = false) {r : SeatRef}
    (hr : r ∈ (s.lane l).claim.seats.map ClaimSeat.seat) (claiming : s.seat (s.lane l).claim.code r = some (.claiming l)) :
    (cancelled s l).seat (s.lane l).claim.code r = some .free := by
  rw [cancelled_seat]
  exact release_claimed inFlight off hr claiming

theorem cancelled_lane (s : State) (l : LaneIx) :
    (cancelled s l).lane l
      = emptyLane { (s.release l (s.lane l).order.liveSeats true).lane l with
          term := { ((s.release l (s.lane l).order.liveSeats true).lane l).term with cause := none } } := by
  obtain ⟨k, -, eq⟩ := returnToEmpty_eq
    ((s.release l (s.lane l).order.liveSeats true).modTerm l fun t => { t with cause := none }) l
  rw [cancelled, eq]
  show (((s.release l (s.lane l).order.liveSeats true).modTerm l fun t => { t with cause := none }).modLane l emptyLane).lane l = _
  rw [State.lane_modLane_same, State.modTerm, State.lane_modLane_same]

theorem cancelled_claim {s : State} {l : LaneIx}
    (inFlight : (s.lane l).claim.state = .queued ∨ (s.lane l).claim.state = .contest)
    (off : ∀ e, s.link.holdOf l = some e → s.link.onPair e.id = false) : ((cancelled s l).lane l).claim = Claim.blank := by
  rw [cancelled_lane]
  simp only [emptyLane, release_claim (seats := (s.lane l).order.liveSeats) inFlight off]
  rfl

/-! ### What waits on a cancellation -/

theorem endCancelWait_none {s : State} {l : LaneIx} (none : (s.lane l).block = none) (w : WordEnd) : s.endCancelWait l w = s := by
  simp only [State.endCancelWait, none]

theorem endCancelWait_strict {s : State} {l : LaneIx} {b : Block} {offset : Option Nat} {code : Code} (block : (s.lane l).block = some b)
    (mode : b.mode = .strictWait offset code) (w : WordEnd) :
    s.endCancelWait l w = s.endBlock l b (s.orderStatus l .malformed offset (some code) none []) := by
  simp only [State.endCancelWait, block, mode]

theorem endCancelWait_word {s : State} {l : LaneIx} {a : OrderWord} {ph : WordPhase} (runs : s.runningWord l = some (a, ph))
    (other : a = .cancel → ph ≠ .taken) (w : WordEnd) : s.endCancelWait l w = s := by
  cases block : (s.lane l).block with
  | none => simp [State.runningWord, block] at runs
  | some b =>
    cases mode : b.mode with
    | strictWait => simp [State.runningWord, block, mode] at runs
    | running i p =>
      simp only [State.endCancelWait, block, mode]
      split
      next h =>
        obtain ⟨rfl, rfl⟩ : a = .cancel ∧ ph = .taken := by simpa [runs] using h
        exact absurd rfl (other rfl)
      · rfl

theorem endCancelWait_cancel {s : State} {l : LaneIx} (runs : s.runningWord l = some (.cancel, .taken)) (w : WordEnd) :
    s.endCancelWait l w = s.endWord l w := by
  cases block : (s.lane l).block with
  | none => simp [State.runningWord, block] at runs
  | some b =>
    cases mode : b.mode with
    | strictWait => simp [State.runningWord, block, mode] at runs
    | running i p => simp only [State.endCancelWait, block, mode, runs]

theorem not_pickRuns_of_none {s : State} {l : LaneIx} (none : (s.lane l).block = none) : ¬ PickRuns s l := by
  rintro ⟨a, es, runs⟩
  simp [State.runningWord, none] at runs

theorem not_pickRuns_of_strict {s : State} {l : LaneIx} {b : Block} {offset : Option Nat} {code : Code}
    (block : (s.lane l).block = some b) (mode : b.mode = .strictWait offset code) : ¬ PickRuns s l := by
  rintro ⟨a, es, runs⟩
  simp [State.runningWord, block, mode] at runs

theorem not_pickRuns_of_word {s : State} {l : LaneIx} {w : OrderWord} {ph : WordPhase} (runs : s.runningWord l = some (w, ph))
    (other : ∀ a es, w = .pick a es → ph ≠ .taken) : ¬ PickRuns s l := by
  rintro ⟨a, es, runs'⟩
  obtain ⟨rfl, rfl⟩ : w = .pick a es ∧ ph = .taken := by simpa [runs] using runs'
  exact other a es rfl rfl

/-- An order cancelled while no block is in progress. -/
theorem finishCancel_of_none {s : State} {l : LaneIx} (none : (s.lane l).block = none) : s.finishCancel l = cancelled s l := by
  rw [finishCancel_eq, endCancelWait_none]
  rw [(cancelled_emptied s l).block (not_pickRuns_of_none none), none]

/-! ### The cancellation of an order by its state (R80) -/

theorem cancelOrder_lined {s : State} {l : LaneIx} (state : (s.lane l).order.state = .opened ∨ (s.lane l).order.state = .quoted) :
    s.cancelOrder l = s.finishCancel l := by
  unfold State.cancelOrder
  rcases state with state | state <;> simp only [state]

theorem cancelOrder_paying {s : State} {l : LaneIx} (state : (s.lane l).order.state = .paying) :
    s.cancelOrder l = s.modOrder l fun o => { o with cancelPending := true } := by
  simp only [State.cancelOrder, state]

theorem cancelOrder_stays {s : State} {l : LaneIx}
    (state : (s.lane l).order.state ∈ ([.committing, .sold, .printing, .complete, .unresolved] : List OrderState)) :
    s.cancelOrder l = s := by
  unfold State.cancelOrder
  cases h : (s.lane l).order.state <;> simp [h] at state ⊢

/-- The lowest tender to be voided, as the obligations name it. -/
theorem firstTender_eq {o : Order} {st : TenderState} {i : TenderIx}
    (h : o.tender1.state = st ∧ i = .one ∨ o.tender1.state ≠ st ∧ o.tender2.state = st ∧ i = .two) : o.firstTender st = some i := by
  rcases h with ⟨one, rfl⟩ | ⟨one, two, rfl⟩
  · exact if_pos one
  · exact (if_neg one).trans (if_pos two)

theorem anyTender_of_first {o : Order} {st : TenderState} {i : TenderIx} (h : o.firstTender st = some i) : o.anyTender st = true := by
  unfold Order.firstTender at h
  unfold Order.anyTender
  by_cases one : o.tender1.state = st
  · simp [one]
  · by_cases two : o.tender2.state = st
    · simp [two]
    · simp [one, two] at h

/-- A terminal that is IDLE with nothing outstanding and nothing being sent. -/
def IdleLine (t : Terminal) : Prop := t.line = .idle ∧ t.sending = none ∧ t.exchange = none

theorem IdleLine.clear {t : Terminal} (h : IdleLine t) : t.clear = true := by
  obtain ⟨line, sending, exchange⟩ := h
  simp [Terminal.clear, line, sending, exchange]

theorem sendVoid_idle {s : State} {l : LaneIx} {i : TenderIx} (state : (s.lane l).order.state = .unwinding)
    (idle : IdleLine (s.lane l).term) (first : (s.lane l).order.firstTender .voiding = some i) :
    s.sendVoid l
      = s.modLane l fun y => { y with term := { y.term with sending := some ⟨.void, (s.lane l).order.tag.getD 0, i, 0⟩ } } := by
  rw [State.sendVoid, if_pos ⟨state, idle.clear⟩]
  simp only [first]
  rfl

theorem sendVoid_busy {s : State} {l : LaneIx} (busy : (s.lane l).term.exchange ≠ none ∨ (s.lane l).term.sending ≠ none) :
    s.sendVoid l = s := by
  refine if_neg fun ⟨_, clear⟩ => ?_
  simp only [Terminal.clear, Bool.and_eq_true, Option.isNone_iff_eq_none] at clear
  rcases busy with busy | busy
  · exact busy clear.2
  · exact busy clear.1.2

/-- A SHORT order cancelled: UNWINDING with cancel pending, and VOID sent for its lowest tender to be voided. -/
theorem cancelOrder_short {s : State} {l : LaneIx} {i : TenderIx} {o1 : Order} (state : (s.lane l).order.state = .short)
    (idle : IdleLine (s.lane l).term)
    (ho1 : o1 = { (s.lane l).order.voidFrom .authorized with state := .unwinding, cancelPending := true })
    (first : o1.tender1.state = .voiding ∧ i = .one ∨ o1.tender1.state ≠ .voiding ∧ o1.tender2.state = .voiding ∧ i = .two) :
    s.cancelOrder l
      = s.modLane l fun y => { y with order := o1, term := { y.term with sending := some ⟨.void, o1.tag.getD 0, i, 0⟩ } } := by
  have unwound : (s.modOrder l fun o => { o.voidFrom .authorized with state := .unwinding, cancelPending := true }).lane l
      = { s.lane l with order := o1 } := by
    rw [ho1]
    exact State.lane_modLane_same s l _
  have lowest := firstTender_eq first
  have any : ((s.modOrder l fun o => { o.voidFrom .authorized with state := .unwinding, cancelPending := true }).lane
      l).order.anyTender .voiding = true := by
    rw [unwound]
    exact anyTender_of_first lowest
  have sent := sendVoid_idle (s := s.modOrder l fun o => { o.voidFrom .authorized with state := .unwinding, cancelPending := true })
    (l := l) (i := i) (by rw [unwound, ho1]) (by rw [unwound]; exact idle) (by rw [unwound]; exact lowest)
  simp only [State.cancelOrder, state]
  rw [if_pos any, sent, unwound]
  refine (modLane_modLane s l _ _).trans (modLane_congr ?_)
  rw [ho1]

/-- An UNWINDING order cancelled while its terminal is busy. -/
theorem cancelOrder_unwinding {s : State} {l : LaneIx} (state : (s.lane l).order.state = .unwinding)
    (busy : (s.lane l).term.exchange ≠ none ∨ (s.lane l).term.sending ≠ none) :
    s.cancelOrder l = s.modOrder l fun o => { o.voidFrom .authorized with cancelPending := true } := by
  have term : ((s.modOrder l fun o => { o.voidFrom .authorized with cancelPending := true }).lane l).term = (s.lane l).term := by
    rw [State.modOrder, State.lane_modLane_same]
  simp only [State.cancelOrder, state]
  exact sendVoid_busy (by rw [term]; exact busy)

end Sys2Proof.Proofs.Emptying
end

section
/-! PROOFS of O36, O24 and O22: FINISH and CANCEL, ABORT, and ORDER with a malformed block. -/

namespace Sys2Proof.Proofs.Cancelling

open Sys2Proof Sys2Proof.Machine Sys2Proof.Proofs.Inputs Sys2Proof.Proofs.Requests Sys2Proof.Proofs.Words
open Sys2Proof.Proofs.LinkRules Sys2Proof.Proofs.SeatTimers Sys2Proof.Proofs.GivingUp Sys2Proof.Proofs.Emptying

/-! ### FINISH and CANCEL -/

theorem runningWord_of_fresh {s : State} {l : LaneIx} {w : OrderWord} (fresh : s.freshWord l = some w) :
    s.runningWord l = some (w, .fresh) := by
  obtain ⟨b, i, block, mode, word⟩ := freshWord_block fresh
  exact runningWord_eq block mode word

theorem not_pickRuns_of_fresh {s : State} {l : LaneIx} {w : OrderWord} (fresh : s.freshWord l = some w) : ¬ PickRuns s l :=
  not_pickRuns_of_word (runningWord_of_fresh fresh) fun _ _ _ => by simp

/-- A cancellation at once by a word that runs: nothing else waits on it. -/
theorem finishCancel_of_fresh {s : State} {l : LaneIx} {w : OrderWord} (fresh : s.freshWord l = some w) :
    s.finishCancel l = cancelled s l := by
  have block := (cancelled_emptied s l).block (not_pickRuns_of_fresh fresh)
  rw [finishCancel_eq]
  exact endCancelWait_word ((runningWord_congr block).trans (runningWord_of_fresh fresh)) (fun _ => by simp) _

theorem setPhase_lane (s : State) (l : LaneIx) (ph : WordPhase) :
    ((s.setPhase l ph).lane l).order = (s.lane l).order ∧ ((s.setPhase l ph).lane l).term = (s.lane l).term
      ∧ ((s.setPhase l ph).lane l).claim = (s.lane l).claim := by
  rw [State.setPhase, State.lane_modLane_same]
  exact ⟨rfl, rfl, rfl⟩

/-- An UNRESOLVED order ends: its report, raised once its seats are released, and its return to EMPTY (R125). -/
theorem endUnresolved_emptied (s : State) (l : LaneIx) (q : ReportQual) :
    Emptied l 1 (fun t => { t with pinDeadline := none }) (s.raise (s.unresolvedAs l q)).io s (s.endUnresolved l q) := by
  have gives := release_gives s l (s.lane l).order.liveSeats false
  have emptied := emptied_of_gives gives (fun t => { t with pinDeadline := none })
    ((s.release l (s.lane l).order.liveSeats false).raise
      ((s.release l (s.lane l).order.liveSeats false).unresolvedReport l q)).io
  have report : (s.release l (s.lane l).order.liveSeats false).unresolvedReport l q = s.unresolvedAs l q := by
    simp only [State.unresolvedReport, gives.order l]
    rfl
  refine { emptied with quiet := fun spare => ⟨(emptied.quiet spare).1.trans ?_, (emptied.quiet spare).2⟩ }
  rw [report]
  have io := (gives.quiet 0 (spare.mono (by omega))).2.1
  show raiseIo (s.release l (s.lane l).order.liveSeats false).house.record _ _ = raiseIo s.house.record _ s.io
  rw [io, gives.house]

theorem endUnresolved_free {s : State} {l : LaneIx} {q : ReportQual} {code : Nat} {r : SeatRef}
    (named : (s.lane l).order.code = some code) (hr : r ∈ (s.lane l).order.liveSeats) (held : s.seat code r = some (.held l)) :
    (s.endUnresolved l q).seat code r = some .free := by
  have release := release_free (withClaim := false) hr (by rw [seatCode_of_code named]; exact held)
  rw [seatCode_of_code named] at release
  exact (returnToEmpty_seat _ l code r).trans release

/-- Settles O36: the word by the order's state, with what a cancellation and an UNRESOLVED order come to. -/
theorem finishAndCancel : Obligations.FinishAndCancel := by
  intro s l live
  refine ⟨fun fresh => ⟨fun complete => ?_, fun empty => effects_word (w := .finish) live fresh (by simp only [State.runFinish, empty])⟩,
    fun fresh => ?_⟩
  · have emptied := emptied_of_gives (GivesUp.refl s l) id s.io
    have same : ({ s.modTerm l id with io := s.io } : State) = s :=
      modLane_self (s := s) (l := l) (f := fun x => { x with term := id x.term }) rfl
    rw [same] at emptied
    refine ⟨s.returnToEmpty l, effects_word (w := .finish) live fresh (by simp only [State.runFinish, complete]), emptied.order,
      emptied.attendance, emptied.renewal, emptied.block (not_pickRuns_of_fresh fresh), fun queue =>
      (emptied.quiet ((hasSpare_of_open queue).mono (by omega))).1, emptied.vouchers, fun issued =>
      emptied.vouchers.trans (returned_issued _ issued)⟩
  · have effect : ∀ m, s.runCancel l = m → Effects (.cancel l) s m := fun m h => effects_word (w := .cancel) live fresh h
    obtain ⟨order, term, -⟩ := setPhase_lane s l .taken
    refine ⟨fun empty => effect _ (by simp only [State.runCancel, empty]), fun lined => ?_, fun paying => effect _ ?_,
      fun i o1 short line sending exchange ho1 first => effect _ ?_, fun unwinding busy => effect _ ?_, fun unresolved => ?_⟩
    · have run : s.runCancel l = (s.cancelOrder l).endWord l .done := by
        rcases lined with state | state <;> simp only [State.runCancel, state]
      have emptied := cancelled_emptied s l
      refine ⟨cancelled s l, effect _ ?_, emptied.order, emptied.block (not_pickRuns_of_fresh fresh), emptied.vouchers,
        fun code r named hr held => cancelled_free named hr held⟩
      rw [run, cancelOrder_lined lined, finishCancel_of_fresh fresh]
    · rw [show s.runCancel l = (s.setPhase l .taken).cancelOrder l by simp only [State.runCancel, paying]]
      exact cancelOrder_paying (by rw [order, paying])
    · rw [show s.runCancel l = (s.setPhase l .taken).cancelOrder l by simp only [State.runCancel, short]]
      exact cancelOrder_short (by rw [order, short]) (by rw [term]; exact ⟨line, sending, exchange⟩) (by rw [order]; exact ho1) first
    · rw [show s.runCancel l = (s.setPhase l .taken).cancelOrder l by simp only [State.runCancel, unwinding]]
      exact cancelOrder_unwinding (by rw [order, unwinding]) (by rw [term]; exact busy)
    · have emptied := endUnresolved_emptied s l .cancelled
      exact ⟨s.endUnresolved l .cancelled, effect _ (by simp only [State.runCancel, unresolved]), emptied.order, by rw [emptied.term],
        emptied.block (not_pickRuns_of_fresh fresh), emptied.vouchers, fun queue =>
        (emptied.quiet ((hasSpare_of_open queue).mono (by omega))).1, fun code r named hr held => endUnresolved_free named hr held⟩

/-! ### ORDER -/

theorem restarted {s : State} {l : LaneIx} (busy : (s.lane l).order.state ≠ .empty) :
    s.restartAttendance l
      = s.modLane l fun x =>
          { x with attendance := some (s.house.clock + s.cfg.attendanceTimeout), order := { x.order with lapseHeld := false } } := by
  rw [restartAttendance_eq, if_neg busy]

theorem restartAttendance_block (s : State) (l : LaneIx) : ((s.restartAttendance l).lane l).block = (s.lane l).block := by
  rw [restartAttendance_eq]
  split
  · rfl
  · rw [State.lane_modLane_same]

theorem restartAttendance_order (s : State) (l : LaneIx) :
    ((s.restartAttendance l).lane l).order.state = (s.lane l).order.state
      ∧ ((s.restartAttendance l).lane l).order.tag = (s.lane l).order.tag := by
  rw [restartAttendance_eq]
  split
  · exact ⟨rfl, rfl⟩
  · rw [State.lane_modLane_same]
    exact ⟨rfl, rfl⟩

/-- An ORDER on a lane in use meets the block in progress, and its own form, once the attendance timer has restarted. -/
theorem takeOrder_some {s : State} {l : LaneIx} {t : TakenRequest} (lane : t.lane = l.val) (inUse : t.lane < s.cfg.laneCount) :
    s.takeOrder t = (s.restartAttendance l).orderOn l t := by
  simp only [State.takeOrder, requestLane_some lane inUse]

theorem orderOn_malformed {s : State} {l : LaneIx} {t : TakenRequest} {offset : Option Nat} {code : Code}
    (none : (s.lane l).block = none) (bad : readOrderBlock t.block = .malformed offset code) :
    s.orderOn l t = s.malformed l t offset code := by
  simp only [State.orderOn, none, bad]

theorem orderOn_block {s : State} {l : LaneIx} {t : TakenRequest} {tag : Nat} {words : List OrderWord}
    (none : (s.lane l).block = none) (read : readOrderBlock t.block = .block tag words) :
    s.orderOn l t = s.beginBlock l t tag words := by
  simp only [State.orderOn, none, read]

/-- A malformed block that cancels nothing: its status is written (R71, R72). -/
theorem malformed_written {s : State} {l : LaneIx} {t : TakenRequest} {offset : Option Nat} {code : Code}
    (h : s.cfg.policy = .lenient ∨ (s.lane l).order.state ∈
      ([.empty, .committing, .sold, .printing, .complete, .unresolved] : List OrderState)) :
    s.malformed l t offset code = s.complete t.ref (s.orderStatus l .malformed offset (some code) none []).bytes := by
  unfold State.malformed
  cases policy : s.cfg.policy with
  | lenient => rfl
  | strict =>
    have states := h.resolve_left (by simp [policy])
    cases state : (s.lane l).order.state <;> simp [state] at states ⊢

/-- Under STRICT a malformed block waits while a cancellation runs (R72). -/
theorem malformed_waits {s : State} {l : LaneIx} {t : TakenRequest} {offset : Option Nat} {code : Code}
    (strict : s.cfg.policy = .strict)
    (state : (s.lane l).order.state = .short ∨ (s.lane l).order.state = .paying ∨ (s.lane l).order.state = .unwinding) :
    s.malformed l t offset code = (s.setBlock l ⟨t.ref, 0, [], .strictWait offset code⟩).cancelOrder l := by
  unfold State.malformed
  rcases state with state | state | state <;> simp only [strict, state]

/-- Under STRICT a malformed block cancels an order in OPEN or QUOTED before its status is written. -/
theorem malformed_cancels {s : State} {l : LaneIx} {t : TakenRequest} {offset : Option Nat} {code : Code}
    (strict : s.cfg.policy = .strict) (none : (s.lane l).block = none)
    (state : (s.lane l).order.state = .opened ∨ (s.lane l).order.state = .quoted) :
    s.malformed l t offset code
      = (cancelled s l).complete t.ref (Status.bytes ⟨.malformed, offset, some code, .none, some .empty, .none, []⟩) := by
  have written : s.malformed l t offset code
      = (s.cancelOrder l).complete t.ref ((s.cancelOrder l).orderStatus l .malformed offset (some code) .none []).bytes := by
    unfold State.malformed
    rcases state with state | state <;> simp only [strict, state]
  rw [written, cancelOrder_lined state, finishCancel_of_none none, State.orderStatus, (cancelled_emptied s l).order]
  rfl

/-- Settles O22: the restart, then the block in progress, the tag, and a malformed block by policy and state. -/
theorem orderRequest : Obligations.OrderRequest := by
  refine ⟨fun s r t live lock next => ⟨fun beyond => ?_, fun l lane inUse hr => ?_⟩,
    fun s r l t offset code live lock next lane inUse none bad quiet hr => ?_,
    fun s r l t offset code waits o o1 live lock next lane inUse none bad strict ho ho1 hwaits hr => ?_⟩
  · refine effects_of_eq rfl live ((serve_owner next (.inl lock) _).trans ?_)
    simp only [State.takeOrder, requestLane_none (s := s.popTaken) beyond]
  · obtain rfl : r = s.popTaken.restartAttendance l := hr.trans (restartAttendance_eq s.popTaken l).symm
    have effect : ∀ m, (s.popTaken.restartAttendance l).orderOn l t = m → Effects .order s m := fun m h =>
      effects_of_eq rfl live ((serve_owner next (.inl lock) _).trans ((takeOrder_some (s := s.popTaken) lane inUse).trans h))
    have block := restartAttendance_block s.popTaken l
    obtain ⟨state, tag'⟩ := restartAttendance_order s.popTaken l
    refine ⟨fun busy => effect _ ?_, fun none tag words read => ⟨fun empty => effect _ ?_, fun held same => effect _ ?_,
      fun held other => effect _ ?_⟩⟩
    · obtain ⟨b, hb⟩ := Option.ne_none_iff_exists'.mp busy
      simp only [State.orderOn, block, popTaken_lane, hb]
    all_goals rw [orderOn_block (block.trans none) read, State.beginBlock]
    · rw [if_pos (state.trans empty)]
      exact modLane_modLane _ l _ _
    · rw [if_neg (by rw [state]; exact held), if_pos (tag'.trans same)]
      rfl
    · rw [if_neg (by rw [state]; exact held), if_neg (by rw [tag']; exact other)]
  · obtain rfl : r = s.popTaken.restartAttendance l := hr.trans (restartAttendance_eq s.popTaken l).symm
    obtain ⟨state, -⟩ := restartAttendance_order s.popTaken l
    refine effects_of_eq rfl live ((serve_owner next (.inl lock) _).trans ((takeOrder_some (s := s.popTaken) lane inUse).trans ?_))
    rw [orderOn_malformed ((restartAttendance_block s.popTaken l).trans none) bad]
    refine malformed_written (quiet.imp ?_ ?_)
    · rw [restartAttendance_eq]
      split <;> exact id
    · rw [state]
      exact id
  · have effect (busy : (s.lane l).order.state ≠ .empty) (m : State) (h : r.malformed l t offset code = m) : Effects .order s m := by
      refine effects_of_eq rfl live ((serve_owner next (.inl lock) _).trans ((takeOrder_some (s := s.popTaken) lane inUse).trans ?_))
      rw [orderOn_malformed ((restartAttendance_block s.popTaken l).trans none) bad, restarted (s := s.popTaken) busy]
      rw [hr] at h
      exact h
    have own : r.lane l = { s.lane l with attendance := some (s.house.clock + s.cfg.attendanceTimeout), order := o } := by
      rw [hr, ho]
      exact State.lane_modLane_same s.popTaken l _
    have empty : (s.lane l).order.state = o.state := by rw [ho]
    have strict' : r.cfg.policy = .strict := by rw [hr]; exact strict
    have none' : (r.lane l).block = .none := by rw [own]; exact none
    have waiting : (r.setBlock l waits).lane l = { r.lane l with block := some waits } := State.lane_modLane_same r l _
    refine ⟨fun lined => ?_, fun paying => effect (by simp [empty, paying]) _ ?_,
      fun short line sending exchange i first => effect (by simp [empty, short]) _ ?_,
      fun unwinding busy => effect (by simp [empty, unwinding]) _ ?_⟩
    · have lined' : (r.lane l).order.state = .opened ∨ (r.lane l).order.state = .quoted := by rw [own]; exact lined
      have emptied := cancelled_emptied r l
      refine ⟨cancelled r l, effect (by rcases lined with h | h <;> simp [empty, h]) _ (malformed_cancels strict' none' lined'),
        emptied.order, (emptied.block (not_pickRuns_of_none none')).trans none', emptied.attendance, fun queue => ?_, ?_,
        fun a x named hx held => ?_⟩
      · exact (emptied.quiet ((hasSpare_of_open (by rw [hr]; exact queue)).mono (by omega))).1
      · rw [emptied.vouchers, own, hr]
        rfl
      · refine cancelled_free (by rw [own]; exact named) (by rw [own]; exact hx) ?_
        rw [hr]
        exact held
    · rw [malformed_waits strict' (by rw [own]; exact .inr (.inl paying)), ← hwaits, cancelOrder_paying (by rw [waiting, own]; exact paying)]
      refine (modLane_modLane r l _ _).trans (modLane_congr ?_)
      rw [own]
    · rw [malformed_waits strict' (by rw [own]; exact .inl short), ← hwaits, cancelOrder_short (o1 := { o1 with state := .unwinding }) (by rw [waiting, own]; exact short)
        (by rw [waiting, own]; exact ⟨line, sending, exchange⟩) (by rw [waiting, own, ho1]) first, ho1]
      exact (modLane_modLane r l _ _)
    · rw [malformed_waits strict' (by rw [own]; exact .inr (.inr unwinding)), ← hwaits,
        cancelOrder_unwinding (by rw [waiting, own]; exact unwinding) (by rw [waiting, own]; exact busy)]
      refine (modLane_modLane r l _ _).trans (modLane_congr ?_)
      rw [own, ho1]

end Sys2Proof.Proofs.Cancelling
end

section
/-! PROOFS of O24: ABORT. -/

namespace Sys2Proof.Proofs.Aborting

open Sys2Proof Sys2Proof.Machine Sys2Proof.Proofs.Inputs Sys2Proof.Proofs.Requests Sys2Proof.Proofs.Words
open Sys2Proof.Proofs.LinkRules Sys2Proof.Proofs.Received Sys2Proof.Proofs.SeatTimers Sys2Proof.Proofs.GivingUp
open Sys2Proof.Proofs.Emptying Sys2Proof.Proofs.Cancelling Sys2Proof.Proofs.TransmitEnd

/-! ### A release, exactly -/

/-- Nothing of the order waits in the queue: no pending SALE, no RENEW queued and none owed. -/
structure NoRenewal (s : State) (l : LaneIx) : Prop where
  sale : (s.lane l).sale = none
  renew : s.link.renewOf l (s.lane l).order.tag = none
  owed : s.link.owed.get l = false

/-- With no renewal seat left and nothing waiting, only the renewal timer stops. -/
theorem NoRenewal.shrunk {s : State} {l : LaneIx} (h : NoRenewal s l) (seats : s.renewalSeats l = []) :
    s.renewalShrunk l = s.modLane l fun y => { y with renewal := none } := renewalShrunk_none seats h.renew h.owed

/-- A RELEASE and a HOLD are no renewal. -/
theorem renewOf_append {k : Link} {l : LaneIx} {tag : Option Nat} {q : List Entry} (h : k.renewOf l tag = none)
    (q_no : ∀ x ∈ q, x.notice.isRenew = false) : ({ k with queue := k.queue ++ q } : Link).renewOf l tag = none := by
  refine List.find?_eq_none.mpr fun x hx => ?_
  rcases List.mem_append.mp hx with hx | hx
  · exact List.find?_eq_none.mp h x hx
  · simp [q_no x hx]

theorem renewOf_sublist {k j : Link} {l : LaneIx} {tag : Option Nat} (h : k.renewOf l tag = none) (sub : ∀ x ∈ j.queue, x ∈ k.queue) :
    j.renewOf l tag = none := List.find?_eq_none.mpr fun x hx => List.find?_eq_none.mp h x (sub x hx)

theorem claim_stays {s : State} {l : LaneIx} (queued : (s.lane l).claim.state ≠ .queued) (contest : (s.lane l).claim.state ≠ .contest) :
    s.giveUpClaim l = s := by
  rcases giveUpClaim_cases s l with ⟨-, -, h⟩ | ⟨e, h, -⟩ | ⟨h | h, -⟩
  · exact h
  · exact absurd h queued
  · exact absurd h queued
  · exact absurd h contest

/-- With none of its seats HELD the order named has no renewal seat. -/
theorem renewalSeats_freed {s : State} {l : LaneIx} {code : Nat} (sale : (s.lane l).sale = none) (named : (s.lane l).order.code = some code)
    (free : ∀ r ∈ (s.lane l).order.liveSeats, s.seat code r ≠ some (.held l)) : s.renewalSeats l = [] := by
  have none : (s.lane l).order.liveSeats.filter (s.seatHeld code l) = [] :=
    List.filter_eq_nil_iff.mpr fun r hr held => free r hr (seatHeld_iff.mp held)
  simp only [State.renewalSeats, sale, named, none]
  rfl

/-- An order with no claim in flight that releases its seats, all HELD: they are announced in one RELEASE. -/
theorem release_link {s : State} {l : LaneIx} {code : Nat} (none : NoRenewal s l) (queue : QueueOpen s.link)
    (queued : (s.lane l).claim.state ≠ .queued) (contest : (s.lane l).claim.state ≠ .contest) (named : (s.lane l).order.code = some code)
    (lined : (s.lane l).order.liveSeats ≠ []) (held : ∀ x ∈ (s.lane l).order.liveSeats, s.seat code x = some (.held l)) :
    s.release l (s.lane l).order.liveSeats true
      = ((freed s l (s.lane l).order.liveSeats).modLink fun k =>
          k.withEntry (.release code (planOrder (s.lane l).order.liveSeats)) .release (some l)
            ((s.lane l).order.tag.or (s.lane l).claim.tag)).modLane l fun y => { y with renewal := Option.none } := by
  have seatCode := seatCode_of_code named
  have given : givenClaim s l (s.lane l).order.liveSeats true = freed s l (s.lane l).order.liveSeats :=
    claim_stays (s := freed s l (s.lane l).order.liveSeats) queued contest
  have all : (s.lane l).order.liveSeats.filter (s.seatHeld code l) = (s.lane l).order.liveSeats :=
    List.filter_eq_self.mpr fun x hx => seatHeld_iff.mpr (held x hx)
  have some_ : ((s.lane l).order.liveSeats ++ ([] : List SeatRef)).isEmpty = false := by simpa using lined
  rw [release_eq, given, seatCode, all, if_neg (by simp [contest]), State.offerRelease, if_neg (by rw [some_]; simp), List.append_nil,
    offer_open (s := freed s l (s.lane l).order.liveSeats) queue]
  refine NoRenewal.shrunk (s := (freed s l (s.lane l).order.liveSeats).modLink fun k =>
      k.withEntry (.release code (planOrder (s.lane l).order.liveSeats)) .release (some l)
        ((s.lane l).order.tag.or (s.lane l).claim.tag)) ⟨none.sale, renewOf_append none.renew (by simp [Notice.isRenew]), none.owed⟩ ?_
  refine renewalSeats_freed none.sale named fun r hr still => ?_
  have free := freed_free (s := s) (l := l) (seats := (s.lane l).order.liveSeats) hr (by rw [seatCode]; exact held r hr)
  rw [seatCode] at free
  have : (freed s l (s.lane l).order.liveSeats).seat code r = some (.held l) := still
  rw [free] at this
  simp at this

/-- The return to EMPTY of an order with nothing waiting leaves the link. -/
theorem returnToEmpty_link {s : State} {l : LaneIx} (renew : s.link.renewOf l (s.lane l).order.tag = none)
    (owed : s.link.owed.get l = false) : (s.returnToEmpty l).link = s.link := by
  have lane := State.lane_modLane_same s l fun x => { x with sale := none, order := { x.order with seatLines := [] } }
  have shrunk := renewalShrunk_none (renewalSeats_unlined s l)
    (by rw [lane]; exact renew) owed
  unfold State.returnToEmpty
  simp only [shrunk, State.returnLines_eq]
  rfl

/-- A cancellation of an order with no claim in flight and nothing waiting: one RELEASE enters (R63, R80). -/
theorem cancelled_link {s : State} {l : LaneIx} {code : Nat} (none : NoRenewal s l) (queue : QueueOpen s.link)
    (queued : (s.lane l).claim.state ≠ .queued) (contest : (s.lane l).claim.state ≠ .contest) (named : (s.lane l).order.code = some code)
    (lined : (s.lane l).order.liveSeats ≠ []) (held : ∀ x ∈ (s.lane l).order.liveSeats, s.seat code x = some (.held l)) :
    (cancelled s l).link
      = s.link.withEntry (.release code (planOrder (s.lane l).order.liveSeats)) .release (some l)
          ((s.lane l).order.tag.or (s.lane l).claim.tag) := by
  have order : (((s.release l (s.lane l).order.liveSeats true).modTerm l fun t => { t with cause := Option.none }).lane l).order
      = (s.lane l).order := by
    rw [State.modTerm, State.lane_modLane_same]
    exact (release_gives s l _ true).order l
  have link : ((s.release l (s.lane l).order.liveSeats true).modTerm l fun t => { t with cause := Option.none }).link
      = s.link.withEntry (.release code (planOrder (s.lane l).order.liveSeats)) .release (some l)
          ((s.lane l).order.tag.or (s.lane l).claim.tag) :=
    congrArg State.link (release_link none queue queued contest named lined held)
  refine (returnToEmpty_link ?_ ?_).trans link
  · rw [order, link]
    exact renewOf_append none.renew (by simp [Notice.isRenew])
  · rw [link]
    exact none.owed

/-- A claim in flight that is given up while nothing else is owed, and its order holds no seat. -/
theorem release_unordered {s : State} {l : LaneIx} (screening : (s.lane l).order.screening = none) :
    s.release l [] true
      = ((s.giveUpClaim l).offerRelease l ((s.lane l).order.tag.or (s.lane l).claim.tag) (s.lane l).claim.code
          (if (s.lane l).claim.state = .contest then (s.lane l).claim.seatRefs.filter (s.seatClaimed (s.lane l).claim.code l)
            else [])).renewalShrunk l := by
  have seatCode : (s.lane l).seatCode = (s.lane l).claim.code := by simp [Lane.seatCode, Order.code, screening]
  have same : freed s l [] = s := mapSeats_nil _ _ _
  rw [release_eq, givenClaim, if_pos rfl, same, seatCode]
  simp only [List.filter_nil, List.nil_append, Bool.true_and, decide_eq_true_eq]

/-! ### ABORT -/

section Abort

variable {s : State} {l : LaneIx} {t : TakenRequest} {b : Block}

/-- The lane's block is no longer in progress. -/
def unblocked (s : State) (l : LaneIx) : State := s.modLane l fun x => { x with block := none }

theorem unblocked_lane (s : State) (l : LaneIx) : (unblocked s l).lane l = { s.lane l with block := none } :=
  State.lane_modLane_same s l _

theorem takeAbort_block (lane : t.lane = l.val) (inUse : t.lane < s.cfg.laneCount) (block : (s.lane l).block = some b) :
    s.takeAbort t = (s.abortBlock l b).complete t.ref (Status.plain .done).bytes := by
  simp only [State.takeAbort, requestLane_some lane inUse, block]

theorem abortBlock_eq {m : State} (h : (unblocked s l).cancelOrder l = m) :
    s.abortBlock l b = m.complete b.ref (m.orderStatus l .aborted (s.runningOffset l) none none []).bytes := by
  rw [← h]
  rfl

/-- The status of a block whose order keeps its state and its quote. -/
theorem orderStatus_congr {s m : State} {l : LaneIx} (state : (m.lane l).order.state = (s.lane l).order.state)
    (total : (m.lane l).order.currentTotal = (s.lane l).order.currentTotal) (c : Completion) (offset : Option Nat) (code : Option Code)
    (residual : Option Residual) (offending : List SeatRef) :
    m.orderStatus l c offset code residual offending = s.orderStatus l c offset code residual offending := by
  simp only [State.orderStatus, state, total]

end Abort

/-- The claim of an order that holds no seat and no renewal is given up by a cancellation (R87). -/
theorem claimGivenUp {s : State} {l : LaneIx} (screening : (s.lane l).order.screening = none) (none : NoRenewal s l)
    (owed : NothingOwed s.link) (queue : QueueOpen s.link) :
    (∀ e, (s.lane l).claim.state = .queued → s.link.holdOf l = some e → s.link.onPair e.id = false →
        (s.release l [] true).link = s.link.without e.id)
      ∧ ((s.lane l).claim.state = .contest → (s.lane l).claim.seats.map ClaimSeat.seat ≠ [] →
        (∀ x ∈ (s.lane l).claim.seats.map ClaimSeat.seat, s.seat (s.lane l).claim.code x = some (.claiming l)) →
          (s.release l [] true).link
            = s.link.withEntry (.release (s.lane l).claim.code (planOrder ((s.lane l).claim.seats.map ClaimSeat.seat))) .release
                (some l) ((s.lane l).order.tag.or (s.lane l).claim.tag)) := by
  have lane : (((s.freeClaim l).clearClaim l).lane l) = { s.lane l with claim := Claim.blank } :=
    State.lane_modLane_same (s.freeClaim l) l _
  have order : (((s.freeClaim l).clearClaim l).lane l).order = (s.lane l).order := by rw [lane]
  have sale : (((s.freeClaim l).clearClaim l).lane l).sale = Option.none := by rw [lane]; exact none.sale
  have seats (u : State) (order : (u.lane l).order = (s.lane l).order) (sale : (u.lane l).sale = Option.none) :
      u.renewalSeats l = [] := by
    simp only [State.renewalSeats, order, sale, Order.code, screening]
    rfl
  rw [release_unordered screening]
  refine ⟨fun e queued hold off => ?_, fun contest named claiming => ?_⟩
  · have mem : e ∈ s.link.queue := List.mem_of_find?_eq_some hold
    have given : s.giveUpClaim l = ((s.freeClaim l).clearClaim l).modLink fun k => k.without e.id := by
      simp only [State.giveUpClaim, queued, hold, off, Bool.false_eq_true, if_false]
      exact removeEntry_without (s := (s.freeClaim l).clearClaim l) owed off mem
    rw [given, if_neg (by simp [queued]), State.offerRelease, if_pos List.isEmpty_nil]
    have renew : (s.link.without e.id).renewOf l (((s.freeClaim l).clearClaim l).lane l).order.tag = Option.none := by
      rw [lane]
      exact renewOf_sublist none.renew fun x hx => (List.mem_filter.mp hx).1
    rw [renewalShrunk_none (s := ((s.freeClaim l).clearClaim l).modLink fun k => k.without e.id)
      (seats _ order sale) renew none.owed]
    rfl
  · have given : s.giveUpClaim l = (s.freeClaim l).clearClaim l := by
      simp only [State.giveUpClaim, contest]
    have all : (s.lane l).claim.seatRefs.filter (s.seatClaimed (s.lane l).claim.code l) = (s.lane l).claim.seats.map ClaimSeat.seat :=
      List.filter_eq_self.mpr fun x hx => seatClaimed_iff.mpr (claiming x hx)
    rw [given, if_pos contest, all, State.offerRelease, if_neg (by simpa using named),
      offer_open (s := (s.freeClaim l).clearClaim l) queue]
    have renew : (s.link.withEntry (.release (s.lane l).claim.code (planOrder ((s.lane l).claim.seats.map ClaimSeat.seat))) .release
        (some l) ((s.lane l).order.tag.or (s.lane l).claim.tag)).renewOf l (((s.freeClaim l).clearClaim l).lane l).order.tag
          = Option.none := by
      rw [lane]
      exact renewOf_append none.renew (by simp [Notice.isRenew])
    rw [renewalShrunk_none (s := ((s.freeClaim l).clearClaim l).modLink fun k => k.withEntry (.release (s.lane l).claim.code
      (planOrder ((s.lane l).claim.seats.map ClaimSeat.seat))) .release (some l) ((s.lane l).order.tag.or (s.lane l).claim.tag))
      (seats _ order sale) renew none.owed]
    rfl

/-- Settles O24: the refusals, and the order's cancellation by its state before the block's status is written. -/
theorem abortRequest : Obligations.AbortRequest := by
  intro s t live lock next
  refine ⟨fun beyond => ?_, fun l lane inUse => ⟨fun none => ?_, fun b block => ?_⟩⟩
  · refine effects_of_eq rfl live ((serve_owner next (.inl lock) _).trans ?_)
    simp only [State.takeAbort, requestLane_none (s := s.popTaken) beyond]
  · refine effects_of_eq rfl live ((serve_owner next (.inl lock) _).trans ?_)
    simp only [State.takeAbort, requestLane_some (s := s.popTaken) lane inUse, popTaken_lane, none]
  have own := unblocked_lane s.popTaken l
  have effect (m : State) (h : (unblocked s.popTaken l).cancelOrder l = m) :
      Effects .abort s ((m.complete b.ref (m.orderStatus l .aborted (s.runningOffset l) .none .none []).bytes).complete t.ref
        (Status.plain .done).bytes) := by
    refine effects_of_eq rfl live ((serve_owner next (.inl lock) _).trans ?_)
    rw [takeAbort_block (s := s.popTaken) lane inUse block, abortBlock_eq h]
    rfl
  refine ⟨fun stays => ?_, fun paying => ?_, fun o o1 ended ho ho1 hended => ?_⟩
  · have kept : (unblocked s.popTaken l).cancelOrder l = unblocked s.popTaken l := cancelOrder_stays (by
      rw [own]
      simpa using stays)
    have effect := effect _ kept
    rw [orderStatus_congr (s := s) (by rw [own]; rfl) (by rw [own]; rfl)] at effect
    exact effect
  · have pending : (unblocked s.popTaken l).cancelOrder l
        = s.popTaken.modLane l fun x => { x with block := none, order := { x.order with cancelPending := true } } :=
      (cancelOrder_paying (by rw [own]; exact paying)).trans (modLane_modLane s.popTaken l _ _)
    have effect := effect _ pending
    rw [orderStatus_congr (s := s) (by rw [State.lane_modLane_same]; rfl) (by rw [State.lane_modLane_same]; rfl)] at effect
    exact effect
  · subst hended ho
    have free : ((unblocked s.popTaken l).lane l).block = .none := by rw [own]
    refine ⟨fun refs lined hrefs => ?_, fun short line sending exchange i first => effect _ ?_,
      fun unwinding busy => effect _ ?_, fun refs code empty screening sale renew owed queue hrefs hcode => ?_⟩
    · have emptied := cancelled_emptied (unblocked s.popTaken l) l
      have lined' : ((unblocked s.popTaken l).lane l).order.state = .opened
          ∨ ((unblocked s.popTaken l).lane l).order.state = .quoted := by rw [own]; exact lined
      have claim : ((unblocked s.popTaken l).lane l).claim = (s.lane l).claim := by rw [own]; rfl
      have order : ((unblocked s.popTaken l).lane l).order = (s.lane l).order := by rw [own]; rfl
      refine ⟨cancelled (unblocked s.popTaken l) l, effect _ ((cancelOrder_lined lined').trans (finishCancel_of_none free)),
        emptied.order, (emptied.block (not_pickRuns_of_none free)).trans free, emptied.attendance, emptied.renewal, ?_,
        fun queue => ?_, fun code named => ⟨fun x hx held => ?_, fun inFlight named' off => ⟨?_, fun x hx claiming => ?_⟩,
          fun queued contest queue owed sale renew lines held => ?_⟩⟩
      · rw [emptied.vouchers, order]
        rfl
      · obtain ⟨io, others, -⟩ := emptied.quiet ((hasSpare_of_open queue).mono (by omega))
        exact ⟨io, fun k hk => (others k hk).trans (lane_modLane_other hk _)⟩
      · exact cancelled_free (by rw [order]; exact named) (by rw [order]; exact hx) held
      · exact cancelled_claim (by rw [claim]; exact inFlight) off
      · subst hrefs
        have free := cancelled_claimed (s := unblocked s.popTaken l) (l := l) (r := x) (by rw [claim]; exact inFlight) off
          (by rw [claim]; exact hx) (by rw [claim, named']; exact claiming)
        rw [claim, named'] at free
        exact free
      · have exact_ := cancelled_link (s := unblocked s.popTaken l) (l := l) (code := code)
          ⟨by rw [own]; exact sale, by rw [order]; exact renew, owed.2 l⟩ queue (by rw [claim]; exact queued)
          (by rw [claim]; exact contest) (by rw [order]; exact named) (by rw [order]; exact lines) (by rw [order]; exact held)
        rw [order, claim] at exact_
        exact exact_
    · rw [cancelOrder_short (o1 := { o1 with state := .unwinding }) (by rw [own]; exact short)
        (by rw [own]; exact ⟨line, sending, exchange⟩) (by rw [own, ho1]; rfl) first, ho1]
      exact modLane_modLane s.popTaken l _ _
    · rw [cancelOrder_unwinding (by rw [own]; exact unwinding) (by rw [own]; exact busy)]
      refine (modLane_modLane s.popTaken l _ _).trans (modLane_congr ?_)
      rw [ho1]
      rfl
    · have claim : ((unblocked s.popTaken l).lane l).claim = (s.lane l).claim := by rw [own]; rfl
      have order : ((unblocked s.popTaken l).lane l).order = (s.lane l).order := by rw [own]; rfl
      have gives := release_gives (unblocked s.popTaken l) l [] true
      have released : (unblocked s.popTaken l).cancelOrder l = (unblocked s.popTaken l).release l [] true := by
        simp only [State.cancelOrder, own]
        simp only [popTaken_lane, empty]
      obtain ⟨-, io, others, -⟩ := gives.quiet 0 ((hasSpare_of_open queue).mono (by omega))
      obtain ⟨withdrawn, announced⟩ := claimGivenUp (s := unblocked s.popTaken l) (l := l) (by rw [order]; exact screening)
        ⟨by rw [own]; exact sale, by rw [order]; exact renew, owed.2 l⟩ owed queue
      rw [claim] at withdrawn announced
      rw [order] at announced
      subst hrefs hcode
      refine ⟨_, effect _ released, (gives.order l).trans order, (gives.block l (not_pickRuns_of_none free)).trans free,
        fun k hk => (others k hk).trans (lane_modLane_other hk _), io, fun inFlight off =>
        ⟨release_claim (by rw [claim]; exact inFlight) off, fun x hx claiming => ?_⟩, withdrawn, announced⟩
      have free := release_claimed (s := unblocked s.popTaken l) (l := l) (seats := []) (r := x) (by rw [claim]; exact inFlight) off
        (by rw [claim]; exact hx) (by rw [claim]; exact claiming)
      rw [claim] at free
      exact free

end Sys2Proof.Proofs.Aborting
end

section
/-! PROOFS of O33: DROP, and a queued notice that stays. -/

namespace Sys2Proof.Proofs.Dropping

open Sys2Proof Sys2Proof.Machine Sys2Proof.Proofs.Inputs Sys2Proof.Proofs.Requests Sys2Proof.Proofs.Words
open Sys2Proof.Proofs.LineWords Sys2Proof.Proofs.LinkRules Sys2Proof.Proofs.Received Sys2Proof.Proofs.Closing
open Sys2Proof.Proofs.SeatTimers Sys2Proof.Proofs.GivingUp Sys2Proof.Proofs.Emptying Sys2Proof.Proofs.Cancelling
open Sys2Proof.Proofs.Aborting

/-! ### Plan order -/

theorem insertSeat_perm (r : SeatRef) (rs : List SeatRef) : (insertSeat r rs).Perm (r :: rs) := by
  induction rs with
  | nil => exact .refl _
  | cons x xs ih =>
    unfold insertSeat
    split
    · exact .refl _
    · exact (ih.cons x).trans (.swap r x xs)

theorem planOrder_perm (rs : List SeatRef) : (planOrder rs).Perm rs := by
  induction rs with
  | nil => exact .refl _
  | cons r rs ih => exact (insertSeat_perm r _).trans (ih.cons r)

theorem mem_planOrder {r : SeatRef} {rs : List SeatRef} : r ∈ planOrder rs ↔ r ∈ rs := (planOrder_perm rs).mem_iff

/-! ### An entry that stays -/

/-- A notice of a lane is queued under this id. -/
def Queued (n : Notice) (l : LaneIx) (i : Nat) (k : Link) : Prop := ∃ e ∈ k.queue, e.notice = n ∧ e.lane = some l ∧ e.id = i

section Queued

variable {n : Notice} {l : LaneIx} {i : Nat} {k : Link}

theorem Queued.append (h : Queued n l i k) (q : List Entry) : Queued n l i { k with queue := k.queue ++ q } := by
  obtain ⟨e, he, rest⟩ := h
  exact ⟨e, List.mem_append_left q he, rest⟩

theorem Queued.modEntry (h : Queued n l i k) {j : Nat} {f : Entry → Entry}
    (other : j ≠ i ∨ ∀ e, (f e).notice = e.notice ∧ (f e).lane = e.lane ∧ (f e).id = e.id) : Queued n l i (k.modEntry j f) := by
  obtain ⟨e, he, notice, lane, id⟩ := h
  refine ⟨if e.id = j then f e else e, List.mem_map_of_mem (f := fun e => if e.id = j then f e else e) he, ?_⟩
  split
  next same =>
    obtain ⟨a, b, c⟩ := other.resolve_left (not_not.mpr (same.symm.trans id)) e
    exact ⟨a.trans notice, b.trans lane, c.trans id⟩
  · exact ⟨notice, lane, id⟩

theorem Queued.drop (h : Queued n l i k) {j : Nat} (other : j ≠ i) : Queued n l i (k.drop j) := by
  obtain ⟨e, he, notice, lane, id⟩ := h
  exact ⟨e, List.mem_filter.mpr ⟨he, by simpa [id] using other.symm⟩, notice, lane, id⟩

theorem Queued.takeOverflow (h : Queued n l i k) : Queued n l i k.takeOverflow := by
  unfold Link.takeOverflow
  split
  · split
    · exact h.append _
    · exact h
  · exact h

theorem Queued.placeFreed {s : State} (h : Queued n l i s.link) : Queued n l i s.placeFreed.link := by
  have owed : ∀ (ls : List LaneIx) (u : State), Queued n l i u.link → Queued n l i (ls.foldl State.takeOwed u).link := by
    intro ls
    induction ls with
    | nil => exact fun _ h => h
    | cons j ls ih =>
      refine fun u h => ih _ ?_
      unfold State.takeOwed
      split
      · split
        · exact h
        · obtain ⟨e, he, rest⟩ := h
          exact ⟨e, List.mem_append_left _ he, rest⟩
      · exact h
  exact owed laneOrder (s.modLink Link.takeOverflow) h.takeOverflow

theorem Queued.removeEntry {s : State} (h : Queued n l i s.link) {j : Nat} (other : j ≠ i) :
    Queued n l i (s.removeEntry j).link := by
  unfold State.removeEntry
  split
  · exact h.modEntry (.inl other)
  · split
    · refine Queued.placeFreed ?_
      show Queued n l i (if s.link.inContention j then (s.link.drop j).idle else s.link.drop j)
      split
      · exact h.drop other
      · exact h.drop other
    · exact h

/-- A queued notice that is no RENEW stays when an order's renewal meets a release. -/
theorem Queued.renewalShrunk {s : State} (h : Queued n l i s.link) (m : LaneIx)
    (renews : ∀ e ∈ s.link.queue, e.id = i → e.notice.isRenew = false) : Queued n l i (s.renewalShrunk m).link := by
  have found {tag : Option Nat} {e : Entry} (he : s.link.renewOf m tag = some e) : e.id ≠ i := fun id => by
    have renew : e.notice.isRenew = true := by
      have := List.find?_some he
      simp only [Bool.and_eq_true] at this
      exact this.1.1
    rw [renews e (List.mem_of_find?_eq_some he) id] at renew
    simp at renew
  by_cases none : s.renewalSeats m = []
  · have lane : (s.modLane m fun x => { x with renewal := Option.none }).lane m = { s.lane m with renewal := Option.none } :=
      State.lane_modLane_same s m _
    have same : (s.modLane m fun x => { x with renewal := Option.none }).renewalSeats m = s.renewalSeats m :=
      renewalSeats_congr (by rw [lane]) (by rw [lane]) rfl
    have seats := same.trans none
    rw [State.renewalShrunk, if_pos (by simp [none])]
    show Queued n l i { ((s.modLane m _).offerRenew m .renewNormal).link with owed := _ }
    refine (show Queued n l i ((s.modLane m fun x => { x with renewal := Option.none }).offerRenew m .renewNormal).link from ?_)
    unfold State.offerRenew
    simp only [seats, List.isEmpty_nil, if_true]
    split
    next e he => exact Queued.removeEntry (s := s.modLane m fun x => { x with renewal := Option.none }) h (found he)
    · exact h
  · rw [State.renewalShrunk, if_neg (by simpa using none)]
    split
    next queued =>
      obtain ⟨e, he⟩ := Option.isSome_iff_exists.mp queued
      unfold State.offerRenew
      simp only [he]
      rw [if_neg (by simpa using none)]
      show Queued n l i (s.link.mergeRenew e _ _)
      unfold Link.mergeRenew
      split
      · exact h.modEntry (.inl (found he))
      · exact h.modEntry (.inl (found he))
    · exact h

end Queued

/-! ### DROP -/

theorem notInOrder_eq (o : Order) (seats : List SeatRef) :
    o.notInOrder seats = seats.filter fun r => r ∉ o.seatLines.map SeatLine.seat := by
  refine List.filter_congr fun r _ => ?_
  rw [List.contains_eq_mem, decide_not]

theorem renewalShrunk_seat (s : State) (l : LaneIx) (c : Nat) (r : SeatRef) : (s.renewalShrunk l).seat c r = s.seat c r := by
  obtain ⟨r', k, h, -⟩ := renewalShrunk_linkOnly s l
  rw [h]
  rfl

/-- A HELD seat that a release does not name stays HELD. -/
theorem release_stays {s : State} {l : LaneIx} {seats : List SeatRef} {c : Nat} {r : SeatRef} {st : SeatState} (hr : r ∉ seats)
    (held : s.seat c r = some st) (other : ∀ k, st ≠ .claiming k) : (s.release l seats false).seat c r = some st := by
  have freed_ : (freed s l seats).seat c r = some st := by
    rw [freed, seat_mapSeats, held, Option.map_some, if_neg fun h => hr (List.mem_filter.mp h.2).1]
  rw [release_eq, renewalShrunk_seat]
  exact (offerRelease_turn (freed s l seats) l _ _ _).seats c r st freed_ other

/-- HELD seats released while there is room are announced. -/
theorem release_announced {s : State} {l : LaneIx} {seats : List SeatRef} {code : Nat} (capacity : LinkCapacity s.link)
    (room : HasRoom 1 s.link) (named : (s.lane l).order.code = some code) (nonempty : seats ≠ [])
    (held : ∀ r ∈ seats, s.seat code r = some (.held l)) :
    Queued (.release code (planOrder seats)) l s.link.nextId (s.release l seats false).link := by
  have seatCode := seatCode_of_code named
  have all : seats.filter (s.seatHeld code l) = seats := List.filter_eq_self.mpr fun r hr => seatHeld_iff.mpr (held r hr)
  have offered : (freed s l seats).offerRelease l ((s.lane l).order.tag.or (s.lane l).claim.tag) code (seats ++ [])
      = (freed s l seats).modLink fun k =>
          k.withEntry (.release code (planOrder seats)) .release (some l) ((s.lane l).order.tag.or (s.lane l).claim.tag) := by
    rw [List.append_nil, State.offerRelease, if_neg (by simpa using nonempty)]
    exact offer_room (s := freed s l seats) (cls := .release) room _ rfl _ _
  have given : givenClaim s l seats false = freed s l seats := rfl
  rw [release_eq, given, seatCode, all, if_neg (by simp), offered]
  have entered : Queued (.release code (planOrder seats)) l s.link.nextId (s.link.withEntry (.release code (planOrder seats)) .release
      (some l) ((s.lane l).order.tag.or (s.lane l).claim.tag)) :=
    ⟨_, List.mem_append_right _ (List.mem_singleton_self _), rfl, rfl, rfl⟩
  refine Queued.renewalShrunk (s := (freed s l seats).modLink fun k =>
    k.withEntry (.release code (planOrder seats)) .release (some l) ((s.lane l).order.tag.or (s.lane l).claim.tag)) entered l fun e he id => ?_
  rcases List.mem_append.mp he with he | he
  · have fresh := capacity.fresh e (List.mem_append_left _ he)
    exact absurd id (Nat.ne_of_lt fresh)
  · rw [List.mem_singleton.mp he]
    rfl

/-- A lane whose lines of some seats have left (R78, R81). -/
def droppedLane (s : State) (seats : List SeatRef) (x : Lane) : Lane :=
  { x with
    attendance := if x.order.state = .empty then some (s.house.clock + s.cfg.attendanceTimeout) else x.attendance
    order :=
      { x.order with
        seatLines := x.order.seatLines.filter fun v => !seats.contains v.seat, state := .opened, quoteCurrent := false } }

/-- Settles O33: the check, and the lines that leave once their seats are released. -/
theorem dropWord : Obligations.DropWord := by
  intro s l seats code live fresh form state named tag
  have effect : ∀ m, s.runDrop l seats = m → Effects (.drop l) s m := fun m h => effects_word (w := .drop seats) live fresh h
  have form' : dropFormOk seats = true := form
  have open' : s.openOrQuoted l = true := openOrQuoted_iff.mpr state
  refine ⟨fun ⟨r, hr, out⟩ => effect _ ?_, fun all => ?_⟩
  · have bad : ((s.lane l).order.notInOrder seats).isEmpty = false := by
      rw [notInOrder_eq, List.isEmpty_eq_false_iff]
      exact List.ne_nil_of_mem (List.mem_filter.mpr ⟨hr, by simpa using out⟩)
    simp only [State.runDrop, form', open', bad]
    rw [notInOrder_eq]
    rfl
  · have good : ((s.lane l).order.notInOrder seats).isEmpty = true := by
      rw [notInOrder_eq, List.isEmpty_iff]
      exact List.filter_eq_nil_iff.mpr fun r hr => by simpa using all r hr
    have gives := release_gives s l seats false
    have block := gives.block l (not_pickRuns_of_fresh fresh)
    have lined := linesChanged_modOrder (s := s.release l seats false) (l := l)
      (f := fun o => { o with seatLines := o.seatLines.filter fun v => !seats.contains v.seat })
      (by rw [gives.order l]; exact tag) rfl
    have own := State.lane_modLane_same (s.release l seats false) l (droppedLane (s.release l seats false) seats)
    refine ⟨(s.release l seats false).modLane l (droppedLane (s.release l seats false) seats), effect _ ?_, ?_, ?_,
      fun r hr held => ?_, fun r hr held => ?_, fun capacity link room held => ?_⟩
    · simp only [State.runDrop, form', open', good, State.applyDrop, lined]
      rfl
    · rw [own]
      exact block
    · rw [own, droppedLane, gives.order l]
      simp
    · have free := release_free (withClaim := false) hr (by rw [seatCode_of_code named]; exact held)
      rw [seatCode_of_code named] at free
      exact free
    · exact release_stays hr held (by simp)
    · have nonempty : seats ≠ [] := by
        rintro rfl
        simp [dropFormOk] at form'
      obtain ⟨e, he, notice, lane, -⟩ := release_announced capacity ⟨link, room⟩ named nonempty held
      exact ⟨e, he, notice, lane⟩

end Sys2Proof.Proofs.Dropping
end

section
/-! PROOFS of O53 and O54: the marks of a renewal timer, and an attendance lapse. -/

namespace Sys2Proof.Proofs.Lapses

open Sys2Proof Sys2Proof.Machine Sys2Proof.Proofs.Inputs Sys2Proof.Proofs.Requests Sys2Proof.Proofs.Words
open Sys2Proof.Proofs.LineWords Sys2Proof.Proofs.LinkRules Sys2Proof.Proofs.Received Sys2Proof.Proofs.Closing
open Sys2Proof.Proofs.SeatTimers Sys2Proof.Proofs.GivingUp Sys2Proof.Proofs.Emptying Sys2Proof.Proofs.Cancelling
open Sys2Proof.Proofs.Aborting Sys2Proof.Proofs.Dropping

/-! ### The marks -/

section Marks

variable {s : State} {l : LaneIx} {r : Renewal}

theorem markDue_iff (runs : (s.lane l).renewal = some r) {index perSecond instant : Nat} :
    s.markDue l index perSecond instant = true ↔ r.passed < index ∧ r.base.instant + perSecond * s.cfg.holdLifetime ≤ instant := by
  simp [State.markDue, runs]

theorem passMark_eq (runs : (s.lane l).renewal = some r) (n : Nat) :
    s.passMark l n = s.modLane l fun y => { y with renewal := some { r with passed := n } } :=
  modLane_congr (by simp [runs])

theorem renewalSeats_marked (s : State) (l : LaneIx) (r : Option Renewal) :
    (s.modLane l fun y => { y with renewal := r }).renewalSeats l = s.renewalSeats l := by
  have lane : (s.modLane l fun y => { y with renewal := r }).lane l = { s.lane l with renewal := r } := State.lane_modLane_same s l _
  exact renewalSeats_congr (by rw [lane]) (by rw [lane]) rfl

/-- A renewal offered while none is queued and none owed enters as the youngest entry (R58). -/
theorem offerRenew_enters {code : Nat} {cls : Machine.Class} (none : s.link.renewOf l (s.lane l).order.tag = none)
    (seats : s.renewalSeats l ≠ []) (named : (s.lane l).order.code = some code) (queue : QueueOpen s.link)
    (owed : s.link.owed.get l = false) :
    s.offerRenew l cls
      = s.modLink fun k => k.withEntry (.renew code s.cfg.holdLifetime (s.renewalSeats l)) cls (some l) (s.lane l).order.tag := by
  have same : s.setOwed l false = s := by
    have owed' : s.link.owed.set l false = s.link.owed := by rw [← owed, PerLane.set_get]
    show { s with link := { s.link with owed := s.link.owed.set l false } } = s
    rw [owed']
  unfold State.offerRenew
  simp only [none, same]
  rw [if_neg (by simpa using seats), offer_open queue, State.renewNotice, named]
  rfl

end Marks

/-! ### The expiry of a hold -/

/-- The renewal seats of an order are seats of its lines that it holds. -/
theorem mem_renewalSeats {s : State} {l : LaneIx} {code : Nat} (sale : (s.lane l).sale = none)
    (named : (s.lane l).order.code = some code) {r : SeatRef} :
    r ∈ s.renewalSeats l ↔ r ∈ (s.lane l).order.liveSeats ∧ s.seat code r = some (.held l) := by
  simp only [State.renewalSeats, sale, named]
  rw [mem_planOrder, List.mem_filter, seatHeld_iff]

/-- The order's lines once its seats are lost to it (R54). -/
def lostOrder (o : Order) (lost : List SeatRef) : Order :=
  if o.state = .opened ∨ o.state = .quoted then
    { o with state := .opened, quoteCurrent := false, seatLines := o.seatLines.filter fun x => x.seat ∉ lost }
  else { o with seatLines := o.seatLines.map fun x => if x.seat ∈ lost then { x with lost := true } else x }

/-- No seat that was lost is among the seats of the lines that stay. -/
theorem liveSeats_lostOrder {o : Order} {lost : List SeatRef} {r : SeatRef} (h : r ∈ (lostOrder o lost).liveSeats) :
    r ∈ o.liveSeats ∧ r ∉ lost := by
  unfold lostOrder at h
  split at h
  · obtain ⟨v, hv, rfl⟩ := List.mem_map.mp h
    obtain ⟨hv, live⟩ := List.mem_filter.mp hv
    obtain ⟨hv, out⟩ := List.mem_filter.mp hv
    exact ⟨List.mem_map_of_mem (List.mem_filter.mpr ⟨hv, live⟩), by simpa using out⟩
  · obtain ⟨v, hv, rfl⟩ := List.mem_map.mp h
    obtain ⟨hv, live⟩ := List.mem_filter.mp hv
    obtain ⟨w, hw, rfl⟩ := List.mem_map.mp hv
    by_cases out : w.seat ∈ lost
    · simp [out] at live
    · rw [if_neg out] at live ⊢
      exact ⟨List.mem_map_of_mem (List.mem_filter.mpr ⟨hw, live⟩), out⟩

/-- The lane's order with lines lost, the timer of an order that leaves EMPTY not among what changes. -/
theorem loseLines_eq {s : State} {l : LaneIx} {lost : List SeatRef} (tag : (s.lane l).order.tag.isSome = true)
    (state : (s.lane l).order.state ∈ ([.opened, .quoted, .paying, .short, .unwinding] : List OrderState)) :
    s.loseLines l lost = (s.modLane l fun x => { x with order := lostOrder x.order lost }).renewalShrunk l := by
  rcases loseLines_cases s l lost with ⟨lined, h⟩ | ⟨paid, h⟩ | ⟨settled, -⟩
  · have changed := linesChanged_modOrder (s := s) (l := l)
      (f := fun o => { o with seatLines := o.seatLines.filter fun x => !lost.contains x.seat }) tag rfl
    rw [h, changed]
    refine congrArg (State.renewalShrunk · l) (modLane_congr ?_)
    rw [lostOrder, if_pos lined, if_neg (by rcases lined with e | e <;> simp [e])]
    simp
  · rw [h]
    refine congrArg (State.renewalShrunk · l) (modLane_congr ?_)
    rw [lostOrder, if_neg (by rcases paid with e | e | e <;> simp [e])]
    simp
  · rcases settled with e | e
    · simp [e] at state
    · cases h : (s.lane l).order.state <;> simp [h, OrderState.committingOrLater] at state e

/-- What an expired hold leaves (R59). -/
theorem expireHold_spec {s : State} {l : LaneIx} {code tag : Nat}
    (state : (s.lane l).order.state ∈ ([.opened, .quoted, .paying, .short, .unwinding] : List OrderState))
    (named : (s.lane l).order.code = some code) (tagged : (s.lane l).order.tag = some tag) (sale : (s.lane l).sale = none)
    (seats : s.renewalSeats l ≠ []) :
    ∃ k, s.expireHold l
      = { (s.mapSeats code (s.renewalSeats l) fun st => if st.heldBy l then .free else st).modLane l (fun x =>
            { x with renewal := none, order := lostOrder x.order (s.renewalSeats l) }) with
          link := k
          io := (s.raise ⟨.holdExpired, .none, some l, some tag, some code, none, none, s.renewalSeats l, none, [], []⟩).io } := by
  generalize hf : (s.mapSeats code (s.renewalSeats l) fun st => if st.heldBy l then .free else st) = f
  have lane : f.lane l = s.lane l := by rw [← hf, lane_mapSeats]
  have own := State.lane_modLane_same f l fun x => { x with order := lostOrder x.order (s.renewalSeats l) }
  rw [lane] at own
  have code_ (o : Order) (q : List SeatRef) : (lostOrder o q).code = o.code ∧ (lostOrder o q).tag = o.tag := by
    unfold lostOrder
    split <;> exact ⟨rfl, rfl⟩
  have none : (f.modLane l fun x => { x with order := lostOrder x.order (s.renewalSeats l) }).renewalSeats l = [] := by
    refine renewalSeats_freed (code := code) (by rw [own]; exact sale) (by rw [own]; exact (code_ _ _).1.trans named) fun r hr held => ?_
    rw [own] at hr
    obtain ⟨live, out⟩ := liveSeats_lostOrder hr
    have held' : f.seat code r = some (.held l) := held
    rw [← hf, seat_mapSeats] at held'
    simp only [out, and_false, if_false, Option.map_id'] at held'
    exact out ((mem_renewalSeats sale named).mpr ⟨live, held'⟩)
  obtain ⟨k, shrunk, -⟩ := renewalShrunk_empty none
  rw [modLane_modLane] at shrunk
  have lost : f.loseLines l (s.renewalSeats l)
      = { f.modLane l (fun x => { x with renewal := Option.none, order := lostOrder x.order (s.renewalSeats l) }) with link := k } :=
    (loseLines_eq (by rw [lane, tagged]; rfl) (by rw [lane]; exact state)).trans shrunk
  have report : (f.loseLines l (s.renewalSeats l)).seatReport .holdExpired .none l code (s.renewalSeats l)
      = ⟨.holdExpired, .none, some l, some tag, some code, Option.none, Option.none, s.renewalSeats l, Option.none, [], []⟩ := by
    have own' : (f.loseLines l (s.renewalSeats l)).lane l
        = { s.lane l with renewal := Option.none, order := lostOrder (s.lane l).order (s.renewalSeats l) } := by
      rw [lost, ← lane]
      exact State.lane_modLane_same f l fun x => { x with renewal := Option.none, order := lostOrder x.order (s.renewalSeats l) }
    simp only [State.seatReport, own', (code_ _ _).2, tagged]
    rfl
  refine ⟨k, ?_⟩
  have empty : (s.renewalSeats l).isEmpty = false := by simpa using seats
  unfold State.expireHold
  simp only [named, empty, hf, report, Bool.false_eq_true, if_false]
  rw [lost, ← hf]
  rfl

/-- Settles O53: a mark that has not come or has passed, and what each mark does. -/
theorem renewalMarks : Obligations.RenewalMarks := by
  intro s l r instant pass live runs hpass
  have due {index perSecond : Nat} (before : instant < r.base.instant + perSecond * s.cfg.holdLifetime) :
      ¬ s.markDue l index perSecond instant = true := fun h => by have := (markDue_iff runs).mp h; omega
  have passed {index perSecond : Nat} (after : index ≤ r.passed) : ¬ s.markDue l index perSecond instant = true := fun h => by
    have := (markDue_iff runs).mp h
    omega
  have pass_ (n : Nat) : s.passMark l n = pass n := by rw [hpass]; exact passMark_eq runs n
  have own (n : Nat) : (pass n).lane l = { s.lane l with renewal := some { r with passed := n } } := by
    rw [hpass]
    exact State.lane_modLane_same s l _
  have link (n : Nat) : (pass n).link = s.link := by rw [hpass]; rfl
  have seats_ (n : Nat) : (pass n).renewalSeats l = s.renewalSeats l := by rw [hpass]; exact renewalSeats_marked s l _
  refine ⟨fun before => effects_of_eq rfl live (if_neg (due before)), fun before => effects_of_eq rfl live (if_neg (due before)),
    fun before => effects_of_eq rfl live (if_neg (due before)), fun after => effects_of_eq rfl live (if_neg (passed after)),
    fun after => effects_of_eq rfl live (if_neg (passed after)), fun after => effects_of_eq rfl live (if_neg (passed after)),
    fun code first come none seats named queue owed => effects_of_eq rfl live ?_, fun first come => ?_, fun first come => ?_⟩
  · have met : s.dueMark l instant = (s.passMark l 1).offerRenew l .renewNormal := if_pos ((markDue_iff runs).mpr ⟨first, come⟩)
    rw [met, pass_, offerRenew_enters (code := code) (by rw [link, own]; exact none) (by rw [seats_]; exact seats)
      (by rw [own]; exact named) (by rw [link]; exact queue) (by rw [link]; exact owed), seats_, own]
    rw [hpass]
    rfl
  · have met : s.demandMark l instant = (pass 2).promoteRenew l :=
      (if_pos ((markDue_iff runs).mpr ⟨first, come⟩)).trans (congrArg (State.promoteRenew · l) (pass_ 2))
    refine ⟨fun e queued => effects_of_eq rfl live (met.trans ?_), fun none => effects_of_eq rfl live (met.trans ?_)⟩
    · simp only [State.promoteRenew, link, own, queued]
      rfl
    · simp only [State.promoteRenew, link, own, none]
  · have met : s.expiryMark l instant
        = if (s.lane l).order.state.committingOrLater then pass 3 else (pass 3).expireHold l := by
      rw [← pass_]
      exact if_pos ((markDue_iff runs).mpr ⟨first, come⟩)
    refine ⟨fun late => effects_of_eq rfl live (met.trans (if_pos late)), fun code tag state named tagged sale seats => ?_⟩
    have early : ¬ (s.lane l).order.state.committingOrLater = true := by
      cases h : (s.lane l).order.state <;> simp [h, OrderState.committingOrLater] at state ⊢
    obtain ⟨k, expired⟩ := expireHold_spec (s := pass 3) (l := l) (code := code) (tag := tag) (by rw [own]; exact state)
      (by rw [own]; exact named) (by rw [own]; exact tagged) (by rw [own]; exact sale) (by rw [seats_]; exact seats)
    rw [seats_] at expired
    have after := State.lane_modLane_same
      ((pass 3).mapSeats code (s.renewalSeats l) fun st => if st.heldBy l then .free else st) l fun x =>
        { x with renewal := none, order := lostOrder x.order (s.renewalSeats l) }
    rw [lane_mapSeats, own] at after
    refine ⟨_, effects_of_eq rfl live ((met.trans (if_neg early)).trans expired), ?_, fun x hx => ?_,
      (congrArg Lane.renewal after), fun lined => (congrArg Lane.order after).trans (if_pos lined),
      fun notOpen notQuoted => (congrArg Lane.order after).trans (if_neg (by simp [notOpen, notQuoted]))⟩
    · rw [hpass]
      rfl
    · have held := ((mem_renewalSeats sale named).mp hx).2
      have held' : (pass 3).seat code x = some (.held l) := by rw [hpass]; exact held
      show ((pass 3).mapSeats code (s.renewalSeats l) fun st => if st.heldBy l then .free else st).seat code x = _
      rw [seat_mapSeats, held']
      simp [hx, SeatState.heldBy]

end Sys2Proof.Proofs.Lapses
end

section
/-! PROOFS of O54: an attendance lapse. -/

namespace Sys2Proof.Proofs.Attendance

open Sys2Proof Sys2Proof.Machine Sys2Proof.Proofs.Inputs Sys2Proof.Proofs.Requests Sys2Proof.Proofs.Words
open Sys2Proof.Proofs.LinkRules Sys2Proof.Proofs.Closing
open Sys2Proof.Proofs.SeatTimers Sys2Proof.Proofs.GivingUp Sys2Proof.Proofs.Emptying Sys2Proof.Proofs.Cancelling

theorem endPick_none {s : State} {l : LaneIx} (none : (s.lane l).block = none) (w : WordEnd) : s.endPick l w = s := by
  simp only [State.endPick, State.runningWord, none]

/-- A cancellation that finds no claim in flight refuses no PICK. -/
theorem cancelRefusingPick_unclaimed {s : State} {l : LaneIx} {c : Claim} {code : Code} (queued : c.state ≠ .queued)
    (contest : c.state ≠ .contest) : s.cancelRefusingPick l c code = s.cancelOrder l := if_neg (by simp [queued, contest])

/-- An order in OPEN or QUOTED that is cancelled while no block is in progress. -/
theorem cancelRefusingPick_idle {s : State} {l : LaneIx} {c : Claim} {code : Code} (none : (s.lane l).block = none)
    (lined : (s.lane l).order.state = .opened ∨ (s.lane l).order.state = .quoted) :
    s.cancelRefusingPick l c code = cancelled s l := by
  have at_once : s.cancelOrder l = cancelled s l := (cancelOrder_lined lined).trans (finishCancel_of_none none)
  have block : ((cancelled s l).lane l).block = Option.none :=
    ((cancelled_emptied s l).block (not_pickRuns_of_none none)).trans none
  unfold State.cancelRefusingPick
  simp only [at_once, endPick_none block, ite_self]

/-- An order in OPEN or QUOTED that is cancelled while its PICK waits for a claim in flight, with room in the queue: the PICK is
refused with every seat of the claim (R65). -/
theorem cancelRefusingPick_picking {s : State} {l : LaneIx} {c : Claim} {code : Code} {b : Block} {i a : Nat} {es : List ClaimSeat}
    (lined : (s.lane l).order.state = .opened ∨ (s.lane l).order.state = .quoted) (spare : HasSpare 1 s.link)
    (inFlight : c.state = .queued ∨ c.state = .contest) (named : c.seats.map ClaimSeat.seat ≠ [])
    (block : (s.lane l).block = some b) (mode : b.mode = .running i .taken) (word : b.words[i]? = some (.pick a es)) :
    s.cancelRefusingPick l c code
      = ((cancelled s l).modLane l fun x => { x with block := none }).complete b.ref
          (Status.bytes ⟨.refused, some i, some code, some (.seats (c.seats.map ClaimSeat.seat)), some .empty, none, []⟩) := by
  have emptied := cancelled_emptied s l
  have block' : ((cancelled s l).lane l).block = some b := (emptied.quiet spare).2.2.trans block
  have at_once : s.cancelOrder l = cancelled s l := by
    rw [cancelOrder_lined lined, finishCancel_eq]
    exact endCancelWait_word (runningWord_eq block' mode word) (by simp) _
  have residual : seatsResidual c.seatRefs = some (.seats (c.seats.map ClaimSeat.seat)) :=
    if_neg (by simpa [Claim.seatRefs] using named)
  have refused : s.cancelRefusingPick l c code = (cancelled s l).endPick l (.refused code (seatsResidual c.seatRefs) []) := by
    rw [← at_once]
    exact if_pos inFlight
  rw [refused, endPick_eq block' mode word, endWord_refused block' mode, emptied.order, residual]
  rfl

/-- A lapse of an order that it cancels. -/
theorem lapse_cancels {s : State} {l : LaneIx}
    (state : (s.lane l).order.state = .opened ∨ (s.lane l).order.state = .quoted ∨ (s.lane l).order.state = .short) :
    s.lapse l = ((s.modLane l fun x => { x with attendance := none }).raise (s.lapseReport l .cancelled)).cancelRefusingPick l
      (s.lane l).claim .orderLapsed := by
  unfold State.lapse
  rcases state with e | e | e <;> simp only [e]

/-- A lane whose attendance timer has stopped. -/
def stoppedLane (x : Lane) : Lane := { x with attendance := none }

/-- Settles O54: a timer that runs on, and a lapse by the state of the order. -/
theorem attendanceLapse : Obligations.AttendanceLapse := by
  intro s l d rep live runs hrep
  have report (q : ReportQual) : s.lapseReport l q = rep q := by
    rw [hrep]
    rfl
  refine ⟨fun before => effects_of_eq rfl live (if_neg fun h => ?_), fun come => ?_⟩
  · obtain ⟨d', e, reached⟩ := reached_iff.mp h
    obtain rfl : d = d' := Option.some.inj (runs.symm.trans e)
    omega
  have effect (m : State) (h : s.lapse l = m) : Effects (.attendanceLapse l) s m :=
    effects_of_eq rfl live ((if_pos (reached_iff.mpr ⟨d, runs, come⟩)).trans h)
  generalize hu : (s.raise (rep .cancelled)).modLane l stoppedLane = u
  have cancels (lined : (s.lane l).order.state = .opened ∨ (s.lane l).order.state = .quoted ∨ (s.lane l).order.state = .short) :
      s.lapse l = u.cancelRefusingPick l (s.lane l).claim .orderLapsed := by
    rw [lapse_cancels lined, report, ← hu]
    rfl
  have own : u.lane l = stoppedLane (s.lane l) := by
    rw [← hu]
    exact State.lane_modLane_same (s.raise (rep .cancelled)) l _
  have other {k : LaneIx} (hk : k ≠ l) : u.lane k = s.lane k := by
    rw [← hu]
    exact lane_modLane_other (s := s.raise (rep .cancelled)) hk _
  have link : u.link = s.link := by rw [← hu]; rfl
  have io : u.io = (s.raise (rep .cancelled)).io := by rw [← hu]; rfl
  have seat (c : Nat) (r : SeatRef) : u.seat c r = s.seat c r := by rw [← hu]; rfl
  have order : (u.lane l).order = (s.lane l).order := by rw [own]; rfl
  refine ⟨fun idle => effect _ ?_, fun busy => effect _ ?_, fun complete => ?_, fun lined none queue => ?_,
    fun o1 i short unclaimed line sending exchange ho1 first => effect _ ?_,
    fun b i a es refs lined queue inFlight off code hrefs nonempty block mode word => ?_⟩
  · rw [← report]
    unfold State.lapse
    rcases idle with e | e | e <;> simp only [e]
  · rw [← report]
    have held : ((s.modLane l fun x => { x with attendance := none }).modOrder l fun o => { o with lapseHeld := true })
        = s.modLane l fun y => { y with attendance := none, order := { y.order with lapseHeld := true } } := modLane_modLane s l _ _
    unfold State.lapse
    rcases busy with e | e | e <;> simp only [e, held]
  · have returned : s.lapse l = ((s.raise (rep .cleared)).modLane l stoppedLane).returnToEmpty l := by
      rw [← report]
      simp only [State.lapse, complete]
      rfl
    obtain ⟨k, -, eq⟩ := returnToEmpty_eq ((s.raise (rep .cleared)).modLane l stoppedLane) l
    have stopped : ((s.raise (rep .cleared)).modLane l stoppedLane).lane l = stoppedLane (s.lane l) :=
      State.lane_modLane_same (s.raise (rep .cleared)) l _
    have own' : (((s.raise (rep .cleared)).modLane l stoppedLane).returnToEmpty l).lane l = emptyLane (stoppedLane (s.lane l)) := by
      rw [eq, ← stopped]
      exact State.lane_modLane_same ((s.raise (rep .cleared)).modLane l stoppedLane) l emptyLane
    refine ⟨_, effect _ returned, by rw [own']; rfl, by rw [own']; rfl, by rw [own']; rfl, by rw [eq]; rfl, fun issued => ?_⟩
    rw [eq, stopped]
    exact returned_issued _ issued
  · have none' : (u.lane l).block = .none := by rw [own]; exact none
    have emptied := cancelled_emptied u l
    refine ⟨cancelled u l, effect _ ((cancels (lined.imp_right .inl)).trans (cancelRefusingPick_idle none' (by rw [order]; exact lined))),
      emptied.order, emptied.attendance, emptied.renewal,
      (emptied.quiet ((hasSpare_of_open (by rw [link]; exact queue)).mono (by omega))).1.trans io, ?_, fun code r named hr held => ?_⟩
    · rw [emptied.vouchers, order, ← hu]
      rfl
    · exact cancelled_free (by rw [order]; exact named) (by rw [order]; exact hr) (by rw [seat]; exact held)
  · rw [cancels (.inr (.inr short)), cancelRefusingPick_unclaimed (by simp at unclaimed; exact unclaimed.1)
      (by simp at unclaimed; exact unclaimed.2), cancelOrder_short (o1 := o1) (by rw [order]; exact short)
      (by rw [own]; exact ⟨line, sending, exchange⟩) (by rw [order]; exact ho1) first, ← hu]
    exact modLane_modLane (s.raise (rep .cancelled)) l stoppedLane _
  · have spare : HasSpare 1 u.link := (hasSpare_of_open (by rw [link]; exact queue)).mono (by omega)
    have emptied := cancelled_emptied u l
    have claim : (u.lane l).claim = (s.lane l).claim := by rw [own]; rfl
    obtain ⟨io', others, -⟩ := emptied.quiet spare
    subst hrefs
    have met := (cancels (lined.imp_right .inl)).trans (cancelRefusingPick_picking (by rw [order]; exact lined) spare inFlight nonempty
      (by rw [own]; exact block) mode word)
    have lane : ((s.lapse l).lane l) = { (cancelled u l).lane l with block := none } := by
      rw [met]
      exact State.lane_modLane_same (cancelled u l) l fun x => { x with block := none }
    have house : (cancelled u l).house = s.house := by
      rw [emptied.house, ← hu]
      rfl
    refine ⟨_, effect _ rfl, by rw [lane]; exact emptied.order, by rw [lane]; exact emptied.attendance,
      by rw [lane]; exact emptied.renewal, by rw [lane]; exact cancelled_claim (by rw [claim]; exact inFlight) (by rw [link]; exact off),
      by rw [lane], fun k hk => ?_, ?_, fun r hr claiming => ?_, ?_⟩
    · rw [met]
      exact ((lane_modLane_other (s := cancelled u l) hk fun x => { x with block := none }).trans (others k hk)).trans (other hk)
    · rw [met]
      show (cancelled u l).vouchers = _
      rw [emptied.vouchers, order, ← hu]
      rfl
    · have free := cancelled_claimed (s := u) (l := l) (r := r) (by rw [claim]; exact inFlight) (by rw [link]; exact off)
        (by rw [claim]; exact hr) (by rw [claim, seat]; exact claiming)
      rw [claim] at free
      rw [met]
      exact free
    · rw [met]
      show completeIo (if b.ref.ring = .boot then SetupRecord.unset else (cancelled u l).cfg).mitCount
        (if b.ref.ring = .boot then SetupRecord.unset else (cancelled u l).cfg).mitTime b.ref _ (cancelled u l).io = _
      rw [io', io, State.cfg, house]
      rfl

end Sys2Proof.Proofs.Attendance
end

section
/-! PROOFS: the steps of a payment. An exchange that has ended, what a held lapse and the drain latch make of the state reached,
and an order that is sold. -/

namespace Sys2Proof.Proofs.PaymentSteps

open Sys2Proof Sys2Proof.Machine Sys2Proof.Proofs.Inputs Sys2Proof.Proofs.Requests Sys2Proof.Proofs.Words
open Sys2Proof.Proofs.LinkRules Sys2Proof.Proofs.Closing
open Sys2Proof.Proofs.SeatTimers Sys2Proof.Proofs.GivingUp Sys2Proof.Proofs.Emptying Sys2Proof.Proofs.Cancelling

/-! ### What a step reaches -/

/-- The lowest tender in a state, as the obligations name it in StepEnds. -/
theorem firstTender_of_lowest {o : Order} {st : TenderState} {i : TenderIx} (h : o.lowest st i) : o.firstTender st = some i := by
  obtain ⟨at_, first⟩ := h
  cases i with
  | one => exact if_pos at_
  | two => exact (if_neg (first rfl)).trans (if_pos at_)

theorem drainEntry_settled {s : State} {l : LaneIx}
    (state : (s.lane l).order.state ∉ ([.opened, .quoted, .short] : List OrderState)) : s.drainEntry l = s := by
  unfold State.drainEntry
  split
  · rfl
  · cases h : (s.lane l).order.state <;> simp [h] at state ⊢

theorem drainEntry_cancels {s : State} {l : LaneIx} (drain : s.house.drain ≠ .clear)
    (state : (s.lane l).order.state ∈ ([.opened, .quoted, .short] : List OrderState)) : s.drainEntry l = s.cancelOrder l := by
  unfold State.drainEntry
  rw [if_neg (by simp [drainClear_false drain])]
  cases h : (s.lane l).order.state <;> simp [h] at state ⊢

theorem applyHeldLapse_cancels {s : State} {l : LaneIx} (held : (s.lane l).order.lapseHeld = true)
    (state : (s.lane l).order.state ∈ ([.opened, .quoted, .short] : List OrderState)) :
    s.applyHeldLapse l
      = ((s.modOrder l fun o => { o with lapseHeld := false }).raise (s.lapseReport l .cancelled)).cancelOrder l := by
  unfold State.applyHeldLapse
  rw [if_pos held]
  cases h : (s.lane l).order.state <;> simp [h] at state ⊢

/-- The lane's order with no lapse held. -/
def unheld (s : State) (l : LaneIx) : State := s.modOrder l fun o => { o with lapseHeld := false }

/-- What follows the state that a step has reached, once it is cancelled: it is neither OPEN, QUOTED nor SHORT then. -/
theorem afterStep_cancels {s after : State} {l : LaneIx} {o : Order} (order : (s.lane l).order = o)
    (state : o.state ∈ ([.opened, .quoted, .short] : List OrderState)) (rep : Report)
    (hrep : rep = ⟨.attendanceLapsed, .cancelled, some l, o.tag, o.code, some o.state, none, [], none, [], []⟩)
    (hafter : after = if o.lapseHeld then s.raise rep else s)
    (h : o.lapseHeld = true ∨ s.house.drain ≠ .clear)
    (done : (((unheld after l).cancelOrder l).lane l).order.state ∉ ([.opened, .quoted, .short] : List OrderState)) :
    s.afterStep l = (unheld after l).cancelOrder l := by
  unfold State.afterStep
  cases held : o.lapseHeld with
  | true =>
    have applied := applyHeldLapse_cancels (by rw [order]; exact held) (by rw [order]; exact state)
    have report : s.lapseReport l .cancelled = rep := by
      rw [hrep, ← order]
      rfl
    have base : (s.modOrder l fun o => { o with lapseHeld := false }).raise rep = unheld after l := by
      rw [hafter, held, if_pos rfl]
      rfl
    rw [applied, report, base]
    exact drainEntry_settled done
  | false =>
    have drain := h.resolve_left (by simp [held])
    have same : s.applyHeldLapse l = s := if_neg (by simp [order, held])
    have base : unheld after l = s := by
      rw [hafter, held, if_neg (by simp)]
      refine modLane_self (f := fun x => { x with order := { x.order with lapseHeld := false } }) ?_
      have : { (s.lane l).order with lapseHeld := false } = (s.lane l).order := by rw [order, ← held]
      rw [this]
    rw [same, base]
    exact drainEntry_cancels drain (by rw [order]; exact state)

/-- What follows a step that leaves the order in SHORT, QUOTED or OPEN with no block in progress. -/
theorem stepEnds {c : Instr} {s told : State} {l : LaneIx} {o : Order} (effect : ∀ m, told.afterStep l = m → Effects c s m)
    (order : (told.lane l).order = o) (state : o.state ∈ ([.opened, .quoted, .short] : List OrderState))
    (house : told.house = s.house) (link : told.link = s.link) (vouchers : told.vouchers = s.vouchers)
    (slots : told.slots = s.slots) (block : (told.lane l).block = none)
    (idle : o.state = .short → IdleLine (told.lane l).term) :
    StepEnds c s told l o := by
  intro rep after hrep hafter
  have lane : after.lane l = told.lane l := by
    rw [hafter]
    split <;> rfl
  have own : (unheld after l).lane l = { told.lane l with order := { o with lapseHeld := false } } := by
    rw [← lane, ← order, ← lane]
    exact State.lane_modLane_same after l _
  refine ⟨fun held clear => effect _ ?_, fun h => ⟨fun i short lowest => effect _ ?_, fun lined queue => ?_⟩⟩
  · have same : told.applyHeldLapse l = told := if_neg (by simp [order, held])
    rw [State.afterStep, same]
    exact if_pos (drainClear_true (by rw [house]; exact clear))
  · have first := firstTender_of_lowest lowest
    have cancelled_ := cancelOrder_short (s := unheld after l) (l := l) (i := i) (o1 := o.cancelledShort) (by rw [own]; exact short)
      (by rw [own]; exact idle short) (by rw [own]; rfl) (by
        obtain ⟨at_, one⟩ := lowest
        cases i with
        | one => exact .inl ⟨at_, rfl⟩
        | two => exact .inr ⟨one rfl, at_, rfl⟩)
    have fused : (unheld after l).modLane l (fun y =>
        { y with order := o.cancelledShort, term := { y.term with sending := some ⟨.void, o.tag.getD 0, i, 0⟩ } })
          = after.modLane l fun y =>
            { y with order := o.cancelledShort, term := { y.term with sending := some ⟨.void, o.tag.getD 0, i, 0⟩ } } :=
      modLane_modLane after l (fun x => { x with order := { x.order with lapseHeld := false } }) _
    have met := cancelled_.trans fused
    refine (afterStep_cancels order state rep hrep hafter (h.imp_right (by rw [house]; exact id)) ?_).trans met
    rw [met, State.lane_modLane_same]
    simp [Order.cancelledShort]
  · have none' : ((unheld after l).lane l).block = none := by rw [own]; exact block
    have lined' : ((unheld after l).lane l).order.state = .opened ∨ ((unheld after l).lane l).order.state = .quoted := by
      rw [own]
      exact lined.symm
    have at_once : (unheld after l).cancelOrder l = cancelled (unheld after l) l :=
      (cancelOrder_lined lined').trans (finishCancel_of_none none')
    have emptied := cancelled_emptied (unheld after l) l
    have link' : (unheld after l).link = s.link := by
      rw [← link, hafter]
      show (if _ then _ else _ : State).link = _
      split <;> rfl
    have seat (a : Nat) (r : SeatRef) : (unheld after l).seat a r = s.seat a r := by
      refine seat_congr ?_ a r
      rw [← slots, hafter]
      show (if _ then _ else _ : State).slots = _
      split <;> rfl
    refine ⟨cancelled (unheld after l) l, effect _ ?_, emptied.order, emptied.attendance, emptied.renewal,
      (emptied.block (not_pickRuns_of_none none')).trans none',
      (emptied.quiet ((hasSpare_of_open (by rw [link']; exact queue)).mono (by omega))).1, ?_, fun a r named hr held => ?_⟩
    · refine (afterStep_cancels order state rep hrep hafter (h.imp_right (by rw [house]; exact id)) ?_).trans at_once
      rw [at_once, emptied.order]
      simp [Order.blank]
    · rw [emptied.vouchers, own, ← vouchers, hafter]
      show (if _ then _ else _ : State).vouchers.returned _ = _
      split <;> rfl
    · exact cancelled_free (by rw [own]; exact named) (by rw [own]; exact hr) (by rw [seat]; exact held)

/-! ### An exchange that has ended -/

/-- Lane `l`'s order as given, with its exchange ended and its terminal line IDLE, the rest of its terminal by `g` (R109). -/
def settledTo (s : State) (l : LaneIx) (y : Order) (g : Terminal → Terminal) : State :=
  s.modLane l fun z => { z with order := y, term := g { z.term with exchange := none, line := .idle } }

section Settled

variable {s : State} {l : LaneIx} {y : Order} {g : Terminal → Terminal}

theorem settledTo_lane (s : State) (l : LaneIx) (y : Order) (g : Terminal → Terminal) :
    (settledTo s l y g).lane l
      = { s.lane l with order := y, term := g { (s.lane l).term with exchange := none, line := .idle } } :=
  State.lane_modLane_same s l _

theorem settledTo_order (f : Order → Order) : (settledTo s l y g).modOrder l f = settledTo s l (f y) g := modLane_modLane s l _ _

theorem settledTo_term (f : Terminal → Terminal) : (settledTo s l y g).modTerm l f = settledTo s l y fun t => f (g t) :=
  modLane_modLane s l _ _

theorem endExchange_eq (s : State) (l : LaneIx) : s.endExchange l = settledTo s l (s.lane l).order id :=
  modLane_congr (f := fun x => { x with term := { x.term with exchange := none, line := .idle } }) rfl

theorem settledTo_block (s : State) (l : LaneIx) (y : Order) (g : Terminal → Terminal) :
    (settledTo s l y g).runningWord l = s.runningWord l := runningWord_congr (by rw [settledTo_lane])

/-- A message sent from the line that is IDLE. -/
theorem settledTo_send (k : ExchangeKind) (i : TenderIx) (amount : Nat) :
    (settledTo s l y g).sendTerminal l k i amount
      = settledTo s l y fun t => { g t with sending := some ⟨k, y.tag.getD 0, i, amount⟩ } := by
  have sent := settledTo_term (s := s) (l := l) (y := y) (g := g) fun t => { t with sending := some ⟨k, y.tag.getD 0, i, amount⟩ }
  rw [State.sendTerminal, settledTo_lane]
  exact sent

/-- With nothing being sent, an UNWINDING order sends VOID for its lowest tender to be voided (R121). -/
theorem settledTo_void {i : TenderIx} (state : y.state = .unwinding) (idle : IdleLine ((settledTo s l y g).lane l).term)
    (first : y.firstTender .voiding = some i) :
    (settledTo s l y g).sendVoid l = settledTo s l y fun t => { g t with sending := some ⟨.void, y.tag.getD 0, i, 0⟩ } := by
  rw [State.sendVoid, if_pos ⟨by rw [settledTo_lane]; exact state, idle.clear⟩]
  have first' : ((settledTo s l y g).lane l).order.firstTender .voiding = some i := by rw [settledTo_lane]; exact first
  simp only [first']
  exact settledTo_send .void i 0

/-- The order unwinds with a cause (R113, R116, R117). -/
theorem settledTo_unwind {i : TenderIx} {cause : UnwindCause} (idle : ∀ t, IdleLine t → IdleLine (g t))
    (sending : (s.lane l).term.sending = none) (first : (y.voidFrom .authorized).firstTender .voiding = some i) :
    (settledTo s l y g).unwind l cause
      = settledTo s l { y.voidFrom .authorized with state := .unwinding } fun t =>
          { g t with cause := some cause, sending := some ⟨.void, y.tag.getD 0, i, 0⟩ } := by
  rw [State.unwind, settledTo_order, settledTo_term]
  refine settledTo_void rfl ?_ first
  rw [settledTo_lane]
  obtain ⟨line, sending', exchange⟩ := idle { (s.lane l).term with exchange := none, line := .idle } ⟨rfl, sending, rfl⟩
  exact ⟨line, sending', exchange⟩

end Settled

/-! ### Blocks in progress while an entry is offered -/

theorem endPick_refused_block (s : State) (l : LaneIx) (code : Code) (residual : Option Residual) (offending : List SeatRef)
    (k : LaneIx) :
    ((s.endPick l (.refused code residual offending)).lane k).block = (s.lane k).block
      ∨ ((s.endPick l (.refused code residual offending)).lane k).block = none := by
  unfold State.endPick
  split
  next a es runs =>
    obtain ⟨b, i, block, mode, word⟩ : ∃ b i, (s.lane l).block = some b ∧ b.mode = .running i .taken
        ∧ b.words[i]? = some (.pick a es) := by
      unfold State.runningWord at runs
      cases block : (s.lane l).block with
      | none => simp [block] at runs
      | some b =>
        cases mode : b.mode with
        | strictWait => simp [block, mode] at runs
        | running i ph =>
          simp only [block, mode, Option.map_eq_some_iff, Prod.mk.injEq] at runs
          obtain ⟨w, hw, rfl, rfl⟩ := runs
          exact ⟨b, i, rfl, mode, hw⟩
    rw [endWord_refused block mode]
    by_cases hk : k = l
    · subst hk
      exact .inr (congrArg Lane.block (State.lane_modLane_same s k fun x => { x with block := none }))
    · exact .inl (congrArg Lane.block (lane_modLane_other (s := s) hk fun x => { x with block := none }))
  · exact .inl rfl

theorem claimFails_block (s : State) (l : LaneIx) (code : Code) (k : LaneIx) :
    ((s.claimFails l code).lane k).block = (s.lane k).block ∨ ((s.claimFails l code).lane k).block = none := by
  unfold State.claimFails
  split
  · have cleared : (((s.freeClaim l).clearClaim l).lane k).block = (s.lane k).block := by
      rw [State.clearClaim, State.lane_modLane]
      split
      next h => rw [h]; rfl
      · rfl
    rcases endPick_refused_block ((s.freeClaim l).clearClaim l) l code (seatsResidual (s.lane l).claim.seatRefs) [] k with h | h
    · exact .inl (h.trans cleared)
    · exact .inr h
  · exact .inl rfl

theorem noticeLost_block (s : State) (n : Notice) (l : Option LaneIx) (tag : Option Nat) (k : LaneIx) :
    ((s.noticeLost n l tag).lane k).block = (s.lane k).block ∨ ((s.noticeLost n l tag).lane k).block = none := by
  cases n with
  | hold =>
    cases l with
    | some l => exact claimFails_block s l _ k
    | none => exact .inl rfl
  | censusCall code =>
    refine .inl ?_
    show ((s.endCensus code).lane k).block = _
    unfold State.endCensus
    split
    · rfl
    · split
      · split <;> rfl
      · rfl
  | renew =>
    refine .inl ?_
    show ((s.owe l).lane k).block = _
    unfold State.owe
    split
    · split <;> rfl
    · rfl
  | _ => exact .inl rfl

/-- An offer ends a block or leaves it. -/
theorem offer_block (s : State) (n : Notice) (cls : Machine.Class) (l : Option LaneIx) (tag : Option Nat) (k : LaneIx) :
    ((s.offer n cls l tag).lane k).block = (s.lane k).block ∨ ((s.offer n cls l tag).lane k).block = none := by
  unfold State.offer
  split
  · exact .inl rfl
  · exact noticeLost_block (s.modLink _) _ _ _ k
  · exact .inl rfl
  · exact noticeLost_block s n l tag k

/-! ### An order that is sold (R119) -/

theorem issueVouchers_lane (s : State) (l : LaneIx) :
    (s.issueVouchers l).lane l
      = { s.lane l with order := { (s.lane l).order with voucherLines := (s.issueLines l (s.lane l).order.voucherLines).1 } } := by
  obtain ⟨lanes, -⟩ := State.issueLines_rest s l (s.lane l).order.voucherLines
  have same : (s.issueLines l (s.lane l).order.voucherLines).2.lane l = s.lane l := by rw [State.lane, lanes]; rfl
  refine (State.lane_modLane_same (s.issueLines l (s.lane l).order.voucherLines).2 l fun x =>
    { x with order := { x.order with voucherLines := (s.issueLines l (s.lane l).order.voucherLines).1 } }).trans ?_
  rw [same]

theorem issueVouchers_slots (s : State) (l : LaneIx) : (s.issueVouchers l).slots = s.slots :=
  (State.issueLines_rest s l (s.lane l).order.voucherLines).2

theorem planOrder_isEmpty (seats : List SeatRef) : (planOrder seats).isEmpty = seats.isEmpty := by
  cases seats with
  | nil => rfl
  | cons r rs =>
    have some_ : planOrder (r :: rs) ≠ [] := List.ne_nil_of_mem (Dropping.mem_planOrder.mpr List.mem_cons_self)
    simpa using some_

theorem offerSale_eq (s : State) (l : LaneIx) : s.offerSale l = s.withSale l ((s.lane l).order.seatLines.map SeatLine.seat) := by
  unfold State.offerSale State.withSale
  simp only [planOrder_isEmpty, List.isEmpty_iff]

theorem withSale_turn (s : State) (l : LaneIx) (seats : List SeatRef) :
    LinkTurn ((s.modLane l fun x => { x with sale := if seats = [] then x.sale else some ⟨s.link.nextId, planOrder seats⟩ }))
      (s.withSale l seats) := by
  unfold State.withSale
  split
  · have same : (s.modLane l fun x => { x with sale := x.sale }) = s := modLane_self rfl
    rw [same]
    exact .refl s
  · exact offer_turn _ _ _ _ _

/-- The order becomes SOLD, and its seats with it, before its SALE is offered. -/
def seatsSold (s : State) (l : LaneIx) : State :=
  (s.modOrder l fun o => { o with state := .sold }).mapSeats ((s.lane l).order.code.getD 0)
    ((s.lane l).order.seatLines.map SeatLine.seat) fun st => if st.heldBy l then .sold s.cfg.station else st

/-- Its SALE offered and its vouchers issued, before its PAY ends. -/
def vouchersIssued (s : State) (l : LaneIx) : State :=
  ((seatsSold s l).withSale l ((s.lane l).order.seatLines.map SeatLine.seat)).issueVouchers l

section Selling

variable (s : State) (l : LaneIx)

theorem seatsSold_lane : (seatsSold s l).lane l = { s.lane l with order := { (s.lane l).order with state := .sold } } := by
  rw [seatsSold, lane_mapSeats, State.modOrder, State.lane_modLane_same]

theorem seatsSold_become :
    SeatsBecome (s.modLane l fun y => { y with order := { y.order with state := .sold } }) (seatsSold s l)
      ((s.lane l).order.code.getD 0) ((s.lane l).order.seatLines.map SeatLine.seat)
      (fun st => if st = .held l then .sold s.cfg.station else st) := by
  simp only [seatsSold, SeatState.heldBy, decide_eq_true_eq]
  exact State.seatsBecome_mapSeats (s.modOrder l fun o => { o with state := .sold }) _ _ _

theorem sellOrder_eq :
    s.sellOrder l = ((vouchersIssued s l).endPay l .done).modOrder l fun o => { o with lapseHeld := false } := by
  have sale : (seatsSold s l).offerSale l = (seatsSold s l).withSale l ((s.lane l).order.seatLines.map SeatLine.seat) := by
    rw [offerSale_eq, seatsSold_lane]
  rw [vouchersIssued, ← sale]
  rfl

theorem withSale_order : (((seatsSold s l).withSale l ((s.lane l).order.seatLines.map SeatLine.seat)).lane l).order
    = { (s.lane l).order with state := .sold } := by
  rw [(withSale_turn (seatsSold s l) l ((s.lane l).order.seatLines.map SeatLine.seat)).order l, State.lane_modLane_same, seatsSold_lane]

theorem vouchersIssued_order :
    ∃ lines, ((vouchersIssued s l).lane l).order = { (s.lane l).order with state := .sold, voucherLines := lines } := by
  have issued := issueVouchers_lane ((seatsSold s l).withSale l ((s.lane l).order.seatLines.map SeatLine.seat)) l
  rw [withSale_order] at issued
  exact ⟨_, congrArg Lane.order issued⟩

theorem withSale_block (u : State) (seats : List SeatRef) :
    ((u.withSale l seats).lane l).block = (u.lane l).block ∨ ((u.withSale l seats).lane l).block = none := by
  unfold State.withSale
  split
  · exact .inl rfl
  · have same : ((u.modLane l fun x => { x with sale := some ⟨u.link.nextId, planOrder seats⟩ }).lane l).block = (u.lane l).block := by
      rw [State.lane_modLane_same]
    rw [← same]
    exact offer_block _ _ _ _ _ l

theorem vouchersIssued_block :
    ((vouchersIssued s l).lane l).block = (s.lane l).block ∨ ((vouchersIssued s l).lane l).block = none := by
  rw [vouchersIssued, issueVouchers_lane]
  have start : ((seatsSold s l).lane l).block = (s.lane l).block := by rw [seatsSold_lane]
  rw [← start]
  exact withSale_block l (seatsSold s l) _

theorem vouchersIssued_paying {cap : Option Nat} (runs : s.runningWord l = some (.pay cap, .taken)) :
    (vouchersIssued s l).runningWord l = some (.pay cap, .taken) := by
  refine (runningWord_congr ?_).trans runs
  have turn := withSale_turn (seatsSold s l) l ((s.lane l).order.seatLines.map SeatLine.seat)
  have lane := State.lane_modLane_same (seatsSold s l) l fun x => { x with
    sale := if ((s.lane l).order.seatLines.map SeatLine.seat) = [] then x.sale else
      some ⟨(seatsSold s l).link.nextId, planOrder ((s.lane l).order.seatLines.map SeatLine.seat)⟩ }
  have start : (((seatsSold s l).modLane l fun x => { x with
      sale := if ((s.lane l).order.seatLines.map SeatLine.seat) = [] then x.sale else
        some ⟨(seatsSold s l).link.nextId, planOrder ((s.lane l).order.seatLines.map SeatLine.seat)⟩ }).lane l).block
        = (s.lane l).block := by rw [lane, seatsSold_lane]
  rw [vouchersIssued, issueVouchers_lane]
  refine (turn.block l ?_).trans start
  exact not_pickRuns_of_word ((runningWord_congr start).trans runs) (by simp)

/-- A named seat that the order held is SOLD by this station. -/
theorem vouchersIssued_seat {r : SeatRef} (hr : r ∈ (s.lane l).order.seatLines.map SeatLine.seat)
    (held : s.seat ((s.lane l).order.code.getD 0) r = some (.held l)) :
    (vouchersIssued s l).seat ((s.lane l).order.code.getD 0) r = some (.sold s.cfg.station) := by
  have sold : (seatsSold s l).seat ((s.lane l).order.code.getD 0) r = some (.sold s.cfg.station) := by
    have become := (seatsSold_become s l).seats r
    have held' : (s.modLane l fun y => { y with order := { y.order with state := .sold } }).seat
      ((s.lane l).order.code.getD 0) r = some (.held l) := held
    rw [become, held', Option.map_some, if_pos hr, if_pos rfl]
  have turned := (withSale_turn (seatsSold s l) l ((s.lane l).order.seatLines.map SeatLine.seat)).seats
    ((s.lane l).order.code.getD 0) r _ sold (by simp)
  exact (seat_congr (issueVouchers_slots _ l) _ _).trans turned

theorem endPay_cases {u : State} (hu : (u.lane l).block = (s.lane l).block ∨ (u.lane l).block = none)
    (idle : ∀ cap, s.runningWord l ≠ some (.pay cap, .taken)) (w : WordEnd) : u.endPay l w = u := by
  unfold State.endPay
  split
  next cap runs =>
    rcases hu with same | none
    · exact absurd ((runningWord_congr same).symm.trans runs) (idle cap)
    · simp [State.runningWord, none] at runs
  · rfl

theorem endPay_runs {u : State} {cap : Option Nat} (runs : u.runningWord l = some (.pay cap, .taken)) (w : WordEnd) :
    u.endPay l w = u.endWord l w := by
  simp only [State.endPay, runs]

/-- An order that is sold, in the steps of R119. -/
theorem sellOrder_soldTo : SoldTo s l (s.sellOrder l) := by
  refine ⟨seatsSold s l, vouchersIssued s l, _, rfl, seatsSold_become s l, rfl, ?_⟩
  rintro cleared rfl
  refine ⟨fun cap runs => ?_, fun idle => ?_⟩
  · rw [sellOrder_eq, endPay_runs l (vouchersIssued_paying s l runs)]
    rfl
  · rw [sellOrder_eq, endPay_cases s l (vouchersIssued_block s l) idle]
    rfl

theorem endPay_shape (u : State) (w : WordEnd) : ∃ blk io, u.endPay l w = { u.modLane l fun x => { x with block := blk } with io := io } := by
  unfold State.endPay
  split
  · exact endWord_shape u l w
  · exact ⟨_, u.io, (modLane_self (s := u) (f := fun x => { x with block := (u.lane l).block }) rfl).symm⟩

theorem sellOrder_order :
    ∃ lines, ((s.sellOrder l).lane l).order
      = { (s.lane l).order with state := .sold, voucherLines := lines, lapseHeld := false } := by
  obtain ⟨lines, issued⟩ := vouchersIssued_order s l
  obtain ⟨blk, io, ended⟩ := endPay_shape l (vouchersIssued s l) .done
  have lane := State.lane_modLane_same (vouchersIssued s l) l fun x => { x with block := blk }
  refine ⟨lines, ?_⟩
  rw [sellOrder_eq, ended, State.modOrder, State.lane_modLane_same]
  show { ((((vouchersIssued s l).modLane l fun x => { x with block := blk }).lane l).order) with lapseHeld := false } = _
  rw [lane, issued]

theorem sellOrder_seat {r : SeatRef} (hr : r ∈ (s.lane l).order.seatLines.map SeatLine.seat)
    (held : s.seat ((s.lane l).order.code.getD 0) r = some (.held l)) :
    (s.sellOrder l).seat ((s.lane l).order.code.getD 0) r = some (.sold s.cfg.station) := by
  obtain ⟨blk, io, ended⟩ := endPay_shape l (vouchersIssued s l) .done
  rw [sellOrder_eq, ended]
  exact vouchersIssued_seat s l hr held

end Selling

end Sys2Proof.Proofs.PaymentSteps
end

section
/-! PROOFS of O34 and O56: PAY, and the end of a CAPTURE exchange. -/

namespace Sys2Proof.Proofs.Paying

open Sys2Proof Sys2Proof.Machine Sys2Proof.Proofs.Inputs Sys2Proof.Proofs.Requests Sys2Proof.Proofs.Words
open Sys2Proof.Proofs.LinkRules Sys2Proof.Proofs.Received Sys2Proof.Proofs.Closing
open Sys2Proof.Proofs.SeatTimers Sys2Proof.Proofs.GivingUp Sys2Proof.Proofs.Emptying Sys2Proof.Proofs.Cancelling
open Sys2Proof.Proofs.PaymentSteps

/-! ### Tenders -/

theorem anyTender_iff {o : Order} {st : TenderState} : o.anyTender st = true ↔ o.tender1.state = st ∨ o.tender2.state = st := by
  simp [Order.anyTender]

theorem anyTender_false {o : Order} {st : TenderState} (one : o.tender1.state ≠ st) (two : o.tender2.state ≠ st) :
    o.anyTender st = false := by
  simp [Order.anyTender, one, two]

/-- The lowest tender in a state is the first whenever one is in it. -/
theorem firstTender_of_any {o : Order} {st : TenderState} {i : TenderIx} (h : (o.tender i).state = st) :
    o.firstTender st = some (if o.tender1.state = st then .one else .two) := by
  by_cases one : o.tender1.state = st
  · rw [if_pos one]
    exact if_pos one
  · rw [if_neg one]
    cases i with
    | one => exact absurd h one
    | two => exact (if_neg one).trans (if_pos h)

/-- With no tender VOIDING before, the lowest AUTHORIZED one is the first to be voided. -/
theorem voidFrom_first {o : Order} {i : TenderIx} (one : o.tender1.state ≠ .voiding)
    (h : o.lowest .authorized i) : (o.voidFrom .authorized).firstTender .voiding = some i := by
  obtain ⟨at_, first⟩ := h
  cases i with
  | one =>
    have : o.tender1.state = .authorized := at_
    exact if_pos (by simp [Order.voidFrom, Tender.voidFrom, this])
  | two =>
    have second : o.tender2.state = .authorized := at_
    exact (if_neg (by simp [Order.voidFrom, Tender.voidFrom, first rfl, one])).trans
      (if_pos (by simp [Order.voidFrom, Tender.voidFrom, second]))

/-! ### PAY -/

section Pay

variable {s : State} {l : LaneIx} {cap : Option Nat}

theorem payRefusal_none (form : (OrderWord.pay cap).formOk = true) (state : (s.lane l).order.state ∈ (OrderWord.pay cap).takenIn)
    (current : (s.lane l).order.quoteCurrent = true) (drain : s.house.drain = .clear) : s.payRefusal l cap = none := by
  have states : ¬ ((s.lane l).order.state ≠ .quoted ∧ (s.lane l).order.state ≠ .short) := by
    have : (s.lane l).order.state = .quoted ∨ (s.lane l).order.state = .short := by simpa [OrderWord.takenIn] using state
    rintro ⟨a, b⟩
    exact this.elim a b
  simp only [State.payRefusal, payForm_iff, form, if_neg states, current, drainClear_true drain]
  rfl

theorem payRefusal_stale (form : (OrderWord.pay cap).formOk = true) (state : (s.lane l).order.state ∈ (OrderWord.pay cap).takenIn)
    (stale : (s.lane l).order.quoteCurrent = false) : s.payRefusal l cap = some .quoteStale := by
  have states : ¬ ((s.lane l).order.state ≠ .quoted ∧ (s.lane l).order.state ≠ .short) := by
    have : (s.lane l).order.state = .quoted ∨ (s.lane l).order.state = .short := by simpa [OrderWord.takenIn] using state
    rintro ⟨a, b⟩
    exact this.elim a b
  simp only [State.payRefusal, payForm_iff, form, if_neg states, stale]
  rfl

theorem runPay_taken (none : s.payRefusal l cap = none) :
    s.runPay l cap
      = if (s.lane l).order.quoteTotal = 0 ∨ (s.lane l).order.lostSeats.isEmpty = false then (s.setPhase l .taken).commit l
        else (s.setPhase l .taken).sendAuth l cap := by
  simp only [State.runPay, none]

theorem quoteTotal_eq {o : Order} {q : Quote} (h : o.quote = some q) : o.quoteTotal = q.total := by simp [Order.quoteTotal, h]

/-- AUTH is sent for the amount in the slot (R111, R112). -/
theorem sendAuth_eq (s : State) (l : LaneIx) (cap : Option Nat) :
    s.sendAuth l cap
      = s.modLane l fun y =>
          { y with
            order :=
              { y.order.modTender (s.lane l).order.freeSlot fun _ =>
                  ⟨.authorizing, (s.lane l).order.payAmount cap, none, 0, none⟩ with state := .paying }
            term :=
              { y.term with
                sending := some ⟨.auth, y.order.tag.getD 0, (s.lane l).order.freeSlot, (s.lane l).order.payAmount cap⟩ } } := by
  have tag (o : Order) (i : TenderIx) (f : Tender → Tender) : (o.modTender i f).tag = o.tag := by cases i <;> rfl
  unfold State.sendAuth State.sendTerminal
  simp only [State.modOrder, State.lane_modLane_same, tag]
  exact modLane_modLane s l _ _

theorem modTender_fields (o : Order) (i : TenderIx) (f : Tender → Tender) :
    (o.modTender i f).tag = o.tag ∧ (o.modTender i f).code = o.code ∧ (o.modTender i f).seatLines = o.seatLines
      ∧ (o.modTender i f).voucherLines = o.voucherLines ∧ (o.modTender i f).quote = o.quote
      ∧ (o.modTender i f).quoteCurrent = o.quoteCurrent ∧ (o.modTender i f).state = o.state
      ∧ (o.modTender i f).lapseHeld = o.lapseHeld ∧ (o.modTender i f).cancelPending = o.cancelPending := by
  cases i <;> exact ⟨rfl, rfl, rfl, rfl, rfl, rfl, rfl, rfl, rfl⟩

theorem setPhase_runs {w : OrderWord} (fresh : s.freshWord l = some w) : (s.setPhase l .taken).runningWord l = some (w, .taken) := by
  obtain ⟨b, i, block, mode, word⟩ := freshWord_block fresh
  rw [setPhase_eq block mode]
  have block' : ((s.modLane l fun x => { x with block := some { b with mode := .running i .taken } }).lane l).block
      = some { b with mode := .running i .taken } := by rw [State.lane_modLane_same]
  exact runningWord_eq block' rfl word

theorem failingSeats_eq (s : State) (l : LaneIx) :
    s.failingSeats l
      = ((s.lane l).order.seatLines.filter fun v =>
          v.lost = true ∨ s.seat ((s.lane l).order.code.getD 0) v.seat ≠ some (.held l)).map SeatLine.seat := by
  unfold State.failingSeats
  refine congrArg (List.map SeatLine.seat) (List.filter_congr fun v _ => ?_)
  have held := seatHeld_iff (s := s) (code := (s.lane l).order.code.getD 0) (l := l) (r := v.seat)
  cases h : s.seatHeld ((s.lane l).order.code.getD 0) l v.seat with
  | true => simp [held.mp h]
  | false =>
    have : s.seat ((s.lane l).order.code.getD 0) v.seat ≠ some (.held l) := fun e => by simp [held.mpr e] at h
    simp [this]

/-- Seats that fail the hold check, with no tender AUTHORIZED: the order is OPEN without them and the PAY refused (R117). -/
theorem openRefused_eq {cap : Option Nat} (runs : s.runningWord l = some (.pay cap, .taken)) (code : Code) (residual : Nat)
    (lost : List SeatRef) :
    s.openRefused l code residual lost
      = ((s.modLane l fun y =>
            { y with
              order := { y.order with
                state := .opened, quoteCurrent := false, seatLines := y.order.seatLines.filter fun v => v.seat ∉ lost } }).endWord l
          (.refused code (some (.number residual)) lost)).afterStep l := by
  have without : s.openWithout l lost = s.modLane l fun y =>
      { y with
        order := { y.order with
          state := .opened, quoteCurrent := false, seatLines := y.order.seatLines.filter fun v => v.seat ∉ lost } } := by
    unfold State.openWithout State.modOrder
    refine modLane_congr ?_
    simp
  rw [State.openRefused, without]
  refine congrArg (State.afterStep · l) (endPay_runs (cap := cap) l ((runningWord_congr ?_).trans runs) _)
  rw [State.lane_modLane_same]

theorem block_of_runs {w : OrderWord} {ph : WordPhase} (runs : s.runningWord l = some (w, ph)) :
    ∃ b i, (s.lane l).block = some b ∧ b.mode = .running i ph := by
  unfold State.runningWord at runs
  cases block : (s.lane l).block with
  | none => simp [block] at runs
  | some b =>
    cases mode : b.mode with
    | strictWait => simp [block, mode] at runs
    | running i p =>
      simp only [block, mode, Option.map_eq_some_iff, Prod.mk.injEq] at runs
      obtain ⟨w', -, -, rfl⟩ := runs
      exact ⟨b, i, rfl, mode⟩

/-- A word refused leaves no block, and of the rest what was there. -/
theorem endWord_refused_lane {b : Block} {i : Nat} {ph : WordPhase} (block : (s.lane l).block = some b) (mode : b.mode = .running i ph)
    (code : Code) (residual : Option Residual) (offending : List SeatRef) :
    (s.endWord l (.refused code residual offending)).lane l = { s.lane l with block := none } := by
  rw [endWord_refused block mode]
  exact State.lane_modLane_same s l fun x => { x with block := none }

/-- The order unwinds from an IDLE line: VOID is sent for the lowest tender that was AUTHORIZED (R113, R116, R117). -/
theorem unwind_eq {i : TenderIx} {cause : UnwindCause} (idle : IdleLine (s.lane l).term)
    (first : ((s.lane l).order.voidFrom .authorized).firstTender .voiding = some i) :
    s.unwind l cause
      = s.modLane l fun y =>
          { y with
            order := { (s.lane l).order.voidFrom .authorized with state := .unwinding }
            term := { y.term with cause := some cause, sending := some ⟨.void, (s.lane l).order.tag.getD 0, i, 0⟩ } } := by
  have begun : ((s.modOrder l fun o => { o.voidFrom .authorized with state := .unwinding }).modTerm l fun t =>
      { t with cause := some cause }) = s.modLane l fun y =>
        { y with
          order := { (s.lane l).order.voidFrom .authorized with state := .unwinding }, term := { y.term with cause := some cause } } :=
    (modLane_modLane s l _ _).trans (modLane_congr rfl)
  have own := State.lane_modLane_same s l fun y =>
    { y with
      order := { (s.lane l).order.voidFrom .authorized with state := .unwinding }, term := { y.term with cause := some cause } }
  rw [State.unwind, begun, sendVoid_idle (i := i) (by rw [own]) (by rw [own]; exact idle) (by rw [own]; exact first), own]
  exact modLane_modLane s l _ _

/-- What follows a step that has refused the PAY that ran. -/
theorem stepEnds_refused {c : Instr} {u : State} {o : Order} {code : Code} {residual : Option Residual} {lost : List SeatRef}
    (effect : ∀ m, (u.endWord l (.refused code residual lost)).afterStep l = m → Effects c s m)
    (order : (u.lane l).order = o) (state : o.state ∈ ([.opened, .quoted, .short] : List OrderState))
    (runs : u.runningWord l = some (.pay cap, .taken)) (house : u.house = s.house) (link : u.link = s.link)
    (vouchers : u.vouchers = s.vouchers) (slots : u.slots = s.slots) (idle : o.state = .short → IdleLine (u.lane l).term) :
    StepEnds c s (u.endWord l (.refused code residual lost)) l o := by
  obtain ⟨b, i, block, mode⟩ := block_of_runs runs
  have lane := endWord_refused_lane block mode code residual lost
  refine stepEnds effect (by rw [lane]; exact order) state ?_ ?_ ?_ ?_ (by rw [lane]) (fun short => by rw [lane]; exact idle short)
  all_goals rw [endWord_refused block mode]
  · exact house
  · exact link
  · exact vouchers
  · exact slots

/-- Settles O34: the refusal, AUTH sent, the order sold, and the hold check that fails. -/
theorem payWord : Obligations.PayWord := by
  intro s l cap live fresh form state
  have effect : ∀ m, s.runPay l cap = m → Effects (.pay l) s m := fun m h => effects_word (w := .pay cap) live fresh h
  refine ⟨fun stale => effect _ (runPay_refused (payRefusal_stale form state stale)), fun q current quote drain => ?_⟩
  have taken := runPay_taken (payRefusal_none form state current drain)
  have total := quoteTotal_eq quote
  obtain ⟨order, term, -⟩ := setPhase_lane s l .taken
  have runs := setPhase_runs fresh
  refine ⟨fun i amount due none hi hamount => effect _ ?_, fun code free hcode held one two => ?_,
    fun o o1 failing ho hfailing bad why => ⟨fun i one two lowest line sending exchange ho1 => effect _ ?_, fun one two ho1 => ?_⟩⟩
  · have sends : ¬ ((s.lane l).order.quoteTotal = 0 ∨ (s.lane l).order.lostSeats.isEmpty = false) := by
      rintro (zero | some)
      · rw [total] at zero
        omega
      · have : (s.lane l).order.lostSeats = [] := by
          unfold Order.lostSeats
          rw [List.filter_eq_nil_iff.mpr fun v hv => by simp [none v hv], List.map_nil]
        simp [this] at some
    have slot : (s.lane l).order.freeSlot = i := hi.symm
    have asked : (s.lane l).order.payAmount cap = amount := by
      rw [hamount]
      cases cap <;> simp [Order.payAmount, Order.due, total]
    rw [taken, if_neg sends, sendAuth_eq, order, slot, asked]
  · have passes : ((s.setPhase l .taken).failingSeats l).isEmpty = true := by
      rw [failingSeats_eq, order, List.isEmpty_iff, List.map_eq_nil_iff, List.filter_eq_nil_iff]
      intro v hv
      obtain ⟨kept, own⟩ := held v hv
      have own' : (s.setPhase l .taken).seat ((s.lane l).order.code.getD 0) v.seat = some (.held l) := hcode ▸ own
      simp [kept, own']
    have none : ((s.setPhase l .taken).lane l).order.anyTender .authorized = false := by
      rw [order]
      exact anyTender_false one two
    have sells : s.runPay l cap = (s.setPhase l .taken).sellOrder l := by
      rw [taken, if_pos (.inl (total.trans free))]
      simp only [State.commit, passes, none, if_true, Bool.false_eq_true, if_false]
    obtain ⟨lines, sold⟩ := sellOrder_order (s.setPhase l .taken) l
    refine ⟨_, effect _ sells, sellOrder_soldTo _ l, by rw [sold], fun v hv => ?_⟩
    have seat := sellOrder_seat (s.setPhase l .taken) l (r := v.seat) (by rw [order]; exact List.mem_map_of_mem hv)
      (by rw [order, ← hcode]; exact (held v hv).2)
    rw [order, ← hcode] at seat
    exact seat
  all_goals
    subst ho
    have commits : s.runPay l cap = (s.setPhase l .taken).commit l := by
      rw [taken]
      refine if_pos (why.imp (fun zero => total.trans zero) fun ⟨v, hv, gone⟩ => ?_)
      rw [List.isEmpty_eq_false_iff]
      exact List.ne_nil_of_mem (List.mem_map_of_mem (List.mem_filter.mpr ⟨hv, gone⟩))
    have failing_ : (s.setPhase l .taken).failingSeats l = failing := by
      rw [failingSeats_eq, order, hfailing]
      rfl
    have fails : (failing.isEmpty) = false := by simpa using bad
  · have any : ((s.setPhase l .taken).lane l).order.anyTender .authorized = true := by
      rw [order]
      exact anyTender_of_first (firstTender_of_lowest lowest)
    have unwinds : s.runPay l cap = (s.setPhase l .taken).unwind l .seatsLost := by
      rw [commits]
      simp only [State.commit, failing_, fails, any, if_true, Bool.false_eq_true, if_false]
    rw [unwinds, unwind_eq (i := i) (by rw [term]; exact ⟨line, sending, exchange⟩)
      (by rw [order]; exact voidFrom_first one lowest), order]
    refine modLane_congr ?_
    rw [ho1]
  · have none := anyTender_false one two
    have opens : s.runPay l cap
        = (((s.setPhase l .taken).modLane l fun y => { y with order := o1 }).endWord l
            (.refused .paySeatsLost (some (.number q.total)) failing)).afterStep l := by
      have refused : s.runPay l cap = (s.setPhase l .taken).openRefused l .paySeatsLost q.total failing := by
        rw [commits]
        simp only [State.commit, failing_, fails, none, Bool.false_eq_true, if_false, order, total]
      rw [refused, openRefused_eq runs]
      refine congrArg (fun u : State => (u.endWord l _).afterStep l) (modLane_congr ?_)
      rw [order, ho1]
    exact stepEnds_refused (fun m h => effect m (opens.trans h)) (by rw [State.lane_modLane_same]) (by simp [ho1])
      ((runningWord_congr (by rw [State.lane_modLane_same])).trans runs) rfl rfl rfl rfl (by simp [ho1])

end Pay

/-! ### Messages of the terminal line -/

section Messages

variable {s : State} {l : LaneIx} {x : Exchange} {m : TerminalRx}

theorem terminalRx_on (line : (s.lane l).term.line = .awaiting) : s.terminalRx l m = s.terminalMessage l m := if_neg (by simp [line])

/-- A RESULT that matches the outstanding AUTH ends it (R110). -/
theorem rx_auth {outcome : ResultOutcome} {approved : Nat} {auth : BitVec 48} (exchange : (s.lane l).term.exchange = some x)
    (kind : x.msg.kind = .auth) (line : (s.lane l).term.line = .awaiting)
    (ok : (TerminalRx.result x.msg.tag x.msg.index.number outcome approved auth).ok = true) :
    s.terminalRx l (.result x.msg.tag x.msg.index.number outcome approved auth)
      = (s.endExchange l).authEnded l x.msg.index (AuthEnd.ofResult outcome approved auth) := by
  rw [terminalRx_on line]
  simp only [State.terminalMessage, exchange, kind]
  exact if_pos ⟨ok, line, rfl⟩

/-- A CAPTURED that matches the outstanding CAPTURE ends it (R118). -/
theorem rx_captured (exchange : (s.lane l).term.exchange = some x) (kind : x.msg.kind = .capture)
    (line : (s.lane l).term.line = .awaiting) (ok : (TerminalRx.captured x.msg.tag x.msg.index.number).ok = true) :
    s.terminalRx l (.captured x.msg.tag x.msg.index.number) = (s.endExchange l).captured l x.msg.index := by
  rw [terminalRx_on line]
  simp only [State.terminalMessage, exchange, kind]
  exact if_pos ⟨ok, line, rfl⟩

/-- A RESULT that matches the outstanding CAPTURE fails it (R120). -/
theorem rx_captureFailed {outcome : ResultOutcome} {approved : Nat} {auth : BitVec 48} (exchange : (s.lane l).term.exchange = some x)
    (kind : x.msg.kind = .capture) (line : (s.lane l).term.line = .awaiting)
    (ok : (TerminalRx.result x.msg.tag x.msg.index.number outcome approved auth).ok = true) :
    s.terminalRx l (.result x.msg.tag x.msg.index.number outcome approved auth)
      = (s.endExchange l).captureFailed l x.msg.index := by
  rw [terminalRx_on line]
  simp only [State.terminalMessage, exchange, kind]
  exact if_pos ⟨ok, line, rfl⟩

/-- A VOIDED that matches the outstanding VOID ends it (R121). -/
theorem rx_voided (exchange : (s.lane l).term.exchange = some x) (kind : x.msg.kind = .void)
    (line : (s.lane l).term.line = .awaiting) (ok : (TerminalRx.voided x.msg.tag x.msg.index.number).ok = true) :
    s.terminalRx l (.voided x.msg.tag x.msg.index.number) = (s.endExchange l).voided l x.msg.index := by
  rw [terminalRx_on line]
  simp only [State.terminalMessage, exchange, kind]
  exact if_pos ⟨ok, line, rfl⟩

/-- A RESULT that matches the outstanding VOID fails it (R123). -/
theorem rx_voidFailed {outcome : ResultOutcome} {approved : Nat} {auth : BitVec 48} (exchange : (s.lane l).term.exchange = some x)
    (kind : x.msg.kind = .void) (line : (s.lane l).term.line = .awaiting)
    (ok : (TerminalRx.result x.msg.tag x.msg.index.number outcome approved auth).ok = true) :
    s.terminalRx l (.result x.msg.tag x.msg.index.number outcome approved auth) = (s.endExchange l).voidFailed l x.msg.index := by
  rw [terminalRx_on line]
  simp only [State.terminalMessage, exchange, kind]
  exact if_pos ⟨ok, line, rfl⟩

/-- A message for another tender changes nothing (R110). -/
theorem terminalRx_other (exchange : (s.lane l).term.exchange = some x)
    (other : m.address ≠ (x.msg.tag, x.msg.index.number)) : s.terminalRx l m = s := by
  unfold State.terminalRx
  split
  · rfl
  · simp only [State.terminalMessage, exchange]
    exact if_neg fun h => other h.2.2

theorem exchangeDue_reached {k : ExchangeKind} (exchange : (s.lane l).term.exchange = some x) (kind : x.msg.kind = k)
    (due : x.deadline ≤ s.house.clock) : s.exchangeDue l k = some x := by
  simp [State.exchangeDue, exchange, kind, due]

theorem exchangeDue_before {k : ExchangeKind} (exchange : (s.lane l).term.exchange = some x)
    (before : s.house.clock < x.deadline) : s.exchangeDue l k = none := by
  simpa [State.exchangeDue, exchange] using fun _ => before

theorem number_ok (i : TenderIx) {tag : Nat} (tag_ok : codeOk tag = true) :
    (TerminalRx.captured tag i.number).ok = true ∧ (TerminalRx.voided tag i.number).ok = true := by
  cases i <;> simp [TerminalRx.ok, TenderIx.number, tag_ok]

end Messages

/-! ### The end of a CAPTURE exchange -/

theorem tender_modTender (o : Order) (i : TenderIx) (f : Tender → Tender) : (o.modTender i f).tender i = f (o.tender i) := by
  cases i <;> rfl

theorem tender_modTender_other (o : Order) (i : TenderIx) (f : Tender → Tender) :
    (o.modTender i f).tender i.other = o.tender i.other := by cases i <;> rfl

/-- With tender `i` in another state, the other tender is the first in a state when it is in it. -/
theorem firstTender_other {o : Order} {i : TenderIx} {st : TenderState} (own : (o.tender i).state ≠ st)
    (other : (o.tender i.other).state = st) : o.firstTender st = some i.other := by
  cases i with
  | one => exact (if_neg own).trans (if_pos other)
  | two => exact if_pos other

theorem anyTender_none {o : Order} {i : TenderIx} {st : TenderState} (own : (o.tender i).state ≠ st)
    (other : (o.tender i.other).state ≠ st) : o.anyTender st = false := by
  cases i with
  | one => exact anyTender_false own other
  | two => exact anyTender_false other own

/-- A tender that is VOIDING stays so when others become VOIDING. -/
theorem voidFrom_voiding {o : Order} {i : TenderIx} {st : TenderState} (h : (o.tender i).state = .voiding) :
    ((o.voidFrom st).tender i).state = .voiding := by
  have stays (t : Tender) (ht : t.state = .voiding) : (t.voidFrom st).state = .voiding := by
    unfold Tender.voidFrom
    split
    · rfl
    · exact ht
  cases i <;> exact stays _ h

/-- CAPTURE is sent for the lowest AUTHORIZED tender (R118). -/
theorem settledTo_capture {s : State} {l : LaneIx} {y : Order} {g : Terminal → Terminal} {i : TenderIx}
    (first : y.firstTender .authorized = some i) :
    (settledTo s l y g).sendCapture l
      = settledTo s l (y.modTender i fun t => { t with state := .capturing }) fun t =>
          { g t with sending := some ⟨.capture, y.tag.getD 0, i, (y.tender i).approved.getD 0⟩ } := by
  have first' : ((settledTo s l y g).lane l).order.firstTender .authorized = some i := by rw [settledTo_lane]; exact first
  simp only [State.sendCapture, first', settledTo_order]
  rw [settledTo_send, (modTender_fields y i _).1, settledTo_lane]

/-- Settles O56: the capture confirmed, with the next one sent or the order sold, and the capture that fails. -/
theorem captureExchange : Obligations.CaptureExchange := by
  intro s l x o o1 i settled live ho exchange kind hi line sending tag hsettled
  subst ho hi
  have settled_ (y : Order) (g : Terminal → Terminal) : settled y g = settledTo s l y g := by rw [hsettled]; rfl
  have idle : IdleLine ({ (s.lane l).term with exchange := none, line := .idle } : Terminal) := ⟨rfl, sending, rfl⟩
  refine ⟨fun ho1 => ?_, fun before => effects_of_eq rfl live ?_, fun c j ended ho1 hj => ?_⟩
  · have met : s.terminalRx l (.captured x.msg.tag x.msg.index.number)
        = if (o1.anyTender .authorized) = true then (settledTo s l o1 id).sendCapture l else (settledTo s l o1 id).sellOrder l := by
      rw [rx_captured exchange kind line (number_ok x.msg.index tag).1, endExchange_eq, State.captured]
      simp only [settledTo_order, settledTo_lane]
      rw [← ho1]
    have own : (o1.tender x.msg.index).state ≠ .authorized := by simp [ho1, tender_modTender]
    have other : (o1.tender x.msg.index.other) = (s.lane l).order.tender x.msg.index.other := by rw [ho1, tender_modTender_other]
    obtain ⟨tag_, code_, lines_, -, quote_, -⟩ := modTender_fields (s.lane l).order x.msg.index
      fun t => { t with state := .captured, captured := t.approved.getD 0 }
    rw [← ho1] at tag_ code_ lines_ quote_
    refine ⟨fun next => effects_of_eq rfl live ?_, fun last => ?_⟩
    · have first := firstTender_other own (by rw [other]; exact next)
      show s.terminalRx l _ = _
      rw [met, if_pos (anyTender_of_first first), settledTo_capture first, settled_, other, tag_]
      rfl
    · have none := anyTender_none own (by rw [other]; exact last)
      obtain ⟨lines, sold⟩ := sellOrder_order (settledTo s l o1 id) l
      have order : ((settledTo s l o1 id).lane l).order = o1 := by rw [settledTo_lane]
      rw [order] at sold
      have sells : s.terminalRx l (.captured x.msg.tag x.msg.index.number) = (settledTo s l o1 id).sellOrder l := by
        rw [met, none]
        rfl
      refine ⟨_, effects_of_eq rfl live sells, by rw [settled_]; exact sellOrder_soldTo _ l, by rw [sold], by rw [sold],
        by rw [sold], by rw [sold], by rw [sold]; exact quote_, fun v hv held => ?_⟩
      have seat := sellOrder_seat (settledTo s l o1 id) l (r := v.seat) (by rw [order, lines_]; exact List.mem_map_of_mem hv)
        (by rw [order, code_]; exact held)
      rw [order, code_] at seat
      exact seat
  · show s.captureTimedOut l = s
    simp only [State.captureTimedOut, exchangeDue_before exchange before]
  · have fails : (s.endExchange l).captureFailed l x.msg.index
        = settled o1 fun t => { t with cause := some .captureFailed, sending := some ⟨.void, (s.lane l).order.tag.getD 0, j, 0⟩ } := by
      have voiding' := voidFrom_voiding (st := .authorized) (voidFrom_voiding (st := .captured)
        (o := (s.lane l).order.modTender x.msg.index fun t => { t with state := .voiding }) (i := x.msg.index)
        (by rw [tender_modTender]))
      have first := firstTender_of_any voiding'
      have tag_ := (modTender_fields (s.lane l).order x.msg.index fun t => { t with state := .voiding }).1
      rw [endExchange_eq, State.captureFailed, settledTo_order, settledTo_unwind (g := id) (fun _ h => h) sending first, settled_, hj, ho1]
      show settledTo s l _ (fun t => { t with cause := some .captureFailed, sending := some ⟨.void, Option.getD
        ((s.lane l).order.modTender x.msg.index fun t => { t with state := .voiding }).tag 0, _, 0⟩ }) = _
      rw [tag_]
    rcases ended with ⟨rfl, due⟩ | ⟨outcome, approved, auth, rfl, ok⟩
    · refine effects_of_eq rfl live ?_
      show s.captureTimedOut l = _
      simp only [State.captureTimedOut, exchangeDue_reached exchange kind due]
      exact fails
    · exact effects_of_eq rfl live ((rx_captureFailed exchange kind line ok).trans fails)

end Sys2Proof.Proofs.Paying
end

section
/-! PROOFS of O55: the end of an AUTH exchange. -/

namespace Sys2Proof.Proofs.Authorizing

open Sys2Proof Sys2Proof.Machine Sys2Proof.Proofs.Inputs Sys2Proof.Proofs.Requests Sys2Proof.Proofs.Words
open Sys2Proof.Proofs.LinkRules Sys2Proof.Proofs.Received Sys2Proof.Proofs.Closing
open Sys2Proof.Proofs.SeatTimers Sys2Proof.Proofs.GivingUp Sys2Proof.Proofs.Emptying Sys2Proof.Proofs.Cancelling
open Sys2Proof.Proofs.PaymentSteps Sys2Proof.Proofs.Paying

/-! ### The lane's own block through a cancellation -/

theorem endPick_other_block {s : State} {l k : LaneIx} (hk : l ≠ k) (w : WordEnd) : ((s.endPick k w).lane l).block = (s.lane l).block := by
  obtain ⟨blk, io, h⟩ := Aborts.endPick_shape s k w
  rw [h]
  exact congrArg Lane.block (lane_modLane_other (s := s) hk fun x => { x with block := blk })

/-- Without a QUEUED claim of its own a lane keeps its block through the loss of a notice. -/
theorem noticeLost_ownBlock {s : State} {l : LaneIx} (claim : (s.lane l).claim.state ≠ .queued) (n : Notice) (k : Option LaneIx)
    (tag : Option Nat) : ((s.noticeLost n k tag).lane l).block = (s.lane l).block := by
  cases n with
  | hold =>
    cases k with
    | none => rfl
    | some k =>
      show ((s.claimFails k _).lane l).block = _
      unfold State.claimFails
      split
      next queued =>
        have hk : l ≠ k := fun e => claim (e ▸ queued)
        refine (endPick_other_block hk _).trans ?_
        exact congrArg Lane.block (lane_modLane_other (s := s.freeClaim k) hk fun x => { x with claim := Claim.blank })
      · rfl
  | censusCall code =>
    show ((s.endCensus code).lane l).block = _
    unfold State.endCensus
    split
    · rfl
    · split
      · split <;> rfl
      · rfl
  | renew =>
    show ((s.owe k).lane l).block = _
    unfold State.owe
    split
    · split <;> rfl
    · rfl
  | _ => rfl

theorem offerRelease_ownBlock {s : State} {l : LaneIx} (claim : (s.lane l).claim.state ≠ .queued) (k : LaneIx) (tag : Option Nat)
    (code : Nat) (seats : List SeatRef) : ((s.offerRelease k tag code seats).lane l).block = (s.lane l).block := by
  unfold State.offerRelease State.offer
  split
  · rfl
  · split
    · rfl
    · exact noticeLost_ownBlock (s := s.modLink _) claim _ _ _
    · rfl
    · exact noticeLost_ownBlock claim _ _ _

/-- Giving up the claim leaves no claim QUEUED, and the block as it was. -/
theorem giveUpClaim_block (s : State) (l : LaneIx) :
    ((s.giveUpClaim l).lane l).claim.state ≠ .queued ∧ ((s.giveUpClaim l).lane l).block = (s.lane l).block := by
  have cleared : ((s.freeClaim l).clearClaim l).lane l = { s.lane l with claim := Claim.blank } :=
    State.lane_modLane_same (s.freeClaim l) l _
  have removed (u : State) (id : Nat) : (u.removeEntry id).lane l = u.lane l := by
    obtain ⟨k, h, -⟩ := removeEntry_linkOnly u id
    rw [h]
    rfl
  rcases giveUpClaim_cases s l with ⟨queued, -, h⟩ | ⟨e, -, -, -, h⟩ | ⟨-, ⟨-, h⟩ | ⟨e, -, -, -, h⟩⟩
  · rw [h]
    exact ⟨queued, rfl⟩
  · rw [h, removed, State.lane_modLane_same]
    exact ⟨by simp, rfl⟩
  · rw [h, cleared]
    exact ⟨by simp [Claim.blank], rfl⟩
  · rw [h, removed, cleared]
    exact ⟨by simp [Claim.blank], rfl⟩

/-- A cancellation at once leaves the lane's own block to what waits on it. -/
theorem cancelled_ownBlock (s : State) (l : LaneIx) : ((cancelled s l).lane l).block = (s.lane l).block := by
  rw [cancelled_lane]
  show ((s.release l (s.lane l).order.liveSeats true).lane l).block = _
  obtain ⟨queued, block⟩ := giveUpClaim_block (freed s l (s.lane l).order.liveSeats) l
  obtain ⟨r, k, shrunk, -⟩ := renewalShrunk_linkOnly
    ((givenClaim s l (s.lane l).order.liveSeats true).offerRelease l ((s.lane l).order.tag.or (s.lane l).claim.tag)
      (s.lane l).seatCode ((s.lane l).order.liveSeats.filter (s.seatHeld (s.lane l).seatCode l)
        ++ if true && (s.lane l).claim.state = .contest then
            (s.lane l).claim.seatRefs.filter (s.seatClaimed (s.lane l).seatCode l) else [])) l
  rw [release_eq, shrunk]
  refine (congrArg Lane.block (State.lane_modLane_same _ l fun x => { x with renewal := r })).trans ?_
  exact (offerRelease_ownBlock (s := givenClaim s l (s.lane l).order.liveSeats true) queued l _ _ _).trans block

/-- What waits on a cancellation changes the block and the Ring Interface alone. -/
theorem endCancelWait_shape (s : State) (l : LaneIx) (w : WordEnd) :
    ∃ blk io, s.endCancelWait l w = { s.modLane l fun x => { x with block := blk } with io := io } := by
  have same : s = { s.modLane l fun x => { x with block := (s.lane l).block } with io := s.io } :=
    (modLane_self (s := s) (f := fun x => { x with block := (s.lane l).block }) rfl).symm
  unfold State.endCancelWait
  split
  · exact ⟨_, _, same⟩
  · split
    · exact ⟨_, _, rfl⟩
    · split
      · exact endWord_shape s l w
      · exact ⟨_, _, same⟩

/-- An order cancelled at once at the end of an exchange, with all that waits on it. -/
structure GivenUp (s : State) (l : LaneIx) (v m : State) : Prop where
  order : (m.lane l).order = Order.blank
  attendance : (m.lane l).attendance = none
  renewal : (m.lane l).renewal = none
  term : (m.lane l).term = { (s.lane l).term with cause := none }
  emptied : (v.lane l).order = Order.blank
  block : (v.lane l).block = (s.lane l).block
  quiet : QueueOpen s.link → v.io = s.io
  unwaited : (s.lane l).block = none → m = v
  cancel : s.runningWord l = some (.cancel, .taken) → m = v.endWord l .done
  strict : ∀ b offset code, (s.lane l).block = some b → b.mode = .strictWait offset code →
    m = (v.modLane l fun y => { y with block := none }).complete b.ref
          (Status.bytes ⟨.malformed, offset, some code, none, some .empty, none, []⟩)
  vouchers : m.vouchers = s.vouchers.returned (s.lane l).order.voucherLines
  seats : ∀ a r, (s.lane l).order.code = some a → r ∈ (s.lane l).order.liveSeats → s.seat a r = some (.held l) → m.seat a r = some .free

theorem finishCancel_givenUp (s : State) (l : LaneIx) : GivenUp s l (cancelled s l) (s.finishCancel l) := by
  have emptied := cancelled_emptied s l
  have block := cancelled_ownBlock s l
  obtain ⟨blk, io, shape⟩ := endCancelWait_shape (cancelled s l) l .done
  have shape' : s.finishCancel l = { (cancelled s l).modLane l fun x => { x with block := blk } with io := io } :=
    (finishCancel_eq s l).trans shape
  have lane : (s.finishCancel l).lane l = { (cancelled s l).lane l with block := blk } := by
    rw [shape']
    exact State.lane_modLane_same (cancelled s l) l fun x => { x with block := blk }
  refine ⟨by rw [lane]; exact emptied.order, by rw [lane]; exact emptied.attendance, by rw [lane]; exact emptied.renewal,
    by rw [lane]; exact emptied.term, emptied.order, block, fun queue => (emptied.quiet ((hasSpare_of_open queue).mono (by omega))).1,
    fun none => endCancelWait_none (block.trans none) _, fun runs => endCancelWait_cancel ((runningWord_congr block).trans runs) _,
    fun b offset code here mode => ?_, ?_, fun a r named hr held => ?_⟩
  · rw [finishCancel_eq, endCancelWait_strict (block.trans here) mode, State.orderStatus, emptied.order]
    rfl
  · rw [shape']
    exact emptied.vouchers
  · rw [shape']
    exact cancelled_free named hr held

/-! ### Where an exchange that has ended leaves the order (R114, R116) -/

section Settling

variable {s : State} {l : LaneIx} {y : Order} {g : Terminal → Terminal} {cap : Option Nat}

/-- The order without the lines of some seats, OPEN and its quote stale. -/
def openedOrder (o : Order) (lost : List SeatRef) : Order :=
  { o with state := .opened, quoteCurrent := false, seatLines := o.seatLines.filter fun v => v.seat ∉ lost }

theorem settleTo_kept {target : OrderState} {code : Code} (runs : s.runningWord l = some (.pay cap, .taken)) (kept : y.lostSeats = []) :
    (settledTo s l y g).settleTo l target code
      = ((settledTo s l { y with state := target } g).endWord l (.refused code (some (.number y.due)) [])).afterStep l := by
  have order : ((settledTo s l y g).lane l).order = y := by rw [settledTo_lane]
  have moved : ((settledTo s l y g).modOrder l fun o => { o with state := target }) = settledTo s l { y with state := target } g :=
    settledTo_order _
  unfold State.settleTo
  simp only [order, kept, List.isEmpty_nil, if_true, moved]
  rw [endPay_runs l ((settledTo_block s l _ g).trans runs)]

theorem settleTo_unwinds {target : OrderState} {code : Code} (lost : y.lostSeats ≠ []) (any : y.anyTender .authorized = true) :
    (settledTo s l y g).settleTo l target code = (settledTo s l y g).unwind l .seatsLost := by
  have order : ((settledTo s l y g).lane l).order = y := by rw [settledTo_lane]
  have some_ : y.lostSeats.isEmpty = false := by simpa using lost
  unfold State.settleTo
  simp only [order, some_, any, Bool.false_eq_true, if_false, if_true]

theorem settled_openRefused {code : Code} {residual : Nat} {lost : List SeatRef} (runs : s.runningWord l = some (.pay cap, .taken)) :
    (settledTo s l y g).openRefused l code residual lost
      = ((settledTo s l (openedOrder y lost) g).endWord l (.refused code (some (.number residual)) lost)).afterStep l := by
  rw [openRefused_eq ((settledTo_block s l y g).trans runs)]
  refine congrArg (fun u : State => (u.endWord l _).afterStep l) ?_
  exact settledTo_order (s := s) (l := l) (y := y) (g := g) fun o => openedOrder o lost

theorem settleTo_opens {target : OrderState} {code : Code} (runs : s.runningWord l = some (.pay cap, .taken)) (lost : y.lostSeats ≠ [])
    (none : y.anyTender .authorized = false) :
    (settledTo s l y g).settleTo l target code
      = ((settledTo s l (openedOrder y y.lostSeats) g).endWord l (.refused code (some (.number y.due)) y.lostSeats)).afterStep l := by
  have order : ((settledTo s l y g).lane l).order = y := by rw [settledTo_lane]
  have some_ : y.lostSeats.isEmpty = false := by simpa using lost
  unfold State.settleTo
  simp only [order, some_, none, Bool.false_eq_true, if_false]
  exact settled_openRefused runs

/-- What follows a step that has ended an exchange and refused the PAY that ran. -/
theorem settled_stepEnds {c : Instr} {code : Code} {residual : Option Residual} {lost : List SeatRef}
    (effect : ∀ m, ((settledTo s l y g).endWord l (.refused code residual lost)).afterStep l = m → Effects c s m)
    (state : y.state ∈ ([.opened, .quoted, .short] : List OrderState)) (runs : s.runningWord l = some (.pay cap, .taken))
    (sending : (s.lane l).term.sending = none) (idle : ∀ t, IdleLine t → IdleLine (g t)) :
    StepEnds c s ((settledTo s l y g).endWord l (.refused code residual lost)) l y :=
  stepEnds_refused effect (by rw [settledTo_lane]) state ((settledTo_block s l y g).trans runs) rfl rfl rfl rfl fun _ => by
    rw [settledTo_lane]
    exact idle _ ⟨rfl, sending, rfl⟩

end Settling

/-! ### The end of an AUTH exchange -/

section Auth

variable {s : State} {l : LaneIx} {o : Order} {i : TenderIx} {e : AuthEnd}

/-- The order as the end of the exchange leaves it, before it is acted on. -/
def authOrder (o : Order) (i : TenderIx) (e : AuthEnd) : Order := o.modTender i (Tender.authEnd e)

theorem authEnded_cancelled (pending : (s.lane l).order.cancelPending = true) :
    (s.endExchange l).authEnded l i e = (settledTo s l (authOrder (s.lane l).order i e) id).cancelAfterAuth l := by
  have order : ((settledTo s l (authOrder (s.lane l).order i e) id).lane l).order = authOrder (s.lane l).order i e := by
    rw [settledTo_lane]
  have pending' : (authOrder (s.lane l).order i e).cancelPending = true := by
    rw [authOrder, (modTender_fields _ i _).2.2.2.2.2.2.2.2, pending]
  have moved : ((s.endExchange l).modOrder l fun o => o.modTender i (Tender.authEnd e))
      = settledTo s l (authOrder (s.lane l).order i e) id := by
    rw [endExchange_eq]
    exact settledTo_order _
  unfold State.authEnded
  simp only [moved, order, pending', if_true]

/-- The order as the end of the exchange leaves it, on the line that is IDLE again. -/
def authSettled (s : State) (l : LaneIx) (i : TenderIx) (e : AuthEnd) : State :=
  settledTo s l (authOrder (s.lane l).order i e) id

theorem authSettled_order (s : State) (l : LaneIx) (i : TenderIx) (e : AuthEnd) :
    ((authSettled s l i e).lane l).order = authOrder (s.lane l).order i e := by rw [authSettled, settledTo_lane]

theorem authEnded_eq (s : State) (l : LaneIx) (i : TenderIx) (e : AuthEnd) :
    ((s.endExchange l).modOrder l fun o => o.modTender i (Tender.authEnd e)) = authSettled s l i e := by
  rw [endExchange_eq]
  exact settledTo_order _

theorem authOrder_pending : (authOrder o i e).cancelPending = o.cancelPending := (modTender_fields _ i _).2.2.2.2.2.2.2.2

theorem authOrder_lines : (authOrder o i e).seatLines = o.seatLines := (modTender_fields _ i _).2.2.1

theorem authOrder_lost : (authOrder o i e).lostSeats = o.lostSeats := by rw [Order.lostSeats, authOrder_lines, Order.lostSeats]

theorem authOrder_tag : (authOrder o i e).tag = o.tag := (modTender_fields _ i _).1

theorem authOrder_own : (authOrder o i e).tender i = (o.tender i).authEnd e := tender_modTender o i _

theorem authOrder_other : (authOrder o i e).tender i.other = o.tender i.other := tender_modTender_other o i _

/-- Approved for what is due, the order commits (R113, R117). -/
theorem authEnded_paid {amount : Nat} {auth : BitVec 48} (pending : (s.lane l).order.cancelPending = false)
    (due : (authOrder (s.lane l).order i (.approved amount auth)).due = 0) :
    (s.endExchange l).authEnded l i (.approved amount auth) = (authSettled s l i (.approved amount auth)).commit l := by
  simp only [State.authEnded, authEnded_eq, authSettled_order, authOrder_pending, pending, due, Bool.false_eq_true, if_false, if_true]

/-- Approved for less than is due with the other tender AUTHORIZED, the order unwinds (R113). -/
theorem authEnded_unwinds {amount : Nat} {auth : BitVec 48} (pending : (s.lane l).order.cancelPending = false)
    (due : (authOrder (s.lane l).order i (.approved amount auth)).due ≠ 0)
    (other : ((s.lane l).order.tender i.other).state = .authorized) :
    (s.endExchange l).authEnded l i (.approved amount auth)
      = (authSettled s l i (.approved amount auth)).unwind l
          (if (s.lane l).order.lostSeats.isEmpty then .shortFinal else .seatsLost) := by
  simp only [State.authEnded, authEnded_eq, authSettled_order, authOrder_pending, pending, due, authOrder_other, other,
    authOrder_lost, Bool.false_eq_true, if_false, if_true]

/-- Approved for less than is due by the first tender, the order is left SHORT (R113). -/
theorem authEnded_short {amount : Nat} {auth : BitVec 48} (pending : (s.lane l).order.cancelPending = false)
    (due : (authOrder (s.lane l).order i (.approved amount auth)).due ≠ 0)
    (other : ((s.lane l).order.tender i.other).state ≠ .authorized) :
    (s.endExchange l).authEnded l i (.approved amount auth)
      = (authSettled s l i (.approved amount auth)).settleTo l .short .payShort := by
  simp only [State.authEnded, authEnded_eq, authSettled_order, authOrder_pending, pending, due, authOrder_other, other,
    Bool.false_eq_true, if_false]

/-- The order that a declined tender leaves is SHORT or QUOTED (R114). -/
def declinedState (o : Order) (i : TenderIx) : OrderState := if (o.tender i.other).state = .authorized then .short else .quoted

theorem authOrder_declined_any {code : Code} :
    (authOrder o i (.declined code)).anyTender .authorized = decide ((o.tender i.other).state = .authorized) := by
  have own : ((authOrder o i (.declined code)).tender i).state ≠ .authorized := by simp [authOrder_own, Tender.authEnd]
  by_cases other : (o.tender i.other).state = .authorized
  · rw [decide_eq_true other]
    exact anyTender_of_first (firstTender_other own (by rw [authOrder_other]; exact other))
  · rw [decide_eq_false other]
    exact anyTender_none own (by rw [authOrder_other]; exact other)

theorem authEnded_declined {code : Code} (pending : (s.lane l).order.cancelPending = false) :
    (s.endExchange l).authEnded l i (.declined code)
      = (authSettled s l i (.declined code)).settleTo l (declinedState (s.lane l).order i) code := by
  simp only [State.authEnded, authEnded_eq, authSettled_order, authOrder_pending, pending, authOrder_declined_any,
    decide_eq_true_eq, declinedState, Bool.false_eq_true, if_false]

/-- In doubt, the tender is voided (R115). -/
theorem authEnded_doubt {cause : UnwindCause} (pending : (s.lane l).order.cancelPending = false)
    (sending : (s.lane l).term.sending = none) (other : ((s.lane l).order.tender i.other).state ≠ .voiding) :
    (s.endExchange l).authEnded l i (.doubt cause)
      = settledTo s l { authOrder (s.lane l).order i (.doubt cause) with state := .unwinding } fun t =>
          { t with cause := some cause, sending := some ⟨.void, (s.lane l).order.tag.getD 0, i, 0⟩ } := by
  have first : (authOrder (s.lane l).order i (.doubt cause)).firstTender .voiding = some i := by
    have own : ((authOrder (s.lane l).order i (.doubt cause)).tender i).state = .voiding := by rw [authOrder_own]; rfl
    have other' : ((authOrder (s.lane l).order i (.doubt cause)).tender i.other).state ≠ .voiding := by
      rw [authOrder_other]
      exact other
    cases i with
    | one => exact if_pos own
    | two => exact (if_neg other').trans (if_pos own)
  have begins : (s.endExchange l).authEnded l i (.doubt cause)
      = (((authSettled s l i (.doubt cause)).modOrder l fun o => { o with state := .unwinding }).modTerm l fun t =>
          { t with cause := some cause }).sendVoid l := by
    simp only [State.authEnded, authEnded_eq, authSettled_order, authOrder_pending, pending, Bool.false_eq_true, if_false]
  rw [begins, authSettled, settledTo_order, settledTo_term,
    settledTo_void (y := { authOrder (s.lane l).order i (.doubt cause) with state := .unwinding }) (i := i) rfl
      (by rw [settledTo_lane]; exact ⟨rfl, sending, rfl⟩) first]
  show settledTo s l _ (fun t => { t with cause := some cause, sending := some ⟨.void, Option.getD (authOrder _ i _).tag 0, i, 0⟩ }) = _
  rw [authOrder_tag]

/-- With cancel pending and a tender to be voided, the voids begin (R126). -/
theorem cancelAfterAuth_voids {y : Order} {j : TenderIx} (sending : (s.lane l).term.sending = none)
    (first : (y.voidFrom .authorized).firstTender .voiding = some j) :
    (settledTo s l y id).cancelAfterAuth l
      = settledTo s l { y.voidFrom .authorized with state := .unwinding } fun t =>
          { t with sending := some ⟨.void, y.tag.getD 0, j, 0⟩ } := by
  have order : ((settledTo s l (y.voidFrom .authorized) id).lane l).order = y.voidFrom .authorized := by rw [settledTo_lane]
  simp only [State.cancelAfterAuth, settledTo_order, order, anyTender_of_first first, if_true]
  exact settledTo_void rfl (by rw [settledTo_lane]; exact ⟨rfl, sending, rfl⟩) first

/-- With cancel pending and none to be voided, the order is cancelled at once (R126). -/
theorem cancelAfterAuth_ends {y : Order} (none : (y.voidFrom .authorized).anyTender .voiding = false) :
    (settledTo s l y id).cancelAfterAuth l = (settledTo s l (y.voidFrom .authorized) id).finishCancel l := by
  have order : ((settledTo s l (y.voidFrom .authorized) id).lane l).order = y.voidFrom .authorized := by rw [settledTo_lane]
  simp only [State.cancelAfterAuth, settledTo_order, order, none, Bool.false_eq_true, if_false]

/-- An approval that a lost line gives back (R116, R117). -/
theorem authEnded_lost {amount : Nat} {auth : BitVec 48} {j : TenderIx} (pending : (s.lane l).order.cancelPending = false)
    (sending : (s.lane l).term.sending = none) (lost : (s.lane l).order.lostSeats ≠ [])
    (first : ((authOrder (s.lane l).order i (.approved amount auth)).voidFrom .authorized).firstTender .voiding = some j) :
    (s.endExchange l).authEnded l i (.approved amount auth)
      = settledTo s l { (authOrder (s.lane l).order i (.approved amount auth)).voidFrom .authorized with state := .unwinding } fun t =>
          { t with cause := some .seatsLost, sending := some ⟨.void, (s.lane l).order.tag.getD 0, j, 0⟩ } := by
  have any : (authOrder (s.lane l).order i (.approved amount auth)).anyTender .authorized = true := by
    refine anyTender_of_first (firstTender_of_any (i := i) ?_)
    rw [authOrder_own]
    rfl
  have unwinds : (s.endExchange l).authEnded l i (.approved amount auth)
      = (authSettled s l i (.approved amount auth)).unwind l .seatsLost := by
    by_cases due : (authOrder (s.lane l).order i (.approved amount auth)).due = 0
    · have fails : ((authSettled s l i (.approved amount auth)).failingSeats l).isEmpty = false := by
        obtain ⟨r, hr⟩ := List.exists_mem_of_ne_nil _ lost
        obtain ⟨v, hv, -⟩ := List.mem_map.mp hr
        obtain ⟨hv, gone⟩ := List.mem_filter.mp hv
        rw [failingSeats_eq, authSettled_order, authOrder_lines, List.isEmpty_eq_false_iff]
        exact List.ne_nil_of_mem (List.mem_map_of_mem (List.mem_filter.mpr ⟨hv, by simp [gone]⟩))
      rw [authEnded_paid pending due]
      simp only [State.commit, fails, authSettled_order, any, Bool.false_eq_true, if_false, if_true]
    · by_cases other : ((s.lane l).order.tender i.other).state = .authorized
      · rw [authEnded_unwinds pending due other, if_neg (by simpa using lost)]
      · rw [authEnded_short pending due other]
        exact settleTo_unwinds (by rw [authOrder_lost]; exact lost) any
  rw [unwinds, authSettled, settledTo_unwind (g := id) (fun _ h => h) sending first]
  show settledTo s l _ (fun t => { t with cause := some .seatsLost, sending := some ⟨.void, Option.getD (authOrder _ i _).tag 0, j, 0⟩ }) = _
  rw [authOrder_tag]

/-- A tender refused (R113, R114). -/
theorem ofResult_declined {outcome : ResultOutcome} {approved : Nat} {auth : BitVec 48} {code : Code}
    (h : outcome = .declined ∧ code = .payDeclined ∨ outcome = .customerCancel ∧ code = .payCustomerCancel
      ∨ (outcome = .approved ∨ outcome = .partialAmount) ∧ approved = 0 ∧ code = .payDeclined) :
    AuthEnd.ofResult outcome approved auth = .declined code := by
  rcases h with ⟨rfl, rfl⟩ | ⟨rfl, rfl⟩ | ⟨rfl | rfl, rfl, rfl⟩ <;> rfl

theorem ofResult_approved {outcome : ResultOutcome} {approved : Nat} {auth : BitVec 48}
    (h : outcome = .approved ∨ outcome = .partialAmount) (some_ : 1 ≤ approved) :
    AuthEnd.ofResult outcome approved auth = .approved approved auth := by
  have zero : approved ≠ 0 := by omega
  rcases h with rfl | rfl <;> exact if_neg zero

end Auth

/-! ### The commands that end the exchange -/

section Commands

variable {s : State} {l : LaneIx} {x : Exchange} {c : Instr}

/-- A RESULT for the tender ends its AUTH exchange (R110). -/
theorem effects_result (live : Live s) (exchange : (s.lane l).term.exchange = some x) (kind : x.msg.kind = .auth)
    (line : (s.lane l).term.line = .awaiting) {outcome : ResultOutcome} {approved : Nat} {auth : BitVec 48}
    (ok : (TerminalRx.result x.msg.tag x.msg.index.number outcome approved auth).ok = true) {e : AuthEnd}
    (he : AuthEnd.ofResult outcome approved auth = e) {m : State} (h : (s.endExchange l).authEnded l x.msg.index e = m) :
    Effects (.resultReceived l x.msg.tag x.msg.index.number outcome approved auth) s m :=
  effects_of_eq rfl live ((rx_auth exchange kind line ok).trans (he ▸ h))

/-- An exchange in doubt ends by TERMINAL-ERROR or its deadline (R115). -/
theorem effects_doubt (live : Live s) (exchange : (s.lane l).term.exchange = some x) (kind : x.msg.kind = .auth)
    (line : (s.lane l).term.line = .awaiting) {cause : UnwindCause}
    (h : (∃ approved auth, c = .resultReceived l x.msg.tag x.msg.index.number .terminalError approved auth
          ∧ (TerminalRx.result x.msg.tag x.msg.index.number .terminalError approved auth).ok = true ∧ cause = .terminal)
      ∨ c = .authTimeout l ∧ x.deadline ≤ s.house.clock ∧ cause = .timeout)
    {m : State} (met : (s.endExchange l).authEnded l x.msg.index (.doubt cause) = m) : Effects c s m := by
  rcases h with ⟨approved, auth, rfl, ok, rfl⟩ | ⟨rfl, due, rfl⟩
  · exact effects_result live exchange kind line ok rfl met
  · refine effects_of_eq rfl live ?_
    show s.authTimedOut l = m
    simp only [State.authTimedOut, exchangeDue_reached exchange kind due]
    exact met

end Commands

theorem voidFrom_own {o : Order} {i : TenderIx} {st : TenderState} (h : (o.tender i).state = st) :
    ((o.voidFrom st).tender i).state = .voiding := by
  cases i <;> exact congrArg Tender.state (if_pos h)

theorem voidFrom_kept {o : Order} {i : TenderIx} {st : TenderState} (h : (o.tender i).state ≠ st) :
    (o.voidFrom st).tender i = o.tender i := by
  cases i <;> exact if_neg h

/-- With cancel pending, what a tender's exchange leaves to be voided is voided (R126). -/
theorem authEnded_pendingVoids {s : State} {l : LaneIx} {i j : TenderIx} {e : AuthEnd}
    (pending : (s.lane l).order.cancelPending = true) (sending : (s.lane l).term.sending = none) {y : Order}
    (hy : y = (authOrder (s.lane l).order i e).voidFrom .authorized) (first : y.firstTender .voiding = some j) :
    (s.endExchange l).authEnded l i e
      = settledTo s l { y with state := .unwinding } fun t =>
          { t with sending := some ⟨.void, (s.lane l).order.tag.getD 0, j, 0⟩ } := by
  subst hy
  rw [authEnded_cancelled pending, cancelAfterAuth_voids sending first, authOrder_tag]

theorem lostSeats_nil {o : Order} (kept : ∀ v ∈ o.seatLines, v.lost = false) : o.lostSeats = [] := by
  rw [Order.lostSeats, List.filter_eq_nil_iff.mpr fun v hv => by simp [kept v hv], List.map_nil]

/-- Every seat line HELD and none lost: the order commits with CAPTURE for its lowest tender (R117, R118). -/
theorem authEnded_captures {s : State} {l : LaneIx} {i : TenderIx} {amount : Nat} {auth : BitVec 48}
    (pending : (s.lane l).order.cancelPending = false)
    (due : (authOrder (s.lane l).order i (.approved amount auth)).due = 0)
    (held : ∀ v ∈ (s.lane l).order.seatLines, v.lost = false ∧ s.seat ((s.lane l).order.code.getD 0) v.seat = some (.held l))
    {y : Order} (hy : y = authOrder (s.lane l).order i (.approved amount auth)) {j : TenderIx}
    (first : y.firstTender .authorized = some j) :
    (s.endExchange l).authEnded l i (.approved amount auth)
      = settledTo s l { y.modTender j fun t => { t with state := .capturing } with state := .committing } fun t =>
          { t with sending := some ⟨.capture, (s.lane l).order.tag.getD 0, j, (y.tender j).approved.getD 0⟩ } := by
  subst hy
  have passes : ((authSettled s l i (.approved amount auth)).failingSeats l).isEmpty = true := by
    rw [failingSeats_eq, authSettled_order, authOrder_lines, List.isEmpty_iff, List.map_eq_nil_iff, List.filter_eq_nil_iff]
    intro v hv
    obtain ⟨kept, own⟩ := held v hv
    have code : (authOrder (s.lane l).order i (.approved amount auth)).code = (s.lane l).order.code := (modTender_fields _ i _).2.1
    have own' : (authSettled s l i (.approved amount auth)).seat ((s.lane l).order.code.getD 0) v.seat = some (.held l) := own
    simp [kept, code, own']
  have first' : ({ authOrder (s.lane l).order i (.approved amount auth) with state := .committing } : Order).firstTender .authorized
      = some j := first
  rw [authEnded_paid pending due]
  simp only [State.commit, passes, authSettled_order, anyTender_of_first first, if_true]
  rw [authSettled, settledTo_order, settledTo_capture first']
  have order : ({ authOrder (s.lane l).order i (.approved amount auth) with state := OrderState.committing } : Order).modTender j
      (fun t => { t with state := .capturing })
      = { (authOrder (s.lane l).order i (.approved amount auth)).modTender j fun t => { t with state := .capturing } with
          state := .committing } := by cases j <;> rfl
  rw [order]
  show settledTo s l _ (fun t => { t with sending := some ⟨.capture, Option.getD (authOrder _ i _).tag 0, j, _⟩ }) = _
  rw [authOrder_tag]
  cases j <;> rfl

/-- Settles O55: the exchange opened, what changes nothing, and the ends of an AUTH exchange. -/
theorem authExchange : Obligations.AuthExchange := by
  refine ⟨fun s l live => ⟨fun m sending => effects_of_eq rfl live ?_, fun bytes none => effects_of_eq rfl live ?_, rfl⟩,
    fun s l x o o1 i cap settled live ho exchange kind hi line sending pending kept runs hsettled =>
      ⟨fun tag index outcome approved auth other => effects_of_eq rfl live ?_, fun before => effects_of_eq rfl live ?_,
        fun outcome approved auth code ok how ho1 => ?_, fun outcome approved auth ok how some_ ho1 => ?_,
        fun c cause how other => ?_⟩,
    fun s l x o o1 i j c lost settled live ho exchange kind hi line sending other hlost hsettled =>
      ⟨fun outcome approved auth hc ok how some_ ho1 hj => ⟨fun pending gone => ?_, fun pending => ?_⟩,
        fun how pending ho1 hj => ?_, fun outcome approved auth code hc ok how ho1 => ⟨fun paid pending gone => ?_,
          fun paid pending => ?_, fun unpaid pending => ?_, fun cap o2 pending runs ho2 kept => ?_⟩⟩⟩
  · show s.openExchange l = _
    simp only [State.openExchange, sending]
    refine modLane_congr ?_
    cases m.kind <;> rfl
  · show s.terminalBytes l bytes = s
    simp only [State.terminalBytes, none, List.foldl_nil]
  · exact terminalRx_other exchange fun h => other.elim (fun ne => ne (Prod.mk.inj h).1) fun ne => ne (hi ▸ (Prod.mk.inj h).2)
  · show s.authTimedOut l = s
    simp only [State.authTimedOut, exchangeDue_before exchange before]
  all_goals subst ho hi
  all_goals have settled_ (y : Order) (g : Terminal → Terminal) : settled y g = settledTo s l y g := by rw [hsettled]; rfl
  · have refused : (s.endExchange l).authEnded l x.msg.index (.declined code)
        = ((settled o1 id).endWord l (.refused code (some (.number o1.due)) [])).afterStep l := by
      rw [authEnded_declined pending, authSettled,
        settleTo_kept runs (by rw [authOrder_lost]; exact lostSeats_nil kept), settled_, ho1]
      rfl
    rw [settled_] at refused ⊢
    refine settled_stepEnds (fun m h => effects_result live exchange kind line ok (ofResult_declined how) (refused.trans h))
      ?_ runs sending fun _ h => h
    rw [ho1]
    show (if _ then OrderState.short else .quoted) ∈ _
    split <;> simp
  · have effect {m : State} := effects_result (m := m) live exchange kind line ok (ofResult_approved how some_)
    have hy : o1 = authOrder (s.lane l).order x.msg.index (.approved approved auth) := ho1
    have none := lostSeats_nil kept
    refine ⟨fun due other => ?_, fun due other => effect ?_, fun j due held hj => effect ?_⟩
    · have refused : (s.endExchange l).authEnded l x.msg.index (.approved approved auth)
          = ((settled { o1 with state := .short } id).endWord l (.refused .payShort (some (.number o1.due)) [])).afterStep l := by
        rw [authEnded_short pending (hy ▸ due) other, authSettled, settleTo_kept runs (by rw [authOrder_lost]; exact none),
          settled_, hy]
      rw [settled_] at refused ⊢
      exact settled_stepEnds (fun m h => effect (refused.trans h)) (by simp) runs sending fun _ h => h
    · have one : o1.tender1.state = .authorized := by
        have own : (o1.tender x.msg.index).state = .authorized := by rw [hy, authOrder_own]; rfl
        have other' : (o1.tender x.msg.index.other).state = .authorized := by rw [hy, authOrder_other]; exact other
        cases h : x.msg.index <;> rw [h] at own other'
        · exact own
        · exact other'
      have first : (o1.voidFrom .authorized).firstTender .voiding = some .one := if_pos (voidFrom_own (i := .one) one)
      have tag_ : o1.tag = (s.lane l).order.tag := by rw [hy, authOrder_tag]
      rw [authEnded_unwinds pending (hy ▸ due) other, none, authSettled, ← hy,
        settledTo_unwind (g := id) (fun _ h => h) sending first, settled_, tag_]
      rfl
    · have first := firstTender_of_any (o := o1) (i := x.msg.index) (st := .authorized) (by rw [hy, authOrder_own]; rfl)
      rw [authEnded_captures pending (hy ▸ due) (fun v hv => ⟨kept v hv, held v hv⟩) hy first, settled_, hj]
  · refine effects_doubt live exchange kind line how ?_
    rw [authEnded_doubt pending sending other, settled_]
    rfl
  · subst hc hlost hj
    have first := firstTender_of_any (o := o1) (i := x.msg.index) (st := .voiding) (ho1 ▸ voidFrom_own (tender_modTender _ _ _ ▸ rfl))
    refine effects_result live exchange kind line ok (ofResult_approved how some_) ?_
    rw [authEnded_lost pending sending gone (ho1 ▸ first), settled_, ho1]
    rfl
  · subst hc hj
    have first := firstTender_of_any (o := o1) (i := x.msg.index) (st := .voiding) (ho1 ▸ voidFrom_own (tender_modTender _ _ _ ▸ rfl))
    refine effects_result live exchange kind line ok (ofResult_approved how some_) ?_
    rw [authEnded_pendingVoids pending sending ho1 first, settled_]
  · subst hj
    have first := firstTender_of_any (o := o1) (i := x.msg.index) (st := .voiding)
      (ho1 ▸ voidFrom_voiding (tender_modTender _ _ _ ▸ rfl))
    have met (cause : UnwindCause) := authEnded_pendingVoids (e := .doubt cause) pending sending ho1 first
    rcases how with ⟨approved, auth, rfl, ok⟩ | ⟨rfl, due⟩
    · exact effects_doubt live exchange kind line (.inl ⟨approved, auth, rfl, ok, rfl⟩) ((met .terminal).trans (settled_ _ _).symm)
    · exact effects_doubt live exchange kind line (.inr ⟨rfl, due, rfl⟩) ((met .timeout).trans (settled_ _ _).symm)
  all_goals
    subst hc
    have effect {m : State} := effects_result (m := m) live exchange kind line ok (ofResult_declined (auth := auth) how)
    have hy : o1 = authOrder (s.lane l).order x.msg.index (.declined code) := ho1
    have declined : (o1.tender x.msg.index).state = .declined := by rw [hy, authOrder_own]; rfl
    have others : o1.tender x.msg.index.other = (s.lane l).order.tender x.msg.index.other := by rw [hy, authOrder_other]
    have tag_ : o1.tag = (s.lane l).order.tag := by rw [hy, authOrder_tag]
    have own : (o1.voidFrom .authorized).tender x.msg.index = o1.tender x.msg.index := voidFrom_kept (by simp [declined])
    have kept_ : ((o1.voidFrom .authorized).tender x.msg.index).state ≠ .voiding := by simp [own, declined]
    have lost_ : lost = (s.lane l).order.lostSeats := hlost
    have lostSeats_ : o1.lostSeats = (s.lane l).order.lostSeats := by rw [hy, authOrder_lost]
  · have first := firstTender_other kept_ (voidFrom_own (others ▸ paid))
    refine effect ?_
    rw [authEnded_declined pending, authSettled, ← hy,
      settleTo_unwinds (by rw [lostSeats_, ← lost_]; exact gone) (anyTender_of_first (firstTender_other (by simp [declined]) (others ▸ paid))),
      settledTo_unwind (g := id) (fun _ h => h) sending first, settled_, tag_]
    rfl
  · have first := firstTender_other kept_ (voidFrom_own (others ▸ paid))
    refine effect ?_
    rw [authEnded_pendingVoids pending sending (y := o1.voidFrom .authorized) (by rw [hy]) first, settled_]
  · have others' : (o1.voidFrom .authorized).tender x.msg.index.other = o1.tender x.msg.index.other := voidFrom_kept (others ▸ unpaid)
    have none := anyTender_none kept_ (by rw [others', others]; exact other)
    have given := finishCancel_givenUp (settledTo s l (o1.voidFrom .authorized) id) l
    have lane := settledTo_lane s l (o1.voidFrom .authorized) id
    have block : ((settledTo s l (o1.voidFrom .authorized) id).lane l).block = (s.lane l).block := by rw [lane]
    obtain ⟨-, code_, lines_, vouchers_, -⟩ := modTender_fields (s.lane l).order x.msg.index fun t => { t with state := .declined }
    have order : ((settledTo s l (o1.voidFrom .authorized) id).lane l).order = o1.voidFrom .authorized := by rw [lane]
    refine ⟨_, _, effect ?_, given.order, given.attendance, given.renewal, by rw [given.term, lane]; rfl, by rw [given.term, lane]; rfl,
      given.emptied, given.block.trans block, given.quiet, fun idle => given.unwaited (block.trans idle),
      fun runs => given.cancel ((settledTo_block s l _ id).trans runs), fun b offset code here mode => given.strict b offset code (block.trans here) mode,
      ?_, fun a r named hr held => given.seats a r ?_ ?_ held⟩
    · rw [authEnded_cancelled pending, ← hy, cancelAfterAuth_ends none]
    · rw [given.vouchers, order, ← vouchers_, ho1]
      rfl
    · rw [order, ho1]
      exact code_.trans named
    · have live' : (o1.voidFrom .authorized).liveSeats = (s.lane l).order.liveSeats := by
        rw [ho1]
        exact congrArg (fun v => List.map SeatLine.seat (List.filter _ v)) lines_
      rw [order, live']
      exact hr
  · have lines_ : o1.seatLines = (s.lane l).order.seatLines := by rw [hy, authOrder_lines]
    by_cases gone : lost = []
    · have refused : (s.endExchange l).authEnded l x.msg.index (.declined code)
          = ((settled o2 id).endWord l (.refused code (some (.number o1.due)) lost)).afterStep l := by
        rw [authEnded_declined pending, authSettled, ← hy, settleTo_kept runs (by rw [lostSeats_, ← lost_, gone]), settled_, ho2, if_pos gone, gone]
        rfl
      rw [settled_] at refused ⊢
      refine settled_stepEnds (fun m h => effect (refused.trans h)) ?_ runs sending fun _ h => h
      rw [ho2, if_pos gone]
      show (if _ then OrderState.short else .quoted) ∈ _
      split <;> simp
    · have none := anyTender_none (o := o1) (i := x.msg.index) (st := .authorized) (by simp [declined])
        (by rw [others]; exact kept.resolve_left gone)
      have refused : (s.endExchange l).authEnded l x.msg.index (.declined code)
          = ((settled o2 id).endWord l (.refused code (some (.number o1.due)) lost)).afterStep l := by
        rw [authEnded_declined pending, authSettled, ← hy, settleTo_opens runs (by rw [lostSeats_, ← lost_]; exact gone) none, settled_,
          ho2, if_neg gone, lostSeats_, ← lost_, openedOrder, lines_]
      rw [settled_] at refused ⊢
      exact settled_stepEnds (fun m h => effect (refused.trans h)) (by simp [ho2, gone]) runs sending fun _ h => h

end Sys2Proof.Proofs.Authorizing
end

section
/-! PROOFS of O57, refuted: the pin deadline of a lane whose PICK runs. -/

namespace Sys2Proof.Proofs.Voiding

open Sys2Proof Sys2Proof.Machine Sys2Proof.Proofs.Inputs

/-- What closes a step leaves the lanes: an effect of a command has the lanes that the command computes. -/
theorem lanes_of_effects {c : Instr} {s m : State} {f : State → State} (h : exec c s = .next (s.acted f)) (live : Live s)
    (effect : Effects c s m) : m.lanes = (f s).lanes := by
  obtain ⟨t, completes, settled, -⟩ := effect
  obtain ⟨u, completes', settled', -⟩ := effects_of_eq h live (m := f s) rfl
  have same : settle s m = settle s (f s) := by
    rw [← settled, ← settled']
    exact Host.Outcome.next.inj (completes.symm.trans completes')
  rw [← settle_lanes s m, same, settle_lanes]

/-! ### The counterexample -/

/-- Screening 4102 with seat A1 HELD by lane 0 and seat A2 CLAIMING by it. -/
def heldAndClaimed : Screening :=
  ⟨4102, 60000, 900, 0, 0, [900, 1200, 0, 0], [⟨1000, true⟩, ⟨600, true⟩, ⟨0, false⟩, ⟨0, false⟩, ⟨0, false⟩, ⟨0, false⟩],
    [[⟨0, false⟩, ⟨0, false⟩]], [(⟨0, 1⟩, .held 0), (⟨0, 2⟩, .claiming 0)], .ready, .idle, none, none⟩

/-- Lane 0: an UNRESOLVED order with seat A1 whose pin deadline is 0, and a PICK of A2 that runs with its claim QUEUED. -/
def pickingUnresolved : Lane :=
  { Lane.reset with
    block := some ⟨⟨.request, 0, 4096, 16384, 32⟩, 3310, [.pick 4102 [⟨⟨0, 2⟩, 0⟩]], .running 0 .taken⟩
    order := { Order.blank with
      state := .unresolved, tag := some 3310, screening := some ⟨0, 4102⟩, seatLines := [⟨⟨0, 1⟩, 0, none, false⟩] }
    claim := ⟨.queued, some 3310, 0, 4102, [⟨⟨0, 2⟩, 0⟩], none, none⟩
    term := { Terminal.off with pinDeadline := some 0 } }

/-- A transmit queue that is full: the HOLD of lane 0's claim and thirty-one RELEASEs. -/
def fullQueue : Link :=
  { Link.reset with
    state := .active
    station := some 12
    queue := ⟨0, .hold 4102 180 [⟨0, 2⟩], .hold, some 0, some 3310, false, none⟩
      :: List.replicate 31 ⟨1, .release 4102 [⟨0, 3⟩], .release, none, none, false, none⟩
    nextId := 2 }

def stuck : State :=
  { State.reset with
    slots := [some heldAndClaimed]
    link := fullQueue
    lanes := ⟨pickingUnresolved, Lane.reset, Lane.reset, Lane.reset⟩ }

/-- At the pin deadline the RELEASE of A1 evicts the HOLD, which ends the PICK that runs. -/
theorem stuck_pinEnd : ((stuck.pinEnd 0).lane 0).block = none := by decide

/-- Refutes O57: at its pin deadline an UNRESOLVED order announces its seats in a RELEASE, which at a full queue evicts the HOLD of
the lane's own claim; the PICK is refused and its block is no longer in progress. (The statement speaks of every state; it names
neither the queue's room nor the lane's claim here.) -/
theorem not_voidExchange : ¬ Obligations.VoidExchange := by
  rintro ⟨pin, -⟩
  obtain ⟨-, ends⟩ := pin stuck 0 0 rfl rfl rfl
  obtain ⟨m, effect, -, -, -, -, block, -⟩ := ends (Nat.le_refl _)
  have lanes := lanes_of_effects rfl rfl effect
  have gone : (m.lane 0).block = none := (congrArg (fun x => (x.get 0).block) lanes).trans stuck_pinEnd
  exact absurd (block.symm.trans gone) (by decide)

end Sys2Proof.Proofs.Voiding
end

section
/-! PROOFS of O9, refuted: the drain latch with a CENSUS-CALL in the overflow slot. -/

namespace Sys2Proof.Proofs.Latching

open Sys2Proof Sys2Proof.Machine Sys2Proof.Proofs.Inputs Sys2Proof.Proofs.Voiding

/-- A step that does not end DRAINED raises no DRAINED report. -/
theorem settle_io {s m : State} (undrained : (settle s m).house.drain ≠ .drained) : (settle s m).io = m.io := by
  unfold settle State.testDrained at undrained ⊢
  split
  next drained =>
    rw [if_pos drained] at undrained
    exact absurd rfl undrained
  · rfl

/-! ### The counterexample -/

/-- Screening 4103, whose LOAD-SCREENING waits for its CENSUS-CALL to be sent. -/
def syncing : Screening :=
  ⟨4103, 60000, 900, 0, 0, [900, 1200, 0, 0], [⟨1000, true⟩, ⟨600, true⟩, ⟨0, false⟩, ⟨0, false⟩, ⟨0, false⟩, ⟨0, false⟩],
    [[⟨0, false⟩, ⟨0, false⟩]], [(⟨0, 1⟩, .free), (⟨0, 2⟩, .free)], .syncing, .calling, none, some ⟨.request, 1, 4128, 20480, 32⟩⟩

/-- The block of lane 0: a PICK of A2 that runs. -/
def pickBlock : Block := ⟨⟨.request, 0, 4096, 16384, 32⟩, 3310, [.pick 4102 [⟨⟨0, 2⟩, 0⟩]], .running 0 .taken⟩

/-- Lane 0: an OPEN order with seat A1, and a PICK of A2 that runs with its claim QUEUED. -/
def pickingOpen : Lane :=
  { pickingUnresolved with
    block := some pickBlock
    order := { pickingUnresolved.order with state := .opened }
    term := Terminal.off }

/-- A transmit queue that is full, with no CENSUS-CALL and no OBJECT in it, and a CENSUS-CALL in the overflow slot. -/
def overfull : Link := { fullQueue with overflow := some ⟨2, .censusCall 4103, .censusCall, none, none, false, none⟩ }

theorem overfull_plain {e : Entry} (he : e ∈ overfull.queue) :
    (∀ x, e.notice ≠ .censusCall x) ∧ ∀ x y z, e.notice ≠ .object x y z := by
  rcases List.mem_cons.mp he with rfl | releases
  · simp
  · obtain ⟨-, rfl⟩ := List.mem_replicate.mp releases
    simp

def overfilled : State :=
  { State.reset with
    slots := [some heldAndClaimed, some syncing]
    link := overfull
    lanes := ⟨pickingOpen, Lane.reset, Lane.reset, Lane.reset⟩
    io := ⟨{ Ring.reset with marks := [0, 1] }, HostMem.blank⟩ }

/-- The state after the supply warning. -/
def warned : State :=
  settle (overfilled.setSupply true) (overfilled.setSupply true).latchDrain

theorem warned_draining : warned.house.drain = .draining := by decide

/-- Both requests have been handed back: the RELEASE of A1 has evicted the CENSUS-CALL, which has completed its LOAD-SCREENING. -/
theorem warned_marks : warned.io.ring.marks = [] := by decide

/-- The hand-back of the PICK's own block alone leaves the mark of the LOAD-SCREENING. -/
theorem picked_marks (status : List Byte) : (overfilled.complete pickBlock.ref status).io.ring.marks = [1] := rfl

/-- Refutes O9: the HOLD of a claim leaves a queue that is full, a CENSUS-CALL of the overflow slot takes its place, and the RELEASE of
the order's seats evicts it, which completes a LOAD-SCREENING; the statement has the PICK's block alone handed back. (It speaks of
every state, and asks of the queue's entries alone that none is a CENSUS-CALL.) -/
theorem not_drainLatched : ¬ Obligations.DrainLatched := by
  rintro ⟨-, -, released⟩
  obtain ⟨m, ⟨t, completes, settled, -⟩, -, -, -, -, -, -, io⟩ :=
    released overfilled 0 pickBlock 0 4102 [⟨⟨0, 2⟩, 0⟩] pickingOpen.claim [⟨0, 2⟩] rfl rfl rfl rfl (by simp) (.inl rfl)
      (by decide) (by decide) (.inr rfl) rfl rfl rfl (by decide) (.inr fun _ => overfull_plain)
  have same : settle overfilled m = warned := by
    rw [← settled]
    exact (Host.Outcome.next.inj completes).symm
  have kept : m.io = warned.io := (settle_io (by rw [same, warned_draining]; simp)).symm.trans (by rw [same])
  have marks := congrArg (fun u : Io => u.ring.marks) (kept.symm.trans io)
  exact absurd ((warned_marks.symm.trans marks).trans (picked_marks _)) (by decide)

end Sys2Proof.Proofs.Latching
end

section
/-! PROOFS of O20: UNLOAD-SCREENING. -/

namespace Sys2Proof.Proofs.Unloading

open Sys2Proof Sys2Proof.Machine Sys2Proof.Proofs.Inputs Sys2Proof.Proofs.Requests Sys2Proof.Proofs.Words
open Sys2Proof.Proofs.LinkRules Sys2Proof.Proofs.SeatTimers

/-! ### A pass over the lanes -/

theorem foldl_fixed {f : State → LaneIx → State} {u : State} {ls : List LaneIx} (fixed : ∀ k ∈ ls, f u k = u) : ls.foldl f u = u := by
  induction ls with
  | nil => rfl
  | cons k ks ih =>
    rw [List.foldl_cons, fixed k List.mem_cons_self]
    exact ih fun j hj => fixed j (List.mem_cons_of_mem _ hj)

/-- A pass that acts at one lane alone. -/
theorem foldl_once {f : State → LaneIx → State} {s u : State} {l : LaneIx} {ls : List LaneIx} (nodup : ls.Nodup) (here : l ∈ ls)
    (acts : f s l = u) (before : ∀ k, k ≠ l → f s k = s) (after : ∀ k, k ≠ l → f u k = u) : ls.foldl f s = u := by
  induction ls with
  | nil => simp at here
  | cons k ks ih =>
    obtain ⟨fresh, nodup'⟩ := List.nodup_cons.mp nodup
    rw [List.foldl_cons]
    by_cases hk : k = l
    · subst hk
      rw [acts]
      exact foldl_fixed fun j hj => after j fun e => fresh (e ▸ hj)
    · rw [before k hk]
      exact ih nodup' ((List.mem_cons.mp here).resolve_left fun e => hk e.symm)

/-! ### A claim in flight of the screening -/

section Claims

variable {s : State} {code : Nat} {l : LaneIx}

/-- The lane's claim in flight, if any, is of another screening. -/
def Apart (s : State) (code : Nat) (l : LaneIx) : Prop :=
  (s.lane l).claim.state = .queued ∨ (s.lane l).claim.state = .contest → (s.lane l).claim.code ≠ code

theorem unloadClaim_apart (apart : Apart s code l) : s.unloadClaim code l = s := by
  unfold State.unloadClaim
  by_cases other : (s.lane l).claim.code ≠ code
  · exact if_pos other
  · have idle : ¬ ((s.lane l).claim.state = .queued ∨ (s.lane l).claim.state = .contest) := fun h => other (apart h)
    cases state : (s.lane l).claim.state <;> simp [state] at idle ⊢

theorem unloadQueued_apart (apart : Apart s code l) : s.unloadQueued code l = s := by
  unfold State.unloadQueued
  split
  · exact unloadClaim_apart apart
  · rfl

theorem unloadClaim_queued (named : (s.lane l).claim.code = code) (queued : (s.lane l).claim.state = .queued) :
    s.unloadClaim code l
      = (s.giveUpClaim l).endPick l (.refused .screeningUnloaded (seatsResidual (s.lane l).claim.seatRefs) []) := by
  simp [State.unloadClaim, named, queued]

theorem unloadClaim_contest (named : (s.lane l).claim.code = code) (contest : (s.lane l).claim.state = .contest) :
    s.unloadClaim code l
      = ((s.giveUpClaim l).offerRelease l (s.lane l).claim.tag code (s.lane l).claim.seatRefs).endPick l
          (.refused .screeningUnloaded (seatsResidual (s.lane l).claim.seatRefs) []) := by
  simp [State.unloadClaim, named, contest]

/-- A screening that is not loaded has no seats. -/
theorem mapSeats_unloaded (gone : s.screening code = none) (seats : List SeatRef) (f : SeatState → SeatState) :
    s.mapSeats code seats f = s := by
  have same : s.slots.map (fun o => o.map fun x =>
      if x.code = code then x.mapSeats (fun r st => if seats.contains r then f st else st) else x) = s.slots := by
    refine (List.map_congr_left fun o ho => ?_).trans (List.map_id _)
    cases o with
    | none => rfl
    | some x => exact congrArg some (if_neg (screening_none_iff.mp gone x ho))
  exact congrArg (fun slots => { s with slots := slots }) same

theorem freeScreening_unloaded (s : State) (code : Nat) : (s.freeScreening code).screening code = none := by
  rw [screening_none_iff]
  intro y hy
  obtain ⟨o, -, ho⟩ := List.mem_map.mp hy
  cases o with
  | none => simp at ho
  | some x =>
    obtain ⟨-, keep⟩ := Option.filter_eq_some_iff.mp ho
    simpa using keep

/-- A lane's claim of a screening that is gone ends with its record. -/
theorem clearedClaim (gone : s.screening (s.lane l).claim.code = none) :
    (s.freeClaim l).clearClaim l = s.modLane l fun y => { y with claim := Claim.blank } := by
  rw [State.freeClaim, mapSeats_unloaded gone]
  rfl

theorem giveUpClaim_off {e : Entry} (gone : s.screening (s.lane l).claim.code = none) (queued : (s.lane l).claim.state = .queued)
    (hold : s.link.holdOf l = some e) (off : s.link.onPair e.id = false) (owed : NothingOwed s.link) :
    s.giveUpClaim l = { s.modLane l fun y => { y with claim := Claim.blank } with link := s.link.without e.id } := by
  simp only [State.giveUpClaim, queued, hold, off, Bool.false_eq_true, if_false]
  rw [clearedClaim gone]
  exact removeEntry_without (s := s.modLane l _) owed off (List.mem_of_find?_eq_some hold)

theorem giveUpClaim_on {e : Entry} (queued : (s.lane l).claim.state = .queued) (hold : s.link.holdOf l = some e)
    (on : s.link.onPair e.id = true) :
    s.giveUpClaim l
      = { s.modLane l fun y => { y with claim := { (s.lane l).claim with state := .withdrawing } } with
          link := s.link.modEntry e.id fun y => { y with leaving := true, kept := none } } := by
  have same : (s.modLane l fun y => { y with claim := { y.claim with state := .withdrawing } })
      = s.modLane l fun y => { y with claim := { (s.lane l).claim with state := .withdrawing } } := modLane_congr rfl
  simp only [State.giveUpClaim, queued, hold, on, if_true]
  rw [same]
  exact if_pos on

end Claims

/-! ### The claim's PICK -/

/-- A claim's record and the link are as given, and its PICK is refused SCREENING/UNLOADED. -/
theorem endPick_unloaded {u : State} {l : LaneIx} {b : Block} {i a : Nat} {es : List ClaimSeat} {c : Claim} {k : Link}
    {residual : Option Residual} (block : (u.lane l).block = some b) (mode : b.mode = .running i .taken)
    (word : b.words[i]? = some (.pick a es)) :
    ({ u.modLane l fun y => { y with claim := c } with link := k } : State).endPick l (.refused .screeningUnloaded residual [])
      = ({ u with link := k }.modLane l fun y => { y with claim := c, block := none }).complete b.ref
          (Status.bytes ⟨.refused, some i, some .screeningUnloaded, residual, some (u.lane l).order.state,
            (u.lane l).order.currentTotal, []⟩) := by
  have lane : ({ u.modLane l fun y => { y with claim := c } with link := k } : State).lane l = { u.lane l with claim := c } :=
    State.lane_modLane_same u l fun y => { y with claim := c }
  have block' : (({ u.modLane l fun y => { y with claim := c } with link := k } : State).lane l).block = some b := by
    rw [lane]
    exact block
  rw [endPick_eq block' mode word, endWord_refused block' mode, lane]
  exact congrArg (fun v : State => v.complete b.ref _)
    (modLane_modLane { u with link := k } l (fun y => { y with claim := c }) fun y => { y with block := none })

/-- A lane whose claim has ended, the others' claims being apart. -/
theorem apart_ended {u : State} {l : LaneIx} {code : Nat} {c : Claim} {k : Link} {ref : RequestRef} {status : List Byte}
    (apart : ∀ k, k ≠ l → Apart u code k) (idle : ¬ (c.state = .queued ∨ c.state = .contest)) (j : LaneIx) :
    Apart (({ u with link := k }.modLane l fun y => { y with claim := c, block := none }).complete ref status) code j := by
  show ((u.modLane l fun y => { y with claim := c, block := none }).lane j).claim.state = .queued
      ∨ ((u.modLane l fun y => { y with claim := c, block := none }).lane j).claim.state = .contest →
    ((u.modLane l fun y => { y with claim := c, block := none }).lane j).claim.code ≠ code
  by_cases hj : j = l
  · subst hj
    rw [State.lane_modLane_same]
    exact fun inFlight => absurd inFlight idle
  · rw [lane_modLane_other (s := u) hj fun y => { y with claim := c, block := none }]
    exact apart j hj

/-! ### The screening taken out -/

theorem screening_code_eq {s : State} {code : Nat} {x : Screening} (h : s.screening code = some x) : x.code = code := by
  obtain ⟨o, -, ho⟩ := List.exists_of_findSome?_eq_some h
  simpa using (Option.filter_eq_some_iff.mp ho).2

theorem screeningInUse_iff {s : State} {code : Nat} :
    s.screeningInUse code = true ↔ ∃ l, (s.lane l).order.state ≠ .empty ∧ (s.lane l).order.code = some code := by
  simp only [State.screeningInUse, List.any_eq_true, Bool.and_eq_true, decide_eq_true_eq]
  exact ⟨fun ⟨l, _, h⟩ => ⟨l, h⟩, fun ⟨l, h⟩ => ⟨l, Requests.mem_laneOrder l, h⟩⟩

theorem takeUnload_applies {s : State} {t : TakenRequest} {code : Nat} {x : Screening} (read : readUnload t.block = some code)
    (loaded : s.screening code = some x) (ready : x.sync = .ready)
    (unused : ∀ l, (s.lane l).order.state ≠ .empty → (s.lane l).order.code ≠ some code) : s.takeUnload t = s.applyUnload t x := by
  have free : s.screeningInUse code = false := by
    rw [Bool.eq_false_iff]
    intro used
    obtain ⟨l, busy, named⟩ := screeningInUse_iff.mp used
    exact unused l busy named
  simp [State.takeUnload, read, loaded, ready, free]

theorem queuedPass_apart {v : State} {code : Nat} (apart : ∀ l, Apart v code l) :
    laneOrder.foldl (fun s l => s.unloadQueued code l) v = v :=
  foldl_fixed (f := fun s l => s.unloadQueued code l) fun k _ => unloadQueued_apart (apart k)

theorem claimPass_apart {v : State} {code : Nat} (apart : ∀ l, Apart v code l) :
    laneOrder.foldl (fun s l => s.unloadClaim code l) v = v :=
  foldl_fixed (f := fun s l => s.unloadClaim code l) fun k _ => unloadClaim_apart (apart k)

/-- With no claim in flight of the screening, its slot and its call alone are given up. -/
theorem applyUnload_apart {s v : State} {t : TakenRequest} {x : Screening} (called : (s.freeScreening x.code).removeCall x = v)
    (apart : ∀ l, Apart v x.code l) : s.applyUnload t x = v.complete t.ref (Status.plain .done).bytes := by
  simp only [State.applyUnload, called, queuedPass_apart apart, claimPass_apart apart]

/-- With one claim in flight of the screening, QUEUED, that claim ends in the first pass. -/
theorem applyUnload_queued {s v w : State} {t : TakenRequest} {x : Screening} {l : LaneIx}
    (called : (s.freeScreening x.code).removeCall x = v) (queued : (v.lane l).claim.state = .queued) (ended : v.unloadClaim x.code l = w)
    (others : ∀ k, k ≠ l → Apart v x.code k) (after : ∀ k, Apart w x.code k) :
    s.applyUnload t x = w.complete t.ref (Status.plain .done).bytes := by
  have first : laneOrder.foldl (fun s l => s.unloadQueued x.code l) v = w :=
    foldl_once (by decide) (Requests.mem_laneOrder l) ((if_pos queued).trans ended) (fun k hk => unloadQueued_apart (others k hk))
      fun k _ => unloadQueued_apart (after k)
  simp only [State.applyUnload, called, first, claimPass_apart after]

/-- With one claim in flight of the screening, in CONTEST, that claim ends in the second pass. -/
theorem applyUnload_contest {s v w : State} {t : TakenRequest} {x : Screening} {l : LaneIx}
    (called : (s.freeScreening x.code).removeCall x = v) (contest : (v.lane l).claim.state = .contest)
    (ended : v.unloadClaim x.code l = w) (others : ∀ k, k ≠ l → Apart v x.code k) (after : ∀ k, Apart w x.code k) :
    s.applyUnload t x = w.complete t.ref (Status.plain .done).bytes := by
  have first : laneOrder.foldl (fun s l => s.unloadQueued x.code l) v = v := by
    refine foldl_fixed fun k _ => ?_
    by_cases hk : k = l
    · subst hk
      exact if_neg (by simp [contest])
    · exact unloadQueued_apart (others k hk)
  have second : laneOrder.foldl (fun s l => s.unloadClaim x.code l) v = w :=
    foldl_once (by decide) (Requests.mem_laneOrder l) ended (fun k hk => unloadClaim_apart (others k hk)) fun k _ => unloadClaim_apart (after k)
  simp only [State.applyUnload, called, first, second]

/-- Settles O20: the refusals in order, the screening taken out, its census call removed, and its claim in flight ended. -/
theorem unloadScreening : Obligations.UnloadScreening := by
  refine ⟨fun s t live lock next => ?_, fun s u t code x live lock next read loaded ready unused owed hu => ?_⟩
  · have served := serve_owner next (.inl lock) State.takeUnload
    refine ⟨fun bad => effects_of_eq rfl live (served.trans ?_), fun code read => ⟨fun unknown => effects_of_eq rfl live (served.trans ?_),
      fun x loaded => ⟨fun sync => effects_of_eq rfl live (served.trans ?_), fun sync used => effects_of_eq rfl live (served.trans ?_),
        fun sync phase unused apart => effects_of_eq rfl live (served.trans ?_)⟩⟩⟩
    · simp [State.takeUnload, bad]
    · have unknown' : s.popTaken.screening code = none := unknown
      simp [State.takeUnload, read, unknown']
    · have loaded' : s.popTaken.screening code = some x := loaded
      simp [State.takeUnload, read, loaded', sync]
    · have loaded' : s.popTaken.screening code = some x := loaded
      have used' : s.popTaken.screeningInUse code = true := screeningInUse_iff.mpr used
      simp [State.takeUnload, read, loaded', sync, used']
    · have named := screening_code_eq loaded
      rw [takeUnload_applies (s := s.popTaken) read loaded sync unused]
      subst named
      exact applyUnload_apart (v := s.popTaken.freeScreening x.code) (if_neg phase) apart
  · have named := screening_code_eq loaded
    have served : s.serve .unloadScreening State.takeUnload = s.popTaken.applyUnload t x :=
      (serve_owner next (.inl lock) State.takeUnload).trans (takeUnload_applies (s := s.popTaken) read loaded ready unused)
    subst named
    have hu' : s.popTaken.freeScreening x.code = u := hu.symm
    have lane (k : LaneIx) : u.lane k = s.lane k := by rw [hu]; rfl
    have link : u.link = s.link := by rw [hu]; rfl
    have gone : u.screening x.code = none := hu' ▸ freeScreening_unloaded _ _
    refine ⟨fun e calling apart call => ?_, fun l b i a es refs ended phase own others block mode word hrefs some_ hended => ?_⟩
    · have removes : u.removeCall x = u.removeEntry e.id := by
        simp only [State.removeCall, calling, if_true, link, call]
      refine ⟨fun off => effects_of_eq rfl live (served.trans ?_), fun on => effects_of_eq rfl live (served.trans ?_)⟩
      · rw [applyUnload_apart (v := { u with link := s.link.without e.id }) ?_ fun k => ?_]
        · rw [hu', removes]
          have owed' : NothingOwed u.link := link ▸ owed
          have off' : u.link.onPair e.id = false := link ▸ off
          rw [removeEntry_without owed' off' (link ▸ List.mem_of_find?_eq_some call), State.modLink, link]
        · show Apart u x.code k
          unfold Apart
          rw [lane]
          exact apart k
      · rw [applyUnload_apart (v := { u with link := s.link.modEntry e.id fun y => { y with leaving := true, kept := none } }) ?_
          fun k => ?_]
        · rw [hu', removes]
          have on' : u.link.onPair e.id = true := link ▸ on
          rw [State.removeEntry, if_pos on', State.modLink, link]
        · show Apart u x.code k
          unfold Apart
          rw [lane]
          exact apart k
    · have called : (s.popTaken.freeScreening x.code).removeCall x = u := (if_neg phase).trans hu'
      have block' : (u.lane l).block = some b := by rw [lane]; exact block
      have own' : (u.lane l).claim.code = x.code := by rw [lane]; exact own
      have gone' : u.screening (u.lane l).claim.code = none := by rw [own']; exact gone
      have apart (k : LaneIx) (hk : k ≠ l) : Apart u x.code k := by
        unfold Apart
        rw [lane]
        exact others k hk
      have residual : seatsResidual (u.lane l).claim.seatRefs = some (.seats refs) := by
        rw [lane, hrefs]
        exact if_neg (by simpa [hrefs, Claim.seatRefs] using some_)
      have refused (c : Claim) (k : Link) := endPick_unloaded (c := c) (k := k) (residual := some (.seats refs)) block' mode word
      have ended_ (c : Claim) (k : Link) : ended c k = ((({ u with link := k } : State).modLane l fun y => { y with claim := c, block := none }).complete b.ref
          (Status.bytes ⟨.refused, some i, some .screeningUnloaded, some (.seats refs), some (u.lane l).order.state,
            (u.lane l).order.currentTotal, []⟩)).complete t.ref (Status.plain .done).bytes := by rw [hended, lane]
      refine ⟨fun e queued hold => ⟨fun off => effects_of_eq rfl live (served.trans ?_),
        fun on => effects_of_eq rfl live (served.trans ?_)⟩, fun contest queue => effects_of_eq rfl live (served.trans ?_)⟩
      · have queued' : (u.lane l).claim.state = .queued := by rw [lane]; exact queued
        rw [ended_]
        refine applyUnload_queued called queued' ?_ apart (apart_ended apart (by simp [Claim.blank]))
        rw [unloadClaim_queued own' queued', giveUpClaim_off gone' queued' (link ▸ hold) (link ▸ off) (link ▸ owed), residual, refused, link]
      · have queued' : (u.lane l).claim.state = .queued := by rw [lane]; exact queued
        rw [ended_]
        refine applyUnload_queued called queued' ?_ apart (apart_ended apart (by simp))
        rw [unloadClaim_queued own' queued', giveUpClaim_on queued' (link ▸ hold) (link ▸ on), residual, refused, link, lane]
      · have contest' : (u.lane l).claim.state = .contest := by rw [lane]; exact contest
        rw [ended_]
        refine applyUnload_contest called contest' ?_ apart (apart_ended apart (by simp [Claim.blank]))
        have some' : (u.lane l).claim.seatRefs.isEmpty = false := by
          rw [lane]
          simpa [hrefs, Claim.seatRefs] using some_
        have gives : u.giveUpClaim l = u.modLane l fun y => { y with claim := Claim.blank } := by
          simp only [State.giveUpClaim, contest']
          exact clearedClaim gone'
        have offers : (u.modLane l fun y => { y with claim := Claim.blank }).offerRelease l (u.lane l).claim.tag x.code (u.lane l).claim.seatRefs
            = { u.modLane l fun y => { y with claim := Claim.blank } with
                link := u.link.withEntry (.release x.code (planOrder refs)) .release (some l) (u.lane l).claim.tag } := by
          rw [State.offerRelease, if_neg (by simp [some']), offer_open (s := u.modLane l _) (link ▸ queue), lane, hrefs]
          rfl
        rw [unloadClaim_contest own' contest', gives, offers, residual, refused, link, lane]

end Sys2Proof.Proofs.Unloading
end

section
/-! PROOFS of O42: seats that a lane keeps against peer notices. With the rules, lane by lane, of what a notice meets there. -/

namespace Sys2Proof.Proofs.Standing

open Sys2Proof Sys2Proof.Machine Sys2Proof.Proofs.Inputs Sys2Proof.Proofs.Requests Sys2Proof.Proofs.Words
open Sys2Proof.Proofs.LinkRules Sys2Proof.Proofs.Received Sys2Proof.Proofs.Unloading

/-- No named seat is CLAIMING or HELD by the lane. -/
def LaneApart (s : State) (code : Nat) (seats : List SeatRef) (k : LaneIx) : Prop :=
  ∀ r ∈ seats, s.seat code r ≠ some (.claiming k) ∧ s.seat code r ≠ some (.held k)

section Rules

variable {s : State} {code : Nat} {seats : List SeatRef} {k : LaneIx}

theorem LaneApart.of_slots {u : State} (h : LaneApart s code seats k) (same : u.slots = s.slots) : LaneApart u code seats k := by
  intro r hr
  rw [seat_congr same]
  exact h r hr

theorem claimHit_unclaimed (h : ∀ r ∈ seats, s.seat code r ≠ some (.claiming k)) (st : ClaimState) :
    s.claimHit k st code seats = false := by
  rw [Bool.eq_false_iff]
  intro hit
  simp only [State.claimHit, Bool.and_eq_true, decide_eq_true_eq, Bool.not_eq_true', List.isEmpty_eq_false_iff_exists_mem] at hit
  obtain ⟨⟨-, rfl⟩, r, hr⟩ := hit
  obtain ⟨-, named⟩ := List.mem_filter.mp hr
  obtain ⟨named, claimed⟩ := Bool.and_eq_true_iff.mp named
  exact h r (by simpa using named) (seatClaimed_iff.mp claimed)

theorem claimHit_state {st : ClaimState} (h : (s.lane k).claim.state ≠ st) : s.claimHit k st code seats = false := by
  simp [State.claimHit, h]

theorem heldSeats_unheld (h : ∀ r ∈ seats, s.seat code r ≠ some (.held k)) : s.heldSeats k code seats = [] :=
  List.filter_eq_nil_iff.mpr fun r hr held => h r hr (seatHeld_iff.mp held)

theorem takeHeld_unheld (h : ∀ r ∈ seats, s.seat code r ≠ some (.held k)) (dest : SeatState) (lost double : ReportQual) :
    s.takeHeld k code seats dest lost double = s := by
  simp [State.takeHeld, heldSeats_unheld h]

/-- Seats that the lane neither holds nor claims in a contest are not objected for. -/
theorem standingSeats_unheld (held : ∀ r ∈ seats, s.seat code r ≠ some (.held k))
    (claimed : (s.lane k).claim.state = .contest → ∀ r ∈ seats, s.seat code r ≠ some (.claiming k)) :
    s.standingSeats k code seats = [] := by
  refine List.filter_eq_nil_iff.mpr fun r hr standing => ?_
  rcases Bool.or_eq_true_iff.mp standing with h | h
  · exact held r hr (seatHeld_iff.mp h)
  · obtain ⟨h, claims⟩ := Bool.and_eq_true_iff.mp h
    obtain ⟨contest, -⟩ := Bool.and_eq_true_iff.mp h
    exact claimed (by simpa using contest) r hr (seatClaimed_iff.mp claims)

theorem holdAgainst_apart (h : LaneApart s code seats k) (sender life : Nat) : s.holdAgainst sender code life seats k = s := by
  simp [State.holdAgainst, claimHit_unclaimed fun r hr => (h r hr).1,
    standingSeats_unheld (fun r hr => (h r hr).2) fun _ r hr => (h r hr).1]

theorem objectAgainst_apart (h : LaneApart s code seats k) (sender claimant : Nat) :
    s.objectAgainst sender code claimant seats k = s := by
  simp [State.objectAgainst, claimHit_unclaimed fun r hr => (h r hr).1, takeHeld_unheld fun r hr => (h r hr).2,
    standingSeats_unheld (fun r hr => (h r hr).2) fun _ r hr => (h r hr).1, State.conflict]

theorem divergence_apart (h : LaneApart s code seats k) : s.divergence code seats k = s := by
  have none : s.localSeats k code seats = [] := by
    refine List.filter_eq_nil_iff.mpr fun r hr mine => ?_
    rcases Bool.or_eq_true_iff.mp mine with held | claimed
    · exact (h r hr).2 (seatHeld_iff.mp held)
    · exact (h r hr).1 (seatClaimed_iff.mp claimed)
  simp [State.divergence, none]

/-- Seats that are not SOLD by this station are none that a PRINTING order has sold. -/
theorem printedSeats_unsold (h : ∀ r ∈ seats, s.seat code r ≠ some (.sold s.cfg.station)) : s.printedSeats k code seats = [] := by
  unfold State.printedSeats
  dsimp only
  split
  · refine List.filter_eq_nil_iff.mpr fun r hr sold => ?_
    exact h r hr (by simpa using (Bool.and_eq_true_iff.mp sold).2)
  · rfl

/-- Seats of no line of a PRINTING order of the lane are none that it has sold. -/
theorem printedSeats_unlined (h : (s.lane k).order.state = .printing → ∀ v ∈ (s.lane k).order.seatLines, v.seat ∉ seats) :
    s.printedSeats k code seats = [] := by
  unfold State.printedSeats
  dsimp only
  split
  next printing =>
    refine List.filter_eq_nil_iff.mpr fun r hr sold => ?_
    obtain ⟨v, hv, rfl⟩ := List.mem_map.mp (List.elem_iff.mp (Bool.and_eq_true_iff.mp sold).1)
    exact h printing.1 v (List.mem_filter.mp hv).1 hr
  · rfl

theorem saleMeetsOrder_apart (held : ∀ r ∈ seats, s.seat code r ≠ some (.held k)) (unprinted : s.printedSeats k code seats = [])
    (sender : Nat) : s.saleMeetsOrder sender code seats k = s := by
  simp [State.saleMeetsOrder, heldSeats_unheld held, unprinted, takeHeld_unheld held, State.conflict]

theorem saleAgainst_apart (h : LaneApart s code seats k) (unprinted : s.printedSeats k code seats = []) (sender : Nat) :
    s.saleAgainst sender code seats k = s := by
  simp only [State.saleAgainst, claimHit_unclaimed fun r hr => (h r hr).1, Bool.false_eq_true, if_false]
  exact saleMeetsOrder_apart (fun r hr => (h r hr).2) unprinted sender

end Rules

/-! ### Seats that stand -/

/-- Every named seat is HELD by the lane, or CLAIMING in its CONTEST claim. -/
def Stands (s : State) (l : LaneIx) (code : Nat) (seats : List SeatRef) : Prop := AllHeld s l code seats ∨ InContest s l code seats

section Stand

variable {s : State} {l : LaneIx} {code : Nat} {seats : List SeatRef}

theorem Stands.seat (h : Stands s l code seats) {r : SeatRef} (hr : r ∈ seats) :
    s.seat code r = some (.held l) ∨ s.seat code r = some (.claiming l) :=
  h.imp (fun held => held r hr) fun ⟨_, _, claims⟩ => claims r hr

theorem Stands.others (h : Stands s l code seats) {k : LaneIx} (hk : k ≠ l) : LaneApart s code seats k := fun r hr => by
  rcases h.seat hr with e | e <;> rw [e] <;> simp [Ne.symm hk]

theorem Stands.claimHit (h : Stands s l code seats) : s.claimHit l .queued code seats = false := by
  rcases h with held | ⟨contest, -, -⟩
  · exact claimHit_unclaimed (fun r hr => by rw [held r hr]; simp) _
  · exact claimHit_state (by simp [contest])

theorem Stands.standingSeats (h : Stands s l code seats) : s.standingSeats l code seats = seats := by
  refine List.filter_eq_self.mpr fun r hr => ?_
  rcases h with held | ⟨contest, named, claims⟩
  · simp [seatHeld_iff.mpr (held r hr)]
  · simp [contest, named, seatClaimed_iff.mpr (claims r hr)]

theorem Stands.localSeats (h : Stands s l code seats) : s.localSeats l code seats = seats := by
  refine List.filter_eq_self.mpr fun r hr => ?_
  rcases h.seat hr with e | e
  · simp [seatHeld_iff.mpr e]
  · simp [seatClaimed_iff.mpr e]

theorem AllHeld.heldSeats (h : AllHeld s l code seats) : s.heldSeats l code seats = seats :=
  List.filter_eq_self.mpr fun r hr => seatHeld_iff.mpr (h r hr)

theorem Stands.loaded (h : Stands s l code seats) (some_ : seats ≠ []) : s.isLoaded code = true := by
  obtain ⟨r, hr⟩ := List.exists_mem_of_ne_nil _ some_
  refine isLoaded_of_ne fun unloaded => ?_
  have absent : s.seat code r = none := by simp [State.seat, unloaded]
  rcases h.seat hr with e | e <;> simp [absent] at e

end Stand

theorem seatListOk_ne {seats : List SeatRef} (h : seatListOk seats = true) : seats ≠ [] := by
  rintro rfl
  exact absurd h (by decide)

/-- Seats that a notice leaves as they are, whatever it has made of the rest. -/
theorem seatsAlike_mapSeats {s u : State} (same : u.slots = s.slots) (code : Nat) {seats : List SeatRef} {f : SeatState → SeatState}
    (fixed : ∀ r ∈ seats, ∀ st, s.seat code r = some st → f st = st) : SeatsAlike s (u.mapSeats code seats f) := by
  refine ⟨?_, fun c r => ?_⟩
  · have kept := slotsKept_mapSeats u code seats f
    unfold SlotsKept at kept ⊢
    rw [kept, same]
  · rw [seat_mapSeats, seat_congr same]
    cases h : s.seat c r with
    | none => rfl
    | some st =>
      rw [Option.map_some]
      split
      next named =>
        obtain ⟨rfl, hr⟩ := named
        rw [fixed r hr st h]
      · rfl

/-- A notice that acts at one lane alone, on a state of the same slots. -/
theorem lanes_once {f : State → LaneIx → State} {s u : State} {l : LaneIx} (acts : f s l = u) (before : ∀ k, k ≠ l → f s k = s)
    (after : ∀ k, k ≠ l → f u k = u) : laneOrder.foldl f s = u := foldl_once (by decide) (Requests.mem_laneOrder l) acts before after

/-- Settles O42: one OBJECT, or one CONFLICT report, and the seats as they were. -/
theorem localSeatsDefended : Obligations.LocalSeatsDefended := by
  intro s l sender code seats tag rep live hears htag hrep
  have report (u : State) (q : ReportQual) (rs : List SeatRef) (lane : u.lane l = s.lane l) :
      u.seatReport .conflict q l code rs = rep q rs := by
    rw [hrep, htag, ← lane]
    rfl
  refine ⟨fun (stands : Stands s l code seats) => ⟨fun c life hc ok queue => ?_, fun c rs hc => ?_⟩, fun c q held committing hc => ?_,
    fun printing named sold others ok => ?_⟩
  · have some_ : seats ≠ [] := seatListOk_ne (Bool.and_eq_true_iff.mp ok).2
    have acts : s.holdAgainst sender code life seats l = s.modLink fun k => k.withEntry (.object code sender seats) .object (some l) tag := by
      simp only [State.holdAgainst, stands.claimHit, stands.standingSeats, Bool.false_eq_true, if_false]
      rw [if_neg (by simpa using some_), offer_open queue, htag]
      rfl
    have met : s.hold sender code life seats
        = (s.modLink fun k => k.withEntry (.object code sender seats) .object (some l) tag).mapSeats code seats
            (SeatState.hold sender (s.house.clock + life)) := by
      rw [State.hold, lanes_once (f := fun s l => s.holdAgainst sender code life seats l) acts
        (fun k hk => holdAgainst_apart (stands.others hk) sender life)
        fun k hk => holdAgainst_apart (LaneApart.of_slots (u := s.modLink _) (stands.others hk) rfl) sender life]
    refine ⟨_, ?_, seatsAlike_mapSeats (u := s.modLink fun k => k.withEntry (.object code sender seats) .object (some l) tag) rfl code (seats := seats)
      (f := SeatState.hold sender (s.house.clock + life)) (fun r hr st h => ?_), rfl⟩
    · rcases hc with rfl | rfl
      · exact effects_kept rfl live hears ok ((if_pos (stands.loaded some_)).trans met)
      · exact effects_kept rfl live hears ok ((if_pos (stands.loaded some_)).trans met)
    · rcases stands.seat hr with e | e <;> cases h.symm.trans e <;> rfl
  · rcases hc with ⟨claimant, rfl, ok, rfl, other⟩ | ⟨sect, owner, life, rfl, ok, other, hrs⟩
    · have some_ : seats ≠ [] := seatListOk_ne (Bool.and_eq_true_iff.mp ok).2
      have acts : s.objectAgainst sender code claimant seats l = s.raise (rep .holdDivergence (planOrder seats)) := by
        simp only [State.objectAgainst, stands.claimHit, other, Bool.false_eq_true, if_false, stands.standingSeats, State.conflict,
          report s _ _ rfl]
        exact if_neg (by simpa using some_)
      have met : s.object sender code claimant seats = (s.raise (rep .holdDivergence (planOrder seats))).mapSeats code seats
          (SeatState.object sender (s.house.clock + s.cfg.holdLifetime)) := by
        rw [State.object, lanes_once (f := fun s l => s.objectAgainst sender code claimant seats l) acts
          (fun k hk => objectAgainst_apart (stands.others hk) sender claimant)
          fun k hk => objectAgainst_apart (LaneApart.of_slots (u := s.raise _) (stands.others hk) rfl) sender claimant]
      refine ⟨_, effects_kept rfl live hears ok ((if_pos (stands.loaded some_)).trans met),
        seatsAlike_mapSeats rfl code fun r hr st h => ?_, rfl⟩
      rcases stands.seat hr with e | e <;> cases h.symm.trans e <;> rfl
    · rw [hrs]
      have some_ : seats ≠ [] := by
        cases sect
        · exact seatListOk_ne (Bool.and_eq_true_iff.mp ok).2
        · exact seatListOk_ne (Bool.and_eq_true_iff.mp ok).2
      have acts : s.divergence code seats l = s.raise (rep .holdDivergence seats) := by
        simp only [State.divergence, stands.localSeats, report s _ _ rfl]
        exact if_neg (by simpa using some_)
      have pass := lanes_once (f := fun s l => s.divergence code seats l) acts
          (fun k hk => divergence_apart (stands.others hk))
          fun k hk => divergence_apart (LaneApart.of_slots (u := s.raise _) (stands.others hk) rfl)
      cases sect with
      | held =>
        have met : s.censusReply code .held owner life seats
            = (s.raise (rep .holdDivergence seats)).mapSeats code seats (SeatState.censusHeld owner s.house.clock life) := by
          refine (if_neg (other.resolve_left (by simp))).trans ?_
          rw [pass]
        refine ⟨_, effects_kept rfl live hears ok ((if_pos (stands.loaded some_)).trans met),
          seatsAlike_mapSeats rfl code fun r hr st h => ?_, rfl⟩
        rcases stands.seat hr with e | e <;> cases h.symm.trans e <;> rfl
      | sold =>
        have met : s.censusReply code .sold owner life seats
            = (s.raise (rep .holdDivergence seats)).mapSeats code seats (SeatState.sale owner) := by
          rw [State.censusReply, pass]
        refine ⟨_, effects_kept rfl live hears ok ((if_pos (stands.loaded some_)).trans met),
          seatsAlike_mapSeats rfl code fun r hr st h => ?_, rfl⟩
        rcases stands.seat hr with e | e <;> cases h.symm.trans e <;> rfl
  · have stands : Stands s l code seats := .inl held
    have unclaimed : ∀ st, s.claimHit l st code seats = false := claimHit_unclaimed fun r hr => by rw [held r hr]; simp
    have unsold : ∀ k, s.printedSeats k code seats = [] := fun k => printedSeats_unsold fun r hr => by rw [held r hr]; simp
    have takes (some_ : seats ≠ []) (dest : SeatState) (lost : ReportQual) :
        s.takeHeld l code seats dest lost q = s.raise (rep q (planOrder seats)) := by
      have full : seats.isEmpty = false := by simpa using some_
      simp only [State.takeHeld, AllHeld.heldSeats held, full, committing, State.conflict, report s _ _ rfl, Bool.false_eq_true, if_false,
        if_true]
    rcases hc with ⟨rfl, ok, rfl⟩ | ⟨claimant, rfl, ok, own, rfl⟩
    · have some_ : seats ≠ [] := seatListOk_ne (Bool.and_eq_true_iff.mp ok).2
      have acts : s.saleAgainst sender code seats l = s.raise (rep .doubleSale (planOrder seats)) := by
        have full : seats.isEmpty = false := by simpa using some_
        simp only [State.saleAgainst, unclaimed, Bool.false_eq_true, if_false, State.saleMeetsOrder, AllHeld.heldSeats held, unsold,
          List.append_nil, State.conflict, full, report s _ _ rfl, takes some_, ite_self]
      have met : s.peerSale sender code seats
          = (s.raise (rep .doubleSale (planOrder seats))).mapSeats code seats (SeatState.sale sender) := by
        rw [State.peerSale, lanes_once (f := fun s l => s.saleAgainst sender code seats l) acts
          (fun k hk => saleAgainst_apart (stands.others hk) (unsold k) sender)
          fun k hk => saleAgainst_apart (LaneApart.of_slots (u := s.raise _) (stands.others hk) rfl) (unsold k) sender]
      refine ⟨_, effects_kept rfl live hears ok ((if_pos (stands.loaded some_)).trans met),
        seatsAlike_mapSeats rfl code fun r hr st h => ?_, rfl⟩
      cases h.symm.trans (held r hr)
      rfl
    · have some_ : seats ≠ [] := seatListOk_ne (Bool.and_eq_true_iff.mp ok).2
      have acts : s.objectAgainst sender code claimant seats l = s.raise (rep .doubleClaim (planOrder seats)) := by
        simp only [State.objectAgainst, unclaimed, own, Bool.false_eq_true, if_false, if_true, takes some_]
      have met : s.object sender code claimant seats = (s.raise (rep .doubleClaim (planOrder seats))).mapSeats code seats
          (SeatState.object sender (s.house.clock + s.cfg.holdLifetime)) := by
        rw [State.object, lanes_once (f := fun s l => s.objectAgainst sender code claimant seats l) acts
          (fun k hk => objectAgainst_apart (stands.others hk) sender claimant)
          fun k hk => objectAgainst_apart (LaneApart.of_slots (u := s.raise _) (stands.others hk) rfl) sender claimant]
      refine ⟨_, effects_kept rfl live hears ok ((if_pos (stands.loaded some_)).trans met),
        seatsAlike_mapSeats rfl code fun r hr st h => ?_, rfl⟩
      cases h.symm.trans (held r hr)
      rfl
  · have some_ : seats ≠ [] := seatListOk_ne (Bool.and_eq_true_iff.mp ok).2
    have apart (k : LaneIx) : LaneApart s code seats k := fun r hr => by rw [(sold r hr).2]; simp
    have loaded : s.isLoaded code = true := by
      obtain ⟨r, hr⟩ := List.exists_mem_of_ne_nil _ some_
      refine isLoaded_of_ne fun unloaded => ?_
      have absent : s.seat code r = none := by simp [State.seat, unloaded]
      cases absent.symm.trans (sold r hr).2
    have printed : s.printedSeats l code seats = seats := by
      simp only [State.printedSeats, printing, named, and_self, if_true]
      refine List.filter_eq_self.mpr fun r hr => ?_
      obtain ⟨live', here⟩ := sold r hr
      simp [live', here]
    have unprinted (k : LaneIx) (hk : k ≠ l) : s.printedSeats k code seats = [] := printedSeats_unlined (others k hk)
    have acts : s.saleAgainst sender code seats l = s.raise (rep .doubleSale (planOrder seats)) := by
      have full : seats.isEmpty = false := by simpa using some_
      simp only [State.saleAgainst, claimHit_unclaimed fun r hr => (apart l r hr).1, heldSeats_unheld fun r hr => (apart l r hr).2,
        Bool.false_eq_true, if_false, State.saleMeetsOrder, printing, if_true, printed, List.nil_append, State.conflict, full,
        report s _ _ rfl]
    have met : s.peerSale sender code seats
        = (s.raise (rep .doubleSale (planOrder seats))).mapSeats code seats (SeatState.sale sender) := by
      rw [State.peerSale, lanes_once (f := fun s l => s.saleAgainst sender code seats l) acts
        (fun k hk => saleAgainst_apart (apart k) (unprinted k hk) sender)
        fun k hk => saleAgainst_apart (LaneApart.of_slots (u := s.raise _) (apart k) rfl) (unprinted k hk) sender]
    refine ⟨_, effects_kept rfl live hears ok ((if_pos loaded).trans met), seatsAlike_mapSeats rfl code fun r hr st h => ?_, rfl⟩
    cases h.symm.trans (sold r hr).2
    rfl

end Sys2Proof.Proofs.Standing
end

section
/-! PROOFS of O43, refuted: a SALE of a HELD seat that a PRINTING order of another lane names too. -/

namespace Sys2Proof.Proofs.Losing

open Sys2Proof Sys2Proof.Machine Sys2Proof.Proofs.Inputs Sys2Proof.Proofs.Latching

/-! ### The counterexample -/

/-- Screening 4102 with seat A1 HELD by lane 0. -/
def heldScreening : Screening :=
  ⟨4102, 60000, 900, 0, 0, [900, 1200, 0, 0], [⟨1000, true⟩, ⟨600, true⟩, ⟨0, false⟩, ⟨0, false⟩, ⟨0, false⟩, ⟨0, false⟩],
    [[⟨0, false⟩, ⟨0, false⟩]], [(⟨0, 1⟩, .held 0), (⟨0, 2⟩, .free)], .ready, .idle, none, none⟩

/-- A lane whose order, in a state, has seat A1. -/
def ordering (st : OrderState) : Lane :=
  { Lane.reset with
    order := { Order.blank with
      state := st, tag := some 3310, screening := some ⟨0, 4102⟩, seatLines := [⟨⟨0, 1⟩, 0, none, false⟩] } }

/-- Lane 0 is OPEN with seat A1, which it holds, and lane 1 is PRINTING with the same seat; the setup record names station 9 and the
link hears it as another station. -/
def shared : State :=
  { State.reset with
    house := ⟨some { SetupRecord.unset with station := 9 }, true, 0, true, .clear⟩
    slots := [some heldScreening]
    link := { Link.reset with state := .active, station := some 12 }
    lanes := ⟨ordering .opened, ordering .printing, Lane.reset, Lane.reset⟩ }

def sale : Notice := .sale 4102 [⟨0, 1⟩]

/-- The state after station 9's SALE of A1. -/
def sold : State := settle shared (shared.receive 9 (some sale))

theorem sold_clear : sold.house.drain = .clear := by decide

/-- The SALE is reported twice: A1 is lost to lane 0, and then it is a seat that lane 1 has sold and prints. -/
theorem sold_reports : sold.io.ring.waiting.map Report.kind = [.seatLost, .conflict] := by decide

/-- Refutes O43: the SALE of a HELD seat raises a CONFLICT report after its SEAT-LOST report, where a PRINTING order of another lane
names the seat and the station in the setup record is the sender. (The statement speaks of every state; that no other order names
the seat, and that the link's station is the setup record's, are not among its hypotheses here.) -/
theorem not_seatsLostToPeers : ¬ Obligations.SeatsLostToPeers := by
  intro lost
  obtain ⟨-, held⟩ := lost shared 0 9 4102 0 0 [⟨0, 1⟩] (.saleReceived 9 4102 [⟨0, 1⟩]) (.sold 9) rfl
    ⟨by decide, by decide, by decide, by decide, by decide⟩ (.inr (.inr ⟨rfl, by decide, rfl⟩))
  obtain ⟨m, ⟨t, completes, settled, -⟩, -, -, io, -⟩ :=
    held .peerSale 3310 (by unfold AllHeld; decide) rfl (.inl ⟨rfl, rfl⟩) (by decide)
  have same : settle shared m = sold := by
    rw [← settled]
    exact (Host.Outcome.next.inj completes).symm
  have kept : m.io = sold.io := (settle_io (by rw [same, sold_clear]; simp)).symm.trans (by rw [same])
  have reports := congrArg (fun u : Io => u.ring.waiting.map Report.kind) (kept.symm.trans io)
  exact absurd (sold_reports.symm.trans reports) (by decide)

end Sys2Proof.Proofs.Losing
end

section
/-! PROOFS of O45: voucher notices, the voucher table, and what is issued and reissued. -/

namespace Sys2Proof.Proofs.Vouchers

open Sys2Proof Sys2Proof.Machine Sys2Proof.Proofs.Inputs Sys2Proof.Proofs.Requests Sys2Proof.Proofs.Words
open Sys2Proof.Proofs.LinkRules Sys2Proof.Proofs.Received

/-! ### The record of a code (R142) -/

theorem lastIdx?_none {α : Type} {p : α → Bool} {xs : List α} (h : ∀ x ∈ xs, p x = false) : lastIdx? p xs = none := by
  have absent : xs.reverse.findIdx? p = none := List.findIdx?_eq_none_iff.mpr fun x hx => h x (List.mem_reverse.mp hx)
  simp [lastIdx?, absent]

/-- The last place at which a test holds. -/
theorem lastIdx?_split {α : Type} {p : α → Bool} {older newer : List α} {x : α} (here : p x = true) (last : ∀ y ∈ newer, p y = false) :
    lastIdx? p (older ++ x :: newer) = some older.length := by
  have found : (older ++ x :: newer).reverse.findIdx? p = some newer.length := by
    rw [List.reverse_append, List.reverse_cons, List.append_assoc, List.findIdx?_append]
    have absent : newer.reverse.findIdx? p = none := List.findIdx?_eq_none_iff.mpr fun y hy => last y (List.mem_reverse.mp hy)
    simp [absent, List.findIdx?_cons, here]
  simp only [lastIdx?, found, List.length_append, List.length_cons]
  congr 1
  omega

theorem modify_split {α : Type} (older : List α) (x : α) (newer : List α) (f : α → α) :
    (older ++ x :: newer).modify older.length f = older ++ f x :: newer := by
  induction older with
  | nil => rfl
  | cons y ys ih => exact congrArg (y :: ·) ih

theorem modify_set {α : Type} {xs : List α} {i : Nat} {x : α} (h : xs[i]? = some x) (f : α → α) : xs.modify i f = xs.set i (f x) := by
  obtain ⟨hi, hx⟩ := List.getElem?_eq_some_iff.mp h
  refine List.ext_getElem? fun j => ?_
  rw [List.getElem?_modify, List.getElem?_set]
  by_cases hj : i = j
  · subst hj
    simp [hi, hx]
  · simp [hj]

section Table

variable {s : State} {v : VCode} {older newer : List VoucherRecord} {r : VoucherRecord}

theorem record_none (h : ∀ r ∈ s.vouchers.table, r.code ≠ v) : s.record v = none := by
  have absent : recordIndex s.vouchers.table v = none := lastIdx?_none fun r hr => by simpa using h r hr
  simp [State.record, absent]

theorem recordIndex_split (table : s.vouchers.table = older ++ r :: newer) (code : r.code = v) (last : ∀ w ∈ newer, w.code ≠ v) :
    recordIndex s.vouchers.table v = some older.length := by
  rw [table]
  exact lastIdx?_split (by simp [code]) fun w hw => by simpa using last w hw

theorem record_split (table : s.vouchers.table = older ++ r :: newer) (code : r.code = v) (last : ∀ w ∈ newer, w.code ≠ v) :
    s.record v = some r := by
  rw [State.record, recordIndex_split table code last, Option.bind_some, table]
  simp

theorem modRecord_split (table : s.vouchers.table = older ++ r :: newer) (code : r.code = v) (last : ∀ w ∈ newer, w.code ≠ v)
    (f : VoucherRecord → VoucherRecord) :
    s.modRecord v f = { s with vouchers := { s.vouchers with table := older ++ f r :: newer } } := by
  have modified : s.vouchers.table.modify older.length f = older ++ f r :: newer := by
    rw [table]
    exact modify_split older r newer f
  simp only [State.modRecord, recordIndex_split table code last, State.modRecordAt, modified]

end Table

/-! ### Issue and reissue -/

theorem nextSerial_eq (n : Nat) : nextSerial Config.lastVoucherSerial n = if 1048575 ≤ n then 1 else n + 1 := rfl

theorem enterRecord_room {s : State} (l : LaneIx) {r : VoucherRecord} (room : s.vouchers.table.length < 1024) :
    s.enterRecord l r = { s with vouchers := { s.vouchers with table := s.vouchers.table ++ [r] } } := if_pos room

theorem enterRecord_full {s : State} (l : LaneIx) {r : VoucherRecord} {t : List VoucherRecord} (full : 1024 ≤ s.vouchers.table.length)
    (evicted : evictRecord s.house.clock s.vouchers.table = some t) :
    s.enterRecord l r = { s with vouchers := { s.vouchers with table := t ++ [r] } } := by
  refine (if_neg (Nat.not_lt.mpr full)).trans ?_
  simp only [evicted]

/-- The first record that passes a test leaves. -/
theorem findIdx?_split {p : VoucherRecord → Bool} {older newer : List VoucherRecord} {r : VoucherRecord} (here : p r = true)
    (first : ∀ y ∈ older, p y = false) :
    (older ++ r :: newer).findIdx? p = some older.length ∧ (older ++ r :: newer).eraseIdx older.length = older ++ newer := by
  have absent : older.findIdx? p = none := List.findIdx?_eq_none_iff.mpr first
  refine ⟨by simp [List.findIdx?_append, absent, List.findIdx?_cons, here], ?_⟩
  rw [List.eraseIdx_append_of_length_le (Nat.le_refl _)]
  simp

theorem evictRecord_over {clock : Nat} {older newer : List VoucherRecord} {r : VoucherRecord} (ended : r.status ≠ .issued)
    (first : ∀ y ∈ older, y.status = .issued) : evictRecord clock (older ++ r :: newer) = some (older ++ newer) := by
  obtain ⟨found, erased⟩ := findIdx?_split (p := VoucherRecord.over) (older := older) (newer := newer) (r := r) (by simp [VoucherRecord.over, ended])
    fun y hy => by simp [VoucherRecord.over, first y hy]
  simp only [evictRecord, found, erased]

theorem notOver_none {table : List VoucherRecord} (issued : ∀ y ∈ table, y.status = .issued) :
    table.findIdx? VoucherRecord.over = none :=
  List.findIdx?_eq_none_iff.mpr fun y hy => by simp [VoucherRecord.over, issued y hy]

theorem evictRecord_expired {clock : Nat} {older newer : List VoucherRecord} {r : VoucherRecord}
    (issued : ∀ y ∈ older ++ r :: newer, y.status = .issued) (expired : r.expiry ≤ clock) (first : ∀ y ∈ older, clock < y.expiry) :
    evictRecord clock (older ++ r :: newer) = some (older ++ newer) := by
  obtain ⟨found, erased⟩ := findIdx?_split (p := fun y => decide (y.expiry ≤ clock)) (older := older) (newer := newer) (r := r) (by simp [expired])
    fun y hy => by simp [first y hy]
  simp only [evictRecord, notOver_none issued, found, erased]

theorem evictRecord_none {clock : Nat} {table : List VoucherRecord} (issued : ∀ y ∈ table, y.status = .issued)
    (unexpired : ∀ y ∈ table, clock < y.expiry) : evictRecord clock table = none := by
  have none_ : table.findIdx? (fun y => decide (y.expiry ≤ clock)) = none :=
    List.findIdx?_eq_none_iff.mpr fun y hy => by simp [unexpired y hy]
  simp only [evictRecord, notOver_none issued, none_]

/-- A record entered leaves the serial counter and the setup record. -/
theorem enterRecord_serial (s : State) (l : LaneIx) (r : VoucherRecord) :
    (s.enterRecord l r).vouchers.serial = s.vouchers.serial ∧ (s.enterRecord l r).cfg = s.cfg := by
  unfold State.enterRecord
  split
  · exact ⟨rfl, rfl⟩
  · split <;> exact ⟨rfl, rfl⟩

/-- The state once a serial is drawn and one voucher of the item moved from reserved to issued (R135, R136). -/
def counted (s : State) (item : Nat) : State :=
  { s with
    vouchers :=
      { s.vouchers with
        serial := if 1048575 ≤ s.vouchers.serial then 1 else s.vouchers.serial + 1
        catalog :=
          s.vouchers.catalog.map fun (i : CatalogItem) =>
            if i.code = item then { i with reserved := i.reserved - 1, issued := i.issued + 1 } else i } }

theorem issueLine_eq (s : State) (l : LaneIx) (v : VoucherLine) :
    s.issueLine l v
      = ({ v with code := some ⟨s.cfg.station, s.vouchers.serial⟩ },
        (counted s v.item).enterRecord l
          ⟨⟨s.cfg.station, s.vouchers.serial⟩, v.item, (s.lane l).order.code, s.voucherExpiry l,
            statusAt s.house.clock (s.voucherExpiry l), false, none⟩) := rfl

theorem issueLine_serial (s : State) (l : LaneIx) (v : VoucherLine) :
    (s.issueLine l v).1 = { v with code := some ⟨s.cfg.station, s.vouchers.serial⟩ }
      ∧ (s.issueLine l v).2.vouchers.serial = nextSerial Config.lastVoucherSerial s.vouchers.serial
      ∧ (s.issueLine l v).2.cfg = s.cfg := by
  rw [issueLine_eq]
  exact ⟨rfl, enterRecord_serial (counted s v.item) l _⟩

/-- Lines without a code take serials in line order, and one with a code keeps it (R135, R136). -/
theorem issueLines_code (l : LaneIx) : ∀ (vs : List VoucherLine) (s : State) (k : Nat) (w : VoucherLine), vs[k]? = some w →
    s.vouchers.serial + vs.length ≤ 1048576 →
      (s.issueLines l vs).1[k]?
        = some { w with
            code := w.code.or (some ⟨s.cfg.station, s.vouchers.serial + (vs.take k).countP fun x => x.code = none⟩) } := by
  intro vs
  induction vs with
  | nil => intro s k w h; simp at h
  | cons v vs ih =>
    intro s k w h range
    have length : (v :: vs).length = vs.length + 1 := rfl
    cases code : v.code with
    | none =>
      obtain ⟨line, serial, cfg⟩ := issueLine_serial s l v
      have lines : s.issueLines l (v :: vs) = ((s.issueLine l v).1 :: ((s.issueLine l v).2.issueLines l vs).1,
          ((s.issueLine l v).2.issueLines l vs).2) := by
        simp only [State.issueLines, code, Option.isNone_none, if_true]
      rw [lines, line]
      cases k with
      | zero =>
        cases h
        simp [code]
      | succ k =>
        have short : ∃ n, vs.length = n + 1 := by
          cases vs with
          | nil => simp at h
          | cons => exact ⟨_, rfl⟩
        obtain ⟨n, hn⟩ := short
        have next : (s.issueLine l v).2.vouchers.serial = s.vouchers.serial + 1 := by
          rw [serial, nextSerial_eq, if_neg (by omega)]
        have rest := ih (s.issueLine l v).2 k w h (by omega)
        rw [List.getElem?_cons_succ, rest, next, cfg, List.take_succ_cons, List.countP_cons_of_pos (by simp [code])]
        have count : s.vouchers.serial + 1 + (vs.take k).countP (fun x => decide (x.code = none))
            = s.vouchers.serial + ((vs.take k).countP (fun x => decide (x.code = none)) + 1) := by omega
        rw [count]
    | some c =>
      have lines : s.issueLines l (v :: vs) = (v :: (s.issueLines l vs).1, (s.issueLines l vs).2) := by
        simp only [State.issueLines, code, Option.isNone_some, Bool.false_eq_true, if_false]
      rw [lines]
      cases k with
      | zero =>
        cases h
        have same : { v with code := v.code.or (some ⟨s.cfg.station, s.vouchers.serial + ([] : List VoucherLine).countP fun x => x.code = none⟩) }
            = v := by
          rw [code, Option.some_or, ← code]
        exact congrArg some same.symm
      | succ k =>
        rw [List.getElem?_cons_succ, ih s k w h (by omega), List.take_succ_cons, List.countP_cons_of_neg (by simp [code])]

/-! ### Counter queries -/

/-- The answer to a counter enters a queue with room (R142). -/
theorem answerVoucher_open {s : State} (queue : QueueOpen s.link) (v : VCode) (a : Answer) (item : Nat) :
    s.answerVoucher v (a, item) = { s with link := s.link.withEntry (.voucherState v item a) .voucherState none none } :=
  offer_open queue _ _ _ _

theorem keep_verify {s : State} {v : VCode} (own : s.link.station = some v.station) (sender : Nat) :
    s.keep sender (.verify v) = s.verify v := if_pos own

theorem keep_redeem {s : State} {v : VCode} (own : s.link.station = some v.station) (sender : Nat) :
    s.keep sender (.redeem v) = s.redeem sender v := if_pos own

/-- Settles O45: the answers to VERIFY and REDEEM, expiry, what is issued and reissued, and the table's evictions. -/
theorem voucherNotices : Obligations.VoucherNotices := by
  refine ⟨fun s sender v say live hears ok own hsay => ⟨fun queue => ⟨fun absent => ?_, fun older r newer table code last => ⟨fun item a how => ?_,
      fun issued printed => ?_, fun redeemed by_ => ?_⟩⟩, fun mute => ?_⟩,
    fun s index r live here => ⟨fun issued past => effects_of_eq rfl live ?_, fun stands => effects_of_eq rfl live ?_⟩,
    fun s u l v made next hnext hmade hu => ⟨fun code x named loaded => ?_, fun expiry unnamed catalog => ?_,
      fun vs k w hvs hw range => ?_, fun line c older r newer hv hc table code last room => ?_⟩,
    fun s l r young hyoung => ⟨fun room => ?_, fun full => ⟨fun older v newer table ended first => ?_, fun issued =>
      ⟨fun older v newer table expired first => ?_, fun unexpired => ?_⟩⟩⟩⟩
  · have none := record_none absent
    have answers := answerVoucher_open queue v .unknown 0
    subst hsay
    refine ⟨effects_kept rfl live hears ok ((keep_verify own sender).trans ?_), effects_kept rfl live hears ok ((keep_redeem own sender).trans ?_)⟩
    · rw [State.verify, none]
      exact answers
    · simp only [State.redeem, none]
      exact answers
  · have record := record_split table code last
    have answer : verifyAnswer (some r) = (a, item) := by
      rcases how with ⟨status, rfl, rfl⟩ | ⟨status, printed, rfl, rfl⟩ | ⟨status, printed, rfl, rfl⟩ | ⟨status, rfl, rfl⟩ |
        ⟨status, rfl, rfl⟩ <;> simp [verifyAnswer, *]
    subst hsay
    refine ⟨effects_kept rfl live hears ok ((keep_verify own sender).trans ?_),
      fun unprinted others => effects_kept rfl live hears ok ((keep_redeem own sender).trans ?_)⟩
    · rw [State.verify, record, answer]
      exact answerVoucher_open queue v a item
    · simp only [State.redeem, record]
      rw [if_neg unprinted, if_neg others, answer]
      exact answerVoucher_open queue v a item
  · subst hsay
    refine effects_kept rfl live hears ok ((keep_redeem own sender).trans ?_)
    simp only [State.redeem, record_split table code last, modRecord_split table code last]
    rw [if_pos ⟨issued, printed⟩]
    exact answerVoucher_open (s := ({ s with vouchers := { s.vouchers with
      table := older ++ { r with status := .redeemed, redeemedBy := some sender } :: newer } } : State).raise _) queue v .redeemedNow
      r.item
  · subst hsay
    refine effects_kept rfl live hears ok ((keep_redeem own sender).trans ?_)
    simp only [State.redeem, record_split table code last]
    rw [if_neg (by simp [redeemed]), if_pos ⟨redeemed, by_⟩]
    exact answerVoucher_open queue v .redeemedNow r.item
  · refine effects_kept rfl live hears ok ((keep_verify own sender).trans ?_)
    have refused : s.link.admission .voucherState = .refused := by simp [Link.admission, mute]
    simp only [State.verify, State.answerVoucher, State.offer, refused]
    rfl
  · show s.modRecordAt index _ = _
    have expired : VoucherRecord.expire s.house.clock r = { r with status := .expired } := if_pos ⟨issued, past⟩
    rw [State.modRecordAt, modify_set here, expired]
  · show s.modRecordAt index _ = _
    have kept : VoucherRecord.expire s.house.clock r = r :=
      if_neg fun ⟨issued, past⟩ => stands.elim (fun ne => ne issued) fun before => absurd past (Nat.not_le.mpr before)
    have same : s.vouchers.table.set index r = s.vouchers.table := by
      rw [← modify_set here fun x => x]
      exact List.modify_id _ _
    rw [State.modRecordAt, modify_set here, kept, same]
  · have expires : s.voucherExpiry l = x.start + 60 * s.cfg.voucherGrace := by simp only [State.voucherExpiry, named, loaded]
    rw [issueLine_eq, expires, hmade, hu, hnext]
    rfl
  · have expires : s.voucherExpiry l = expiry := by simp only [State.voucherExpiry, unnamed, catalog, Option.getD_some]
    rw [issueLine_eq, expires, hmade, hu, hnext]
    rfl
  · subst hvs
    rw [PaymentSteps.issueVouchers_lane]
    exact issueLines_code l _ s k w hw range
  · have found : ((s.lane l).order.voucherLines[line]?.bind fun v => v.code.map fun c => (v, c)) = some (v, c) := by
      rw [hv, Option.bind_some, hc, Option.map_some]
    have spoiled := modRecord_split table code last fun r => { r with status := .void }
    obtain ⟨d, hd⟩ : ∃ d : State, d = { s with vouchers := { s.vouchers with
      serial := next, table := older ++ { r with status := .void } :: newer } } := ⟨_, rfl⟩
    have met : s.reissue l line
        = (d.modOrder l fun o =>
            { o with
              voucherLines := o.voucherLines.modify line fun x => { x with code := some ⟨s.cfg.station, s.vouchers.serial⟩ } }).enterRecord
            l ⟨⟨s.cfg.station, s.vouchers.serial⟩, r.item, r.screening, r.expiry, statusAt s.house.clock r.expiry, false, none⟩ := by
      simp only [State.reissue, found, spoiled, record_split table code last, hd, hnext]
      rfl
    have lined : (d.modOrder l fun o =>
          { o with
            voucherLines := o.voucherLines.modify line fun x => { x with code := some ⟨s.cfg.station, s.vouchers.serial⟩ } })
        = d.modOrder l fun o =>
            { o with voucherLines := o.voucherLines.set line { v with code := some ⟨s.cfg.station, s.vouchers.serial⟩ } } := by
      refine modLane_congr ?_
      have lane : d.lane l = s.lane l := by rw [hd]; rfl
      dsimp only
      rw [lane, modify_set hv]
    have room' : (d.modOrder l fun o =>
        { o with voucherLines := o.voucherLines.set line { v with code := some ⟨s.cfg.station, s.vouchers.serial⟩ } }).vouchers.table.length
          < 1024 := by
      rw [table] at room
      rw [hd]
      show (older ++ { r with status := .void } :: newer).length < 1024
      simpa using room
    rw [met, lined, enterRecord_room l room', hd]
    rfl
  · rw [hyoung]
    exact enterRecord_room l room
  · rw [hyoung]
    exact enterRecord_full l full (table ▸ evictRecord_over ended first)
  · rw [hyoung]
    exact enterRecord_full l full (table ▸ evictRecord_expired (table ▸ issued) expired first)
  · refine (if_neg (Nat.not_lt.mpr full)).trans ?_
    simp only [evictRecord_none issued unexpired]
    rfl

end Sys2Proof.Proofs.Vouchers
end

section
/-! PROOFS: the rules of the Print Controller. Printer records, the print queue, an assignment, and an item sent. -/

namespace Sys2Proof.Proofs.Printing

open Sys2Proof Sys2Proof.Machine Sys2Proof.Proofs.Inputs Sys2Proof.Proofs.Requests Sys2Proof.Proofs.Words
open Sys2Proof.Proofs.LinkRules Sys2Proof.Proofs.SeatTimers

/-! ### Printer records -/

theorem other_ne (p : PortIx) : 1 - p ≠ p := by
  revert p
  decide

theorem eq_or_other (p q : PortIx) : q = p ∨ q = 1 - p := by
  revert p q
  decide

theorem perPort_set_set {α : Type} (x : PerPort α) (p : PortIx) (a b : α) : (x.set p a).set p b = x.set p b := by
  revert p
  simp [Fin.forall_fin_two, PerPort.set]

theorem perPort_set_get {α : Type} (x : PerPort α) (p : PortIx) : x.set p (x.get p) = x := by
  revert p
  simp [Fin.forall_fin_two, PerPort.set, PerPort.get]

theorem perPort_set_comm {α : Type} (x : PerPort α) {p q : PortIx} (h : p ≠ q) (a b : α) : (x.set p a).set q b = (x.set q b).set p a := by
  revert p q
  simp [Fin.forall_fin_two, PerPort.set]

theorem set_other {α : Type} {p q : PortIx} (h : q ≠ p) (x : PerPort α) (a : α) : (x.set p a).get q = x.get q := by
  rw [PerPort.get_set, if_neg h]

section Records

variable {s : State} {p q : PortIx}

theorem modPrinter_modPrinter (s : State) (p : PortIx) (f g : Printer → Printer) :
    (s.modPrinter p f).modPrinter p g = s.modPrinter p fun x => g (f x) := by
  simp only [State.modPrinter, PerPort.get_set_same, perPort_set_set]

theorem modPrinter_congr {f g : Printer → Printer} (h : f (s.printer p) = g (s.printer p)) : s.modPrinter p f = s.modPrinter p g := by
  have same : f (s.printing.printers.get p) = g (s.printing.printers.get p) := h
  simp only [State.modPrinter, same]

theorem printer_other (h : q ≠ p) (s : State) (f : Printer → Printer) : (s.modPrinter p f).printer q = s.printer q := by
  rw [State.printer_modPrinter, if_neg h]

end Records

/-! ### The print queue -/

section Queue

variable {s : State} {l : LaneIx} {j : Job}

theorem jobOf_only (jobs : s.printing.jobs = [j]) (lane : j.lane = l) : s.jobOf l = some j := by
  simp [State.jobOf, jobs, lane]

theorem modJob_only (jobs : s.printing.jobs = [j]) (lane : j.lane = l) (f : Job → Job) :
    s.modJob l f = { s with printing := { s.printing with jobs := [f j] } } := by
  simp [State.modJob, State.modJobs, jobs, lane]

theorem removeJob_only (jobs : s.printing.jobs = [j]) (lane : j.lane = l) :
    s.removeJob l = { s with printing := { s.printing with jobs := [] } } := by
  simp [State.removeJob, State.modJobs, jobs, lane]

theorem modPrintItem_only {k : Nat} {i : Item} (jobs : s.printing.jobs = [j]) (lane : j.lane = l) (here : j.items[k]? = some i)
    (f : Item → Item) :
    s.modPrintItem l k f = { s with printing := { s.printing with jobs := [{ j with items := j.items.set k (f i) }] } } := by
  rw [State.modPrintItem, modJob_only jobs lane, Vouchers.modify_set here]

/-- The first place of a list at which a test holds. -/
theorem findIdx?_first {α : Type} {t : α → Bool} {xs : List α} {n : Nat} {x : α} (here : xs[n]? = some x) (holds : t x = true)
    (first : ∀ m e, m < n → xs[m]? = some e → t e = false) : xs.findIdx? t = some n := by
  obtain ⟨hn, hx⟩ := List.getElem?_eq_some_iff.mp here
  rw [List.findIdx?_eq_some_iff_getElem]
  refine ⟨hn, by rw [hx]; exact holds, fun m hm => ?_⟩
  simpa using first m _ hm (List.getElem?_eq_getElem (hm.trans hn))

theorem nextItem_first {n : Nat} {i : Item} (here : j.items[n]? = some i) (undone : i.state ≠ .done)
    (first : ∀ m e, m < n → j.items[m]? = some e → e.state = .done) : j.nextItem = some n :=
  findIdx?_first here (by simpa using undone) fun m e hm he => by simp [first m e hm he]

theorem nextItem_none (done : ∀ e ∈ j.items, e.state = .done) : j.nextItem = none :=
  List.findIdx?_eq_none_iff.mpr fun e he => by simp [done e he]

end Queue

/-! ### An item sent -/

section Sending

variable {s : State} {p : PortIx} {l : LaneIx} {j : Job} {n : Nat} {i : Item}

/-- What an item's content is read from does not include the Print Controller. -/
theorem itemContent_printing (s : State) (pr : Printing) (l : LaneIx) (i : Item) :
    ({ s with printing := pr } : State).itemContent l i = s.itemContent l i := by
  unfold State.itemContent
  cases i.kind <;> rfl

/-- An item that needs no serial is sent (R156). -/
theorem sendItem_plain (jobs : s.printing.jobs = [j]) (lane : j.lane = l) (next : j.nextItem = some n) (here : j.items[n]? = some i)
    (plain : ¬(i.kind = .ticket ∧ i.serial = none)) :
    s.sendItem p l
      = { s with printing := { s.printing with
            printers := s.printing.printers.set p { s.printer p with sending := some (.item ⟨l.val, n, i.spoils⟩ (s.itemContent l i)) }
            jobs := [{ j with items := j.items.set n { i with state := .sent } }] } } := by
  have drawn : s.drawTicket l n i = (i, s) := if_neg plain
  simp only [State.sendItem, jobOf_only jobs lane, next, here, drawn, modPrintItem_only jobs lane here, itemContent_printing]
  rfl

/-- A ticket is sent with the serial that it draws (R156, R157). -/
theorem sendItem_ticket (jobs : s.printing.jobs = [j]) (lane : j.lane = l) (next : j.nextItem = some n) (here : j.items[n]? = some i)
    (ticket : i.kind = .ticket) (unnumbered : i.serial = none) :
    s.sendItem p l
      = { s with printing :=
            { printers := s.printing.printers.set p { s.printer p with
                sending := some (.item ⟨l.val, n, i.spoils⟩ (s.itemContent l { i with serial := some s.printing.serial })) }
              jobs := [{ j with items := j.items.set n { i with state := .sent, serial := some s.printing.serial } }]
              serial := nextSerial Config.lastTicketSerial s.printing.serial } } := by
  have drawn : s.drawTicket l n i = ({ i with serial := some s.printing.serial },
      { s with printing := { s.printing with
          jobs := [{ j with items := j.items.set n { i with serial := some s.printing.serial } }]
          serial := nextSerial Config.lastTicketSerial s.printing.serial } }) := by
    refine (if_pos ⟨ticket, unnumbered⟩).trans (congrArg (Prod.mk _) ?_)
    exact modPrintItem_only
      (s := { s with printing := { s.printing with serial := nextSerial Config.lastTicketSerial s.printing.serial } })
      jobs lane here fun _ => { i with serial := some s.printing.serial }
  have bound : n < j.items.length := (List.getElem?_eq_some_iff.mp here).1
  have here' : (j.items.set n { i with serial := some s.printing.serial })[n]? = some { i with serial := some s.printing.serial } := by
    simp [bound]
  simp only [State.sendItem, jobOf_only jobs lane, next, here, drawn]
  rw [modPrintItem_only (j := { j with items := j.items.set n { i with serial := some s.printing.serial } }) rfl lane here']
  simp only [List.set_set]
  rfl

/-- What sending an item changes: what the port sends, the items of the lane's jobs, and the serial counter. -/
theorem sendItem_changes (s : State) (p : PortIx) (l : LaneIx) :
    ∃ (m : Option PrinterMsg) (g : List Item → List Item) (serial : Nat), s.sendItem p l
      = { s with printing := ⟨s.printing.printers.set p { s.printer p with sending := m },
          s.printing.jobs.map fun j => if j.lane = l then { j with items := g j.items } else j, serial⟩ } := by
  have still : s = { s with printing := ⟨s.printing.printers.set p { s.printer p with sending := (s.printer p).sending },
      s.printing.jobs.map fun j => if j.lane = l then { j with items := id j.items } else j, s.printing.serial⟩ } := by
    have jobs : (s.printing.jobs.map fun j => if j.lane = l then { j with items := id j.items } else j) = s.printing.jobs := by simp
    have printers : s.printing.printers.set p { s.printer p with sending := (s.printer p).sending } = s.printing.printers :=
      perPort_set_get _ p
    rw [jobs, printers]
  unfold State.sendItem
  split
  · exact ⟨_, _, _, still⟩
  · split
    · exact ⟨_, _, _, still⟩
    · split
      · exact ⟨_, _, _, still⟩
      next k _ _ i _ =>
        by_cases draws : i.kind = .ticket ∧ i.serial = none
        · simp only [State.drawTicket, if_pos draws]
          refine ⟨some (.item ⟨l.val, k, i.spoils⟩ (s.itemContent l { i with serial := some s.printing.serial })),
            fun items => (items.modify k fun _ => { i with serial := some s.printing.serial }).modify k fun x => { x with state := .sent },
            nextSerial Config.lastTicketSerial s.printing.serial, ?_⟩
          simp only [State.modPrintItem, State.modJob, State.modJobs, List.map_map, itemContent_printing]
          refine congrArg (fun jobs => ({ s with printing := ⟨s.printing.printers.set p { s.printer p with
            sending := some (.item ⟨l.val, k, i.spoils⟩ (s.itemContent l { i with serial := some s.printing.serial })) }, jobs,
            nextSerial Config.lastTicketSerial s.printing.serial⟩ } : State)) (List.map_congr_left fun j _ => ?_)
          by_cases own : j.lane = l
          · simp [own]
          · simp [own]
        · simp only [State.drawTicket, if_neg draws]
          exact ⟨_, _, _, rfl⟩

end Sending

/-! ### Assignment (R154) -/

section Assignment

variable {s t : State} {p : PortIx} {j : Job}

theorem isReady_congr {q : PortIx} (h : t.printer q = s.printer q) : t.isReady q = s.isReady q := by
  rw [State.isReady, State.isReady, h]

theorem readyPort_none (h : ∀ q, s.isReady q = false) : s.readyPort = none := by simp [State.readyPort, h]

theorem readyPort_only (here : s.isReady p = true) (other : s.isReady (1 - p) = false) : s.readyPort = some p := by
  revert here other
  revert p
  simp [Fin.forall_fin_two, State.readyPort]
  exact ⟨fun h k => by simp [h, k], fun h k => by simp [h, k]⟩

theorem assign_unready (h : ∀ q, s.isReady q = false) : s.assign = s := by
  simp only [State.assign, State.assignAt, readyPort_none h]

/-- With no job that waits an assignment changes nothing. -/
theorem assign_unqueued (h : s.jobOrder = []) : s.assign = s := by
  simp only [State.assign, State.assignAt, h]
  cases s.readyPort <;> rfl

theorem jobOrder_nil (jobs : s.printing.jobs = []) : s.jobOrder = [] := by simp [State.jobOrder, jobs]

/-- One job is given to a port when no further pairing can be made. -/
theorem assign_gives {rest : List Job} (port : s.readyPort = some p) (order : s.jobOrder = j :: rest)
    (stop : (s.giveJob p j).readyPort = none ∨ (s.giveJob p j).jobOrder = []) : s.assign = s.giveJob p j := by
  simp only [State.assign, State.assignAt, port, order]
  rcases stop with none | none
  · simp only [none]
  · simp only [none]
    cases (s.giveJob p j).readyPort <;> rfl

/-- What a job given to a port changes: the port's printer, that job, and the serial counter. -/
theorem giveJob_changes (s : State) (p : PortIx) (j : Job) :
    ∃ (m : Option PrinterMsg) (g : List Item → List Item) (serial : Nat), s.giveJob p j
      = { s with printing := ⟨s.printing.printers.set p { s.printer p with state := .busy, job := some j.lane, sending := m },
          s.printing.jobs.map fun x =>
            if x.lane = j.lane then { x with place := .onPrinter p, returnOrder := none, items := g x.items } else x, serial⟩ } := by
  obtain ⟨m, g, serial, sent⟩ := sendItem_changes ((s.modJob j.lane fun x => { x with place := .onPrinter p, returnOrder := none }).modPrinter p
    fun x => { x with state := .busy, job := some j.lane }) p j.lane
  refine ⟨m, g, serial, ?_⟩
  rw [State.giveJob, sent]
  simp only [State.modPrinter, State.modJob, State.modJobs, State.printer, PerPort.get_set_same, perPort_set_set, List.map_map]
  refine congrArg (fun jobs => ({ s with printing := ⟨s.printing.printers.set p _, jobs, serial⟩ } : State))
    (List.map_congr_left fun x _ => ?_)
  by_cases own : x.lane = j.lane
  · simp [own]
  · simp [own]

/-- A printer with a job is not READY, and the other port is as it was. -/
theorem giveJob_ready (s : State) (p : PortIx) (j : Job) :
    (s.giveJob p j).isReady p = false ∧ (s.giveJob p j).isReady (1 - p) = s.isReady (1 - p) := by
  obtain ⟨m, g, serial, gives⟩ := giveJob_changes s p j
  rw [gives]
  exact ⟨by simp [State.isReady, State.printer], isReady_congr (set_other (other_ne p) _ _)⟩

/-- With one READY printer the job that comes first gets it. -/
theorem assign_first {rest : List Job} (here : s.isReady p = true) (other : s.isReady (1 - p) = false) (order : s.jobOrder = j :: rest) :
    s.assign = s.giveJob p j := by
  refine assign_gives (readyPort_only here other) order (.inl (readyPort_none fun q => ?_))
  obtain ⟨busy, kept⟩ := giveJob_ready s p j
  rcases eq_or_other p q with rfl | rfl
  · exact busy
  · exact kept.trans other

end Assignment

end Sys2Proof.Proofs.Printing
end

section
/-! PROOFS of O35: the PRINT word. -/

namespace Sys2Proof.Proofs.PrintWords

open Sys2Proof Sys2Proof.Machine Sys2Proof.Proofs.Inputs Sys2Proof.Proofs.Requests Sys2Proof.Proofs.Words
open Sys2Proof.Proofs.LinkRules Sys2Proof.Proofs.SeatTimers Sys2Proof.Proofs.Cancelling Sys2Proof.Proofs.Printing

/-! ### A job given to a port -/

section Giving

variable {s : State} {p : PortIx} {j : Job} {n : Nat} {i : Item}

/-- The job once it is on a port, with the items given. -/
def Job.onPort (j : Job) (p : PortIx) (items : List Item) : Job := { j with place := .onPrinter p, returnOrder := none, items := items }

theorem giveJob_eq (jobs : s.printing.jobs = [j]) :
    s.giveJob p j
      = State.sendItem { s with printing := { s.printing with
          printers := s.printing.printers.set p { s.printer p with state := .busy, job := some j.lane }
          jobs := [Job.onPort j p j.items] } } p j.lane := by
  rw [State.giveJob, modJob_only jobs rfl]
  rfl

/-- A job whose first item needs no serial is given to a port (R154, R156). -/
theorem giveJob_plain (jobs : s.printing.jobs = [j]) (next : j.nextItem = some n) (here : j.items[n]? = some i)
    (plain : ¬(i.kind = .ticket ∧ i.serial = none)) :
    s.giveJob p j
      = { s with printing := { s.printing with
          printers := s.printing.printers.set p { s.printer p with
            state := .busy, job := some j.lane, sending := some (.item ⟨j.lane.val, n, i.spoils⟩ (s.itemContent j.lane i)) }
          jobs := [Job.onPort j p (j.items.set n { i with state := .sent })] } } := by
  rw [giveJob_eq jobs, sendItem_plain (l := j.lane) (j := Job.onPort j p j.items) rfl rfl next here plain, itemContent_printing]
  simp only [State.printer, PerPort.get_set_same, perPort_set_set]
  rfl

/-- A job whose first item is a ticket without a serial is given to a port (R154, R157). -/
theorem giveJob_ticket (jobs : s.printing.jobs = [j]) (next : j.nextItem = some n) (here : j.items[n]? = some i)
    (ticket : i.kind = .ticket) (unnumbered : i.serial = none) :
    s.giveJob p j
      = { s with printing :=
          { printers := s.printing.printers.set p { s.printer p with
              state := .busy, job := some j.lane
              sending := some (.item ⟨j.lane.val, n, i.spoils⟩
                (s.itemContent j.lane { i with serial := some s.printing.serial })) }
            jobs := [Job.onPort j p (j.items.set n { i with state := .sent, serial := some s.printing.serial })]
            serial := nextSerial Config.lastTicketSerial s.printing.serial } } := by
  rw [giveJob_eq jobs, sendItem_ticket (l := j.lane) (j := Job.onPort j p j.items) rfl rfl next here ticket unnumbered, itemContent_printing]
  simp only [State.printer, PerPort.get_set_same, perPort_set_set]
  rfl

theorem jobOrder_only (jobs : s.printing.jobs = [j]) (waits : j.place = .waiting ∨ j.place = .returned) : s.jobOrder = [j] := by
  rcases waits with place | place
  · by_cases urgent : s.urgent j = true
    · simp [State.jobOrder, jobs, place, urgent]
    · simp [State.jobOrder, jobs, place, urgent]
  · simp [State.jobOrder, jobs, place, insertReturned]

theorem jobOrder_given (jobs : s.printing.jobs = [j]) : (s.giveJob p j).jobOrder = [] := by
  obtain ⟨m, g, serial, gives⟩ := giveJob_changes s p j
  rw [gives]
  simp [State.jobOrder, jobs]

end Giving

/-! ### The items of a PRINT -/

/-- An item that has not been sent. -/
def Item.isFresh (i : Item) : Prop := i = Item.fresh i.kind i.line

theorem jobItems_fresh {o : Order} {i : Item} (h : i ∈ o.jobItems) : Item.isFresh i := by
  have made {xs : List Item} (f : Item → Item) (hf : ∀ x, Item.isFresh (f x)) (hi : i ∈ xs.map f) : Item.isFresh i := by
    obtain ⟨x, -, rfl⟩ := List.mem_map.mp hi
    exact hf x
  have printed (hi : i ∈ o.printItems) : Item.isFresh i := by
    simp only [Order.printItems, List.mem_append, List.mem_map, List.mem_singleton] at hi
    rcases hi with (⟨n, -, rfl⟩ | ⟨n, -, rfl⟩) | rfl <;> rfl
  unfold Order.jobItems at h
  split at h
  · exact made (fun i => Item.fresh i.kind i.line) (fun _ => rfl) h
  · exact printed h
  · exact printed h
  · exact printed h

theorem jobItems_first {o : Order} (h : o.progress = none) : o.jobItems = o.printItems := by simp [Order.jobItems, h]

theorem jobItems_failed {o : Order} {old : List Item} (h : o.progress = some (.failed old)) :
    o.jobItems = (old.filter fun i => i.state ≠ .done).map fun i => ⟨i.kind, i.line, .pending, 0, none⟩ := by
  simp only [Order.jobItems, h]
  rfl

/-! ### The job of a PRINT -/

section Job

variable {s : State} {l : LaneIx}

/-- The job that a PRINT of the lane's order builds (R152). -/
def printJob (s : State) (l : LaneIx) : Job :=
  ⟨l, (s.lane l).order.tag.getD 0, (s.lane l).order.code.map fun c => (c, ((s.screening c).map Screening.start).getD 0),
    (s.lane l).order.jobItems, .waiting, none⟩

/-- The state with that job queued, before the printers are offered it (R152, R163). -/
def queued (s : State) (l : LaneIx) : State :=
  { (s.setPhase l .taken).modOrder l fun y => { y with state := .printing, progress := some .inQueue } with
    printing := { s.printing with jobs := s.printing.jobs ++ [printJob s l] } }

theorem runPrint_eq (sold : (s.lane l).order.state = .sold) : s.runPrint l = (queued s l).assign := by
  obtain ⟨order, -, -⟩ := setPhase_lane s l .taken
  rw [State.runPrint, if_pos sold]
  simp only [State.buildJob, order]
  refine congrArg State.assign ?_
  have start : (s.setPhase l .taken).orderStart (s.lane l).order
      = (((s.lane l).order.code.bind s.screening).map Screening.start).getD 0 := rfl
  have screening : ((s.lane l).order.code.map fun c => (c, (s.setPhase l .taken).orderStart (s.lane l).order))
      = (s.lane l).order.code.map fun c => (c, ((s.screening c).map Screening.start).getD 0) := by
    rw [start]
    cases (s.lane l).order.code <;> rfl
  rw [screening]
  rfl

theorem queued_order : ((queued s l).lane l).order = { (s.lane l).order with state := .printing, progress := some .inQueue } := by
  obtain ⟨order, -, -⟩ := setPhase_lane s l .taken
  have lane := State.lane_modLane_same (s.setPhase l .taken) l fun y =>
    { y with order := { y.order with state := .printing, progress := some .inQueue } }
  show ((((s.setPhase l .taken).modLane l fun y =>
    { y with order := { y.order with state := .printing, progress := some .inQueue } }).lane l).order) = _
  rw [lane, order]

end Job

/-! ### What its first item carries -/

section Content

variable {s : State} {l : LaneIx}

/-- The item as it is sent: a ticket has drawn its serial (R157). -/
def numbered (s : State) (i : Item) : Item := if i.kind = .ticket then { i with serial := some s.printing.serial } else i

/-- The job given to a port, whatever its first item. -/
theorem giveJob_first {u : State} {p : PortIx} {j : Job} {i : Item} (jobs : u.printing.jobs = [j]) (here : j.items[0]? = some i)
    (fresh : Item.isFresh i) :
    ∃ items, u.giveJob p j
      = { u with printing :=
          { printers := u.printing.printers.set p { u.printer p with
              state := .busy, job := some j.lane
              sending := some (.item ⟨j.lane.val, 0, 0⟩ (u.itemContent j.lane (numbered u i))) }
            jobs := [Job.onPort j p items]
            serial := if i.kind = .ticket then nextSerial 16777215 u.printing.serial else u.printing.serial } } := by
  have state : i.state = .pending := by rw [fresh]; rfl
  have spoils : i.spoils = 0 := by rw [fresh]; rfl
  have serial : i.serial = none := by rw [fresh]; rfl
  have next : j.nextItem = some 0 := nextItem_first here (by simp [state]) fun m e hm => absurd hm (Nat.not_lt_zero m)
  by_cases ticket : i.kind = .ticket
  · refine ⟨j.items.set 0 { i with state := .sent, serial := some u.printing.serial }, (giveJob_ticket jobs next here ticket serial).trans ?_⟩
    rw [if_pos ticket, numbered, if_pos ticket, spoils]
    rfl
  · refine ⟨j.items.set 0 { i with state := .sent }, (giveJob_plain jobs next here fun h => ticket h.1).trans ?_⟩
    rw [if_neg ticket, numbered, if_neg ticket, spoils]

theorem queued_ticket {n code serial : Nat} {v : SeatLine} {x : Screening} (line : (s.lane l).order.seatLines[n]? = some v)
    (named : (s.lane l).order.code = some code) (loaded : s.screening code = some x) :
    (queued s l).itemContent l ⟨.ticket, some n, .pending, 0, some serial⟩
      = .ticket code x.start v.seat v.type (v.price.getD 0) s.cfg.station serial := by
  have code' : ({ (s.lane l).order with state := .printing, progress := some .inQueue } : Order).code = some code := named
  have loaded' : (queued s l).screening code = some x := loaded
  simp only [State.itemContent, State.ticketContent, queued_order, State.orderStart, code', line, Option.getD_some, Option.bind_some,
    loaded', Option.map_some]
  rfl

theorem queued_stub {n : Nat} {w : VoucherLine} {code : VCode} {older newer : List VoucherRecord} {r : VoucherRecord}
    (line : (s.lane l).order.voucherLines[n]? = some w) (coded : w.code = some code)
    (table : s.vouchers.table = older ++ r :: newer) (own : r.code = code) (last : ∀ y ∈ newer, y.code ≠ code) (serial : Option Nat) :
    (queued s l).itemContent l ⟨.stub, some n, .pending, 0, serial⟩
      = .stub code w.item r.expiry (w.price.getD 0) (w.discount.getD 0) := by
  have record : (queued s l).record code = some r := Vouchers.record_split (s := queued s l) table own last
  simp only [State.itemContent, State.stubContent, queued_order, line, coded, Option.getD_some, State.stubExpiry, record]

theorem queued_receipt {q : Quote} (quote : (s.lane l).order.quote = some q) (serial : Option Nat) :
    (queued s l).itemContent l ⟨.receipt, none, .pending, 0, serial⟩
      = .receipt ((s.lane l).order.tag.getD 0) s.cfg.station ((s.lane l).order.seatLines.map fun v => ⟨v.seat, v.price.getD 0⟩)
          ((s.lane l).order.voucherLines.map fun v => ⟨v.item, v.price.getD 0, v.discount.getD 0⟩) q.ticketPart
          q.concessionPart q.total q.ticketTax q.concessionTax q.taxTotal
          ((([⟨.one, (s.lane l).order.tender1⟩, ⟨.two, (s.lane l).order.tender2⟩] : List TenderSummary).filter fun y =>
            y.tender.state = .captured).map fun y => ⟨y.index, y.tender.captured, y.tender.auth⟩) := by
  have tenders (o : Order) : o.receiptTenders
      = (([⟨.one, o.tender1⟩, ⟨.two, o.tender2⟩] : List TenderSummary).filter fun y => y.tender.state = .captured).map fun y =>
          ⟨y.index, y.tender.captured, y.tender.auth⟩ := by
    unfold Order.receiptTenders Order.summaries
    rw [List.filter_filter]
    refine congrArg _ (List.filter_congr fun y _ => ?_)
    by_cases captured : y.tender.state = .captured
    · simp [captured]
    · simp [captured]
  simp only [State.itemContent, State.receiptContent, queued_order, quote, Option.getD_some, tenders]
  rfl

end Content

/-- Settles O35: the job queued, and given to a READY printer with its first item. -/
theorem printWord : Obligations.PrintWord := by
  intro s l o items live fresh ho sold hitems
  subst ho
  have effect : ∀ m, s.runPrint l = m → Effects (.print l) s m := fun m h => effects_word (w := .print) live fresh h
  have made : (s.lane l).order.jobItems = items := by
    rcases hitems with ⟨first, rfl⟩ | ⟨old, failed, rfl⟩
    · exact jobItems_first first
    · exact jobItems_failed failed
  have run := runPrint_eq sold
  refine ⟨fun none => effect _ ?_, fun enabled ready other idle some_ => ?_, fun p both idle some_ hp => ?_⟩
  · have unready (q : PortIx) : (queued s l).isReady q = false := by
      refine (isReady_congr (s := s) rfl).trans ?_
      rcases none q with off | busy
      · simp [State.isReady, off]
      · simp [State.isReady, busy]
    rw [run, assign_unready unready, queued, printJob, made]
  · have jobs : (queued s l).printing.jobs = [printJob s l] := by
      show s.printing.jobs ++ _ = _
      rw [idle]
      rfl
    obtain ⟨i, rest, hi⟩ := List.exists_cons_of_ne_nil some_
    have here : (printJob s l).items[0]? = some i := by
      show (s.lane l).order.jobItems[0]? = _
      rw [made, hi]
      rfl
    have first : items.head? = some i := by rw [hi]; rfl
    have here_ : (queued s l).isReady 0 = true := by
      refine (isReady_congr (s := s) rfl).trans ?_
      simp [State.isReady, enabled, ready]
    have other_ : (queued s l).isReady 1 = false := by
      refine (isReady_congr (s := s) rfl).trans ?_
      simp [State.isReady, other]
    obtain ⟨sentItems, given⟩ := giveJob_first (p := 0) jobs here (jobItems_fresh (made ▸ hi ▸ List.mem_cons_self))
    obtain ⟨t, completes, settled, closed⟩ := effect _ ((run.trans (assign_first here_ other_ (jobOrder_only jobs (.inl rfl)))).trans given)
    have printing := closed.printing
    have lane : t.lane l = (queued s l).lane l := congrArg (fun x => x.get l) closed.lanes
    have port : t.printer 0 = { s.printer 0 with
        state := .busy, job := some l, sending := some (.item ⟨l.val, 0, 0⟩ ((queued s l).itemContent l (numbered (queued s l) i))) } :=
      congrArg (fun pr : Printing => pr.printers.get 0) printing
    have sends : (t.printer 0).sending = some (.item ⟨l.val, 0, 0⟩ ((queued s l).itemContent l (numbered (queued s l) i))) := by rw [port]
    have kept : t.printer 1 = s.printer 1 := by
      rw [State.printer, printing]
      exact set_other (p := 0) (q := 1) (by decide) _ _
    refine ⟨t, completes, by rw [lane, queued_order], by rw [port], by rw [port], kept,
      ⟨_, sends⟩, ⟨_, congrArg Printing.jobs printing, rfl, rfl⟩, fun ticket => ?_, fun n v x code head line named loaded => ?_,
      fun n w code older r newer head line coded table own last => ?_, fun q head quote => ?_⟩
    · have kind : i.kind = .ticket := by simpa [first] using ticket
      exact (congrArg Printing.serial printing).trans (if_pos kind)
    · obtain rfl : i = _ := Option.some.inj (first.symm.trans head)
      rw [sends]
      exact congrArg (fun c => some (PrinterMsg.item ⟨l.val, 0, 0⟩ c)) (queued_ticket line named loaded)
    · obtain rfl : i = _ := Option.some.inj (first.symm.trans head)
      rw [sends]
      exact congrArg (fun c => some (PrinterMsg.item ⟨l.val, 0, 0⟩ c)) (queued_stub line coded table own last _)
    · obtain rfl : i = _ := Option.some.inj (first.symm.trans head)
      rw [sends]
      exact congrArg (fun c => some (PrinterMsg.item ⟨l.val, 0, 0⟩ c)) (queued_receipt quote _)
  · have jobs : (queued s l).printing.jobs = [printJob s l] := by
      show s.printing.jobs ++ _ = _
      rw [idle]
      rfl
    have ready (q : PortIx) : (queued s l).isReady q = true := by
      obtain ⟨on, is⟩ := both q
      refine (isReady_congr (s := s) rfl).trans ?_
      simp [State.isReady, on, is]
    have port : (queued s l).readyPort = some p := by
      have low (q : PortIx) : (queued s l).portLines q = s.pins.ports.get q := rfl
      simp only [State.readyPort, ready, low, true_and, if_true, hp]
      split <;> rfl
    have gives := assign_gives port (jobOrder_only jobs (.inl rfl)) (.inr (jobOrder_given jobs))
    obtain ⟨m, g, serial, given⟩ := giveJob_changes (queued s l) p (printJob s l)
    obtain ⟨t, completes, settled, closed⟩ := effect _ ((run.trans gives).trans given)
    have printer (q : PortIx) := congrArg (fun pr : Printing => pr.printers.get q) closed.printing
    refine ⟨t, completes, ?_, ?_, ?_⟩
    · exact congrArg Printer.job ((printer p).trans (PerPort.get_set_same _ p _))
    · exact congrArg Printer.state ((printer p).trans (PerPort.get_set_same _ p _))
    · exact (printer (1 - p)).trans (set_other (other_ne p) _ _)

end Sys2Proof.Proofs.PrintWords
end

section
/-! PROOFS of O58: the messages of a printer line. -/

namespace Sys2Proof.Proofs.PrinterLine

open Sys2Proof Sys2Proof.Machine Sys2Proof.Proofs.Inputs Sys2Proof.Proofs.Requests Sys2Proof.Proofs.Words
open Sys2Proof.Proofs.LinkRules Sys2Proof.Proofs.SeatTimers Sys2Proof.Proofs.Cancelling Sys2Proof.Proofs.Printing
open Sys2Proof.Proofs.PrintWords

/-! ### The job that comes first (R154) -/

section First

variable {s : State} {j : Job} {older newer : List Job}

theorem filter_first {α : Type} {t : α → Bool} {older newer : List α} {x : α} (here : t x = true) (before : ∀ y ∈ older, t y = false) :
    (older ++ x :: newer).filter t = x :: newer.filter t := by
  rw [List.filter_append, List.filter_eq_nil_iff.mpr fun y hy => by simp [before y hy], List.nil_append, List.filter_cons, if_pos here]

theorem mem_insertReturned {y : Job} {xs : List Job} (h : y ∈ insertReturned j xs) : y = j ∨ y ∈ xs := by
  induction xs with
  | nil => exact .inl (by simpa [insertReturned] using h)
  | cons x xs ih =>
    unfold insertReturned at h
    split at h
    · simpa using h
    · rcases List.mem_cons.mp h with rfl | h
      · exact .inr List.mem_cons_self
      · exact (ih h).imp_right (List.mem_cons_of_mem _)

theorem mem_returned {y : Job} {xs : List Job} (h : y ∈ xs.foldr insertReturned []) : y ∈ xs := by
  induction xs with
  | nil => simp at h
  | cons x xs ih =>
    rcases mem_insertReturned h with rfl | h
    · exact List.mem_cons_self
    · exact List.mem_cons_of_mem _ (ih h)

/-- Of the jobs that have come back, the one RETURNED earliest stands first. -/
theorem returned_first (later : ∀ y ∈ older, j.returnOrder.getD 0 < y.returnOrder.getD 0)
    (last : ∀ y ∈ newer, j.returnOrder.getD 0 ≤ y.returnOrder.getD 0) :
    ∃ rest, (older ++ j :: newer).foldr insertReturned [] = j :: rest := by
  induction older with
  | nil =>
    refine ⟨newer.foldr insertReturned [], ?_⟩
    show insertReturned j (newer.foldr insertReturned []) = _
    cases h : newer.foldr insertReturned [] with
    | nil => rfl
    | cons x xs => exact if_pos (last x (mem_returned (h ▸ List.mem_cons_self)))
  | cons y ys ih =>
    obtain ⟨rest, first⟩ := ih fun z hz => later z (List.mem_cons_of_mem _ hz)
    refine ⟨insertReturned y rest, ?_⟩
    show insertReturned y ((ys ++ j :: newer).foldr insertReturned []) = _
    rw [first]
    exact if_neg (Nat.not_le.mpr (later y List.mem_cons_self))

theorem urgent_iff {y : Job} : s.urgent y = true ↔ ∃ code start, y.screening = some (code, start)
    ∧ start ≤ s.house.clock + 60 * s.cfg.urgentWindow := by
  unfold State.urgent
  cases y.screening with
  | none => simp
  | some x =>
    obtain ⟨code, start⟩ := x
    simp

theorem jobOrder_returned (jobs : s.printing.jobs = older ++ j :: newer) (back : j.place = .returned)
    (later : ∀ y ∈ older, y.place = .returned → j.returnOrder.getD 0 < y.returnOrder.getD 0)
    (last : ∀ y ∈ newer, y.place = .returned → j.returnOrder.getD 0 ≤ y.returnOrder.getD 0) : ∃ rest, s.jobOrder = j :: rest := by
  have split : s.printing.jobs.filter (fun y => y.place = .returned)
      = (older.filter fun y => y.place = .returned) ++ j :: newer.filter fun y => y.place = .returned := by
    rw [jobs, List.filter_append, List.filter_cons, if_pos (by simp [back])]
  obtain ⟨rest, first⟩ := returned_first (j := j) (older := older.filter fun y => y.place = .returned)
    (newer := newer.filter fun y => y.place = .returned)
    (fun y hy => later y (List.mem_filter.mp hy).1 (by simpa using (List.mem_filter.mp hy).2))
    fun y hy => last y (List.mem_filter.mp hy).1 (by simpa using (List.mem_filter.mp hy).2)
  simp only [State.jobOrder, split, first, List.cons_append]
  exact ⟨_, rfl⟩

theorem jobOrder_waiting (jobs : s.printing.jobs = older ++ j :: newer) (none : ∀ y ∈ s.printing.jobs, y.place ≠ .returned)
    (waits : j.place = .waiting)
    (first : s.urgent j = true ∧ (∀ y ∈ older, y.place = .waiting → s.urgent y = false)
      ∨ (∀ y ∈ s.printing.jobs, y.place = .waiting → s.urgent y = false) ∧ ∀ y ∈ older, y.place ≠ .waiting) :
    ∃ rest, s.jobOrder = j :: rest := by
  have back : s.printing.jobs.filter (fun y => y.place = .returned) = [] := List.filter_eq_nil_iff.mpr fun y hy => by simp [none y hy]
  rcases first with ⟨urgent, before⟩ | ⟨calm, before⟩
  · have leads : (s.printing.jobs.filter fun y => y.place = .waiting).filter s.urgent
        = j :: newer.filter fun y => s.urgent y && decide (y.place = .waiting) := by
      rw [List.filter_filter, jobs]
      refine filter_first (by simp [urgent, waits]) fun y hy => ?_
      by_cases place : y.place = .waiting
      · simp [before y hy place]
      · simp [place]
    simp only [State.jobOrder, back, List.foldr_nil, List.nil_append, leads, List.cons_append]
    exact ⟨_, rfl⟩
  · have nonurgent : (s.printing.jobs.filter fun y => y.place = .waiting).filter s.urgent = [] :=
      List.filter_eq_nil_iff.mpr fun y hy => by
        obtain ⟨hy, place⟩ := List.mem_filter.mp hy
        simp [calm y hy (by simpa using place)]
    have leads : ((s.printing.jobs.filter fun y => y.place = .waiting).filter fun y => !s.urgent y)
        = j :: newer.filter fun y => (!s.urgent y) && decide (y.place = .waiting) := by
      have own : s.urgent j = false := calm j (jobs ▸ by simp) waits
      rw [List.filter_filter, jobs]
      exact filter_first (by simp [own, waits]) fun y hy => by simp [before y hy]
    simp only [State.jobOrder, back, List.foldr_nil, List.nil_append, nonurgent, leads]
    exact ⟨_, rfl⟩

end First

/-! ### DONE (R158, R159) -/

section Done

variable {s : State} {p : PortIx} {l : LaneIx} {j : Job} {k : Nat} {i : Item}

theorem modRecord_none {v : VCode} (h : ∀ r ∈ s.vouchers.table, r.code ≠ v) (f : VoucherRecord → VoucherRecord) : s.modRecord v f = s := by
  have absent : recordIndex s.vouchers.table v = none := Vouchers.lastIdx?_none fun r hr => by simpa using h r hr
  simp only [State.modRecord, absent]

/-- The voucher table once an item has printed: the record of a stub's code is told (R140). -/
def Told (s : State) (l : LaneIx) (i : Item) (after : Machine.Vouchers) : Prop :=
  i.kind ≠ .stub ∧ after = s.vouchers
    ∨ ∃ n v a, i.kind = .stub ∧ i.line = some n ∧ (s.lane l).order.voucherLines[n]? = some v ∧ v.code = some a
      ∧ ((∀ e ∈ s.vouchers.table, e.code ≠ a) ∧ after = s.vouchers
        ∨ ∃ older r newer, s.vouchers.table = older ++ r :: newer ∧ r.code = a ∧ (∀ e ∈ newer, e.code ≠ a)
          ∧ after = { s.vouchers with
              table := older ++ (if r.status = .issued ∨ r.status = .expired then { r with printed := true } else r) :: newer })

theorem itemDone_eq {after : Machine.Vouchers} (jobs : s.printing.jobs = [j]) (lane : j.lane = l) (here : j.items[k]? = some i)
    (told : Told s l i after) :
    s.itemDone l k
      = { s with
          printing := { s.printing with jobs := [{ j with items := j.items.set k { i with state := .done } }] }
          vouchers := after } := by
  have found : ((s.jobOf l).bind fun j => j.items[k]?) = some i := by rw [jobOf_only jobs lane, Option.bind_some, here]
  have marked := modPrintItem_only jobs lane here fun i => { i with state := .done }
  rcases told with ⟨other, rfl⟩ | ⟨n, v, a, stub, line, lined, coded, how⟩
  · simp only [State.itemDone, found, marked, if_neg other]
  · have code : ((s.lane l).order.voucherLines[i.line.getD 0]?).bind VoucherLine.code = some a := by
      rw [line, Option.getD_some, lined, Option.bind_some, coded]
    simp only [State.itemDone, found, marked, if_pos stub, code, State.stubPrinted]
    rcases how with ⟨none, rfl⟩ | ⟨older, r, newer, table, own, last, rfl⟩
    · exact modRecord_none
        (s := { s with printing := { s.printing with jobs := [{ j with items := j.items.set k { i with state := .done } }] } }) none _
    · exact Vouchers.modRecord_split
        (s := { s with printing := { s.printing with jobs := [{ j with items := j.items.set k { i with state := .done } }] } }) table own last _

theorem endPrint_shape (s : State) (l : LaneIx) (w : WordEnd) :
    ∃ blk io, s.endPrint l w = { s.modLane l fun x => { x with block := blk } with io := io } := by
  unfold State.endPrint
  split
  · exact endWord_shape s l w
  · exact ⟨_, s.io, (modLane_self (s := s) (f := fun x => { x with block := (s.lane l).block }) rfl).symm⟩

/-- What the end of a job leaves (R159). -/
theorem endJob_spec (jobs : s.printing.jobs = [j]) (p : PortIx) :
    (s.endJob p j).printing
        = { s.printing with printers := s.printing.printers.set p { (s.printer p).clear with state := .ready }, jobs := [] }
      ∧ (s.endJob p j).vouchers = s.vouchers
      ∧ ((s.endJob p j).lane j.lane).order.state = .complete
      ∧ ((s.endJob p j).lane j.lane).order.progress = some (.finished j.items)
      ∧ ((s.endJob p j).lane j.lane).attendance = some (s.house.clock + s.cfg.attendanceTimeout) := by
  obtain ⟨u, hu⟩ : ∃ u : State, u = ((s.removeJob j.lane).modPrinter p fun x => { x.clear with state := .ready }).modOrder j.lane fun o =>
    { o with state := .complete, progress := some (.finished j.items) } := ⟨_, rfl⟩
  have removed := removeJob_only jobs (l := j.lane) rfl
  have printing : u.printing = { s.printing with
      printers := s.printing.printers.set p { (s.printer p).clear with state := .ready }, jobs := [] } := by
    rw [hu, removed]
    rfl
  have vouchers : u.vouchers = s.vouchers := by rw [hu, removed]; rfl
  have house : u.house = s.house := by rw [hu, removed]; rfl
  have order : (u.lane j.lane).order = { (s.lane j.lane).order with state := .complete, progress := some (.finished j.items) } := by
    have same : (s.removeJob j.lane).lane j.lane = s.lane j.lane := by rw [removed]; rfl
    rw [hu, State.modOrder, State.lane_modLane_same]
    show { ((s.removeJob j.lane).lane j.lane).order with state := .complete, progress := some (.finished j.items) } = _
    rw [same]
  have restarts := restarted (s := u) (l := j.lane) (by rw [order]; simp)
  obtain ⟨blk, io, ended⟩ := endPrint_shape (u.restartAttendance j.lane) j.lane .done
  have own : ((u.restartAttendance j.lane).endPrint j.lane .done).lane j.lane
      = { u.lane j.lane with
          attendance := some (u.house.clock + u.cfg.attendanceTimeout)
          order := { (u.lane j.lane).order with lapseHeld := false }
          block := blk } := by
    have lane := State.lane_modLane_same (u.restartAttendance j.lane) j.lane fun x => { x with block := blk }
    rw [ended]
    refine lane.trans ?_
    rw [restarts, State.lane_modLane_same]
  have printing' : ((u.restartAttendance j.lane).endPrint j.lane .done).printing = u.printing := by
    rw [ended, restarts]
    rfl
  have vouchers' : ((u.restartAttendance j.lane).endPrint j.lane .done).vouchers = u.vouchers := by
    rw [ended, restarts]
    rfl
  have ends : s.endJob p j = (u.restartAttendance j.lane).endPrint j.lane .done := by
    have idle := assign_unqueued (s := (u.restartAttendance j.lane).endPrint j.lane .done)
      (jobOrder_nil (by rw [printing', printing]))
    rw [hu] at idle ⊢
    exact idle
  have cfg : u.cfg = s.cfg := by rw [State.cfg, house, State.cfg]
  rw [ends, own, printing', vouchers']
  exact ⟨printing, vouchers, by simp only [order], by simp only [order], by simp only [house, cfg]⟩

/-- The state once the outstanding item of a port has printed, before the next one is sent. -/
def printed (s : State) (p : PortIx) (j : Job) (left : List Item) (after : Machine.Vouchers) : State :=
  { s with
    printing := { s.printing with
      printers := s.printing.printers.set p { s.printer p with outstanding := none }
      jobs := [{ j with items := left }] }
    vouchers := after }

theorem done_eq {tag : ItemTag} {left : List Item} {after : Machine.Vouchers} (out : (s.printer p).itemTag = some tag) (index : tag.index = k)
    (job : (s.printer p).job = some l) (jobs : s.printing.jobs = [j]) (lane : j.lane = l) (here : j.items[k]? = some i)
    (hleft : left = j.items.set k { i with state := .done }) (told : Told s l i after) :
    s.done p tag = (printed s p j left after).afterDone p l := by
  subst hleft index
  have marks := itemDone_eq (s := s.modPrinter p fun x => { x with outstanding := none }) jobs lane here told
  simp only [State.done, out, if_true, job, marks]
  rfl

theorem afterDone_send {left : List Item} {after : Machine.Vouchers} (lane : j.lane = l) (n : Nat)
    (next : ({ j with items := left } : Job).nextItem = some n) :
    (printed s p j left after).afterDone p l = (printed s p j left after).sendItem p l := by
  simp only [State.afterDone, jobOf_only (s := printed s p j left after) rfl lane, next, Option.isSome_some, if_true]

theorem afterDone_end {left : List Item} {after : Machine.Vouchers} (lane : j.lane = l) (all : ∀ e ∈ left, e.state = .done) :
    (printed s p j left after).afterDone p l = (printed s p j left after).endJob p { j with items := left } := by
  have next : ({ j with items := left } : Job).nextItem = none := nextItem_none all
  simp [State.afterDone, jobOf_only (s := printed s p j left after) rfl lane, next]

theorem printed_ticket {left : List Item} {after : Machine.Vouchers} {next : Item} {y code serial : Nat} {v : SeatLine} {z : Screening}
    (ticket : next.kind = .ticket) (line : next.line = some y) (lined : (s.lane l).order.seatLines[y]? = some v)
    (named : (s.lane l).order.code = some code) (loaded : s.screening code = some z) :
    (printed s p j left after).itemContent l { next with serial := some serial }
      = .ticket code z.start v.seat v.type (v.price.getD 0) s.cfg.station serial := by
  have same : (printed s p j left after).lane l = s.lane l := rfl
  have loaded' : (printed s p j left after).screening code = some z := loaded
  simp only [State.itemContent, ticket, State.ticketContent, line, same, Option.getD_some, lined, named, State.orderStart, Option.bind_some,
    loaded', Option.map_some]
  rfl

end Done

/-! ### The printer line of an enabled port -/

/-- The state once a printer has recovered (R149). -/
def recovered (s : State) (p : PortIx) (q : ReportQual) : State :=
  (s.modPrinter p fun y => { y with fault := false, cause := none, silent := false, state := .ready, outstanding := none }).raise
    ⟨.printerRecovered, q, none, none, none, none, some p, [], none, [], []⟩

theorem present_recovers {s : State} {p : PortIx} {d : Nat} (probe : (s.printer p).outstanding = some ⟨.probe, d⟩)
    (clear : s.linesClear p = true) :
    s.present p
      = (recovered s p (if (s.printer p).fault then ((s.printer p).cause.map FaultCause.qual).getD .none else .none)).assign := by
  simp only [State.present, Printer.probing, probe, clear]
  rfl

theorem recovered_printer (s : State) (p : PortIx) (q : ReportQual) :
    (recovered s p q).printer p = { s.printer p with fault := false, cause := none, silent := false, state := .ready, outstanding := none } :=
  State.printer_modPrinter_same s p fun y => { y with fault := false, cause := none, silent := false, state := .ready, outstanding := none }

theorem recovered_other (s : State) (p : PortIx) (q : ReportQual) : (recovered s p q).printer (1 - p) = s.printer (1 - p) :=
  printer_other (other_ne p) s fun y => { y with fault := false, cause := none, silent := false, state := .ready, outstanding := none }

section Faults

variable {s : State} {p : PortIx}

/-- A printer that serves no job is faulted with nothing spoiled (R147, R151). -/
theorem faultPrinter_idle (none : (s.printer p).job = none) (c : FaultCause) (figures : List Nat) :
    s.faultPrinter p c figures
      = (s.modPrinter p (Printer.setFault c)).raise ⟨.printerFault, c.qual, Option.none, Option.none, Option.none, Option.none, some p, [],
          Option.none, [], figures⟩ := by
  simp only [State.faultPrinter, State.spoilOn, State.sentItem, State.jobOn, none]
  rfl

/-- A FAULTED printer with nothing outstanding is probed when its lines are clear (R149). -/
theorem sendProbe_faulted {u : State} (on : (u.printer p).enabled = true) (state : (u.printer p).state = .faulted)
    (idle : (u.printer p).outstanding = none) (quiet : (u.printer p).sending = none) :
    u.sendProbe p = u.modPrinter p fun y => { y with sending := if u.linesClear p then some .probe else none } := by
  unfold State.sendProbe
  by_cases clear : u.linesClear p = true
  · simp only [on, state, clear, idle]
    rfl
  · simp only [clear, Bool.false_eq_true, and_false, false_and, if_false]
    have same : u = u.modPrinter p fun y => y := by
      have printers := perPort_set_get u.printing.printers p
      simp only [State.modPrinter, printers]
    refine same.trans (modPrinter_congr ?_)
    rw [← quiet]

/-- A FAULT message of a printer that serves no job (R151). -/
theorem faultMessage_idle (on : (s.printer p).enabled = true) (none : (s.printer p).job = none)
    (how : (s.printer p).state = .faulted → (s.printer p).probing = true) (cause : Nat) :
    s.faultMessage p cause
      = (s.modPrinter p fun y =>
          ⟨y.enabled, .faulted, true, some .faultMessage, Option.none, if s.linesClear p then some .probe else Option.none, Option.none,
            y.silent, Option.none⟩).raise
          ⟨.printerFault, .faultMessage, Option.none, Option.none, Option.none, Option.none, some p, [], Option.none, [], [cause]⟩ := by
  have met : ¬((s.printer p).state = .faulted ∧ (s.printer p).probing = false) := fun h => by simp [how h.1] at h
  have faulted := faultPrinter_idle none .faultMessage [cause]
  simp only [State.faultMessage, if_neg met, faulted]
  rw [sendProbe_faulted (u := (s.modPrinter p (Printer.setFault .faultMessage)).raise _)
    ((congrArg Printer.enabled (State.printer_modPrinter_same s p _)).trans on) (congrArg Printer.state (State.printer_modPrinter_same s p _))
    (congrArg Printer.outstanding (State.printer_modPrinter_same s p _)) (congrArg Printer.sending (State.printer_modPrinter_same s p _))]
  show ((s.modPrinter p (Printer.setFault .faultMessage)).modPrinter p fun y =>
    { y with sending := if s.linesClear p then some .probe else Option.none }).raise _ = _
  rw [modPrinter_modPrinter]
  rfl

end Faults

/-- Settles O58: what each message of the line does. -/
theorem printerMessages : Obligations.PrinterMessages := by
  intro s p x live hx on
  subst hx
  have present {m : State} (h : s.present p = m) : Effects (.presentReceived p) s m :=
    effects_of_eq rfl live ((if_pos on).trans h)
  have done {tag : ItemTag} {m : State} (h : s.done p tag = m) : Effects (.doneReceived p tag) s m :=
    effects_of_eq rfl live ((if_pos on).trans h)
  have fault {tag : Option ItemTag} {cause : Nat} {m : State} (h : s.faultMessage p cause = m) : Effects (.faultReceived p tag cause) s m :=
    effects_of_eq rfl live ((if_pos on).trans h)
  refine ⟨fun m sending => effects_of_eq rfl live ?_, fun bytes none => effects_of_eq rfl live ?_, rfl,
    fun none => ⟨present ?_, fun tag => done ?_⟩,
    fun d probe => ⟨fun asserted => present ?_, fun q clear idle how => present ?_, fun older j newer clear other jobs how => ?_⟩,
    fun tag cause => ⟨fun faulted none => fault ?_, fun none how => fault ?_⟩,
    fun l j k content d i left after job jobs lane outstanding here hleft told => ?_⟩
  · show s.printerSent p = _
    simp only [State.printerSent, sending]
  · show s.printerBytes p bytes = s
    simp only [State.printerBytes, none, List.foldl_nil]
  · simp [State.present, Printer.probing, none]
  · simp [State.done, Printer.itemTag, none]
  · simp [State.present, Printer.probing, probe, asserted]
  · have named : (if (s.printer p).fault then ((s.printer p).cause.map FaultCause.qual).getD .none else .none) = q := by
      rcases how with ⟨none, rfl⟩ | ⟨cause, fault, caused, rfl⟩
      · simp [none]
      · simp [fault, caused]
    rw [present_recovers probe clear, named, assign_unqueued (jobOrder_nil (s := recovered s p q) idle)]
    rfl
  · obtain ⟨q, hq⟩ : ∃ q, s.present p = (recovered s p q).assign := ⟨_, present_recovers probe clear⟩
    have here : (recovered s p q).isReady p = true := by
      simp [State.isReady, recovered_printer, on]
    have others : (recovered s p q).isReady (1 - p) = false := (isReady_congr (recovered_other s p q)).trans other
    obtain ⟨rest, first⟩ : ∃ rest, (recovered s p q).jobOrder = j :: rest := by
      rcases how with ⟨back, later, last⟩ | ⟨none, waits, soon, hsoon, how⟩
      · exact jobOrder_returned (s := recovered s p q) jobs back later last
      · have urgent (y : Job) : (recovered s p q).urgent y = true ↔ soon y := urgent_iff.trans (hsoon y).symm
        have calm {y : Job} (h : ¬soon y) : (recovered s p q).urgent y = false := by
          rw [Bool.eq_false_iff]
          exact fun e => h ((urgent y).mp e)
        refine jobOrder_waiting (s := recovered s p q) jobs none waits ?_
        rcases how with ⟨own, before⟩ | ⟨every, before⟩
        · exact .inl ⟨(urgent j).mpr own, fun y hy place => calm (before y hy place)⟩
        · exact .inr ⟨fun y hy place => calm (every y hy place), before⟩
    obtain ⟨m, g, serial, given⟩ := giveJob_changes (recovered s p q) p j
    obtain ⟨t, completes, -, closed⟩ := present ((hq.trans (assign_first here others first)).trans given)
    have printer (r : PortIx) := congrArg (fun pr : Printing => pr.printers.get r) closed.printing
    refine ⟨t, completes, ?_, ?_, ?_⟩
    · exact congrArg Printer.job ((printer p).trans (PerPort.get_set_same _ p _))
    · exact congrArg Printer.state ((printer p).trans (PerPort.get_set_same _ p _))
    · exact ((printer (1 - p)).trans (set_other (other_ne p) _ _)).trans (recovered_other s p q)
  · simp [State.faultMessage, faulted, Printer.probing, none]
  · refine faultMessage_idle on none (fun faulted => ?_) cause
    rcases how with ready | ⟨offline, -⟩ | ⟨d, probe⟩
    · simp [faulted] at ready
    · simp [faulted] at offline
    · simp [Printer.probing, probe]
  · have met := done_eq (p := p) (k := k) (tag := ⟨l.val, k, i.spoils⟩) (by simp [Printer.itemTag, outstanding]) rfl job jobs lane here hleft told
    refine ⟨fun all => ?_, fun n next at_ undone plain first => ?_,
      fun n next y v code z at_ ticket unnumbered line undone first lined named loaded => ?_⟩
    · obtain ⟨printing, vouchers, complete, finished, timer⟩ :=
        endJob_spec (s := printed s p j left after) (j := { j with items := left }) rfl p
      obtain ⟨t, completes, -, closed⟩ := done ((met).trans (afterDone_end lane all))
      have lanes (r : LaneIx) : t.lane r = ((printed s p j left after).endJob p { j with items := left }).lane r :=
        congrArg (fun x => x.get r) closed.lanes
      have queue := closed.printing.trans printing
      subst lane
      refine ⟨t, completes, congrArg Printing.jobs queue, closed.vouchers.trans vouchers, ?_, ?_, ?_, ?_⟩
      · refine (congrArg (fun pr : Printing => pr.printers.get p) queue).trans ((PerPort.get_set_same _ p _).trans ?_)
        simp only [printed, State.printer, PerPort.get_set_same]
        rfl
      · exact (congrArg (fun y : Lane => y.order.state) (lanes j.lane)).trans complete
      · exact (congrArg (fun y : Lane => y.order.progress) (lanes j.lane)).trans finished
      · exact (congrArg Lane.attendance (lanes j.lane)).trans timer
    · have send := nextItem_first (j := { j with items := left }) at_ undone first
      have sent := sendItem_plain (s := printed s p j left after) (p := p) (j := { j with items := left }) rfl lane send at_ fun h => plain h.1
      obtain ⟨t, completes, -, closed⟩ := done ((met.trans (afterDone_send lane n send)).trans sent)
      refine ⟨t, completes, congrArg Printing.jobs closed.printing, ⟨(printed s p j left after).itemContent l next, ?_⟩,
        closed.lanes, closed.vouchers⟩
      refine (congrArg (fun pr : Printing => pr.printers.get p) closed.printing).trans ((PerPort.get_set_same _ p _).trans ?_)
      simp only [printed, State.printer, PerPort.get_set_same]
    · have send := nextItem_first (j := { j with items := left }) at_ undone first
      have sent := sendItem_ticket (s := printed s p j left after) (p := p) (j := { j with items := left }) rfl lane send at_ ticket unnumbered
      rw [printed_ticket ticket line lined named loaded] at sent
      obtain ⟨t, completes, -, closed⟩ := done ((met.trans (afterDone_send lane n send)).trans sent)
      refine ⟨t, completes, congrArg Printing.jobs closed.printing, congrArg Printing.serial closed.printing, ?_, closed.lanes, closed.vouchers⟩
      refine (congrArg (fun pr : Printing => pr.printers.get p) closed.printing).trans ((PerPort.get_set_same _ p _).trans ?_)
      simp only [printed, State.printer, PerPort.get_set_same]

end Sys2Proof.Proofs.PrinterLine
end

section
/-! PROOFS of O59: the deadlines of a printer line, its status inputs, and the fault of a BUSY printer. -/

namespace Sys2Proof.Proofs.PrinterFaults

open Sys2Proof Sys2Proof.Machine Sys2Proof.Proofs.Inputs Sys2Proof.Proofs.Requests Sys2Proof.Proofs.Words
open Sys2Proof.Proofs.LinkRules Sys2Proof.Proofs.SeatTimers Sys2Proof.Proofs.Cancelling Sys2Proof.Proofs.Printing
open Sys2Proof.Proofs.PrintWords Sys2Proof.Proofs.PrinterLine Sys2Proof.Proofs.Closing

/-! ### A stub's voucher reissued (R141) -/

/-- `t` is `s` but for what a reissue may change: the lane's voucher lines, the vouchers and what is reported. -/
def Reissued (l : LaneIx) (s t : State) : Prop :=
  ∃ lines v io, t = { s.modOrder l fun o => { o with voucherLines := lines } with vouchers := v, io := io }

theorem enterRecord_only (s : State) (l : LaneIx) (r : VoucherRecord) :
    s.enterRecord l r = { s with vouchers := (s.enterRecord l r).vouchers, io := (s.enterRecord l r).io } := by
  unfold State.enterRecord
  split
  · rfl
  · split <;> rfl

theorem enterRecord_printing (s : State) (pr : Printing) (l : LaneIx) (r : VoucherRecord) :
    ({ s with printing := pr } : State).enterRecord l r = { s.enterRecord l r with printing := pr } := by
  unfold State.enterRecord
  by_cases room : s.vouchers.table.length < Config.voucherTableSize
  · simp only [if_pos room]
  · simp only [if_neg room]
    cases evictRecord s.house.clock s.vouchers.table <;> rfl

theorem modRecord_only (s : State) (c : VCode) (f : VoucherRecord → VoucherRecord) :
    s.modRecord c f = { s with vouchers := (s.modRecord c f).vouchers } := by
  unfold State.modRecord
  split <;> rfl

theorem modRecord_printing (s : State) (pr : Printing) (c : VCode) (f : VoucherRecord → VoucherRecord) :
    ({ s with printing := pr } : State).modRecord c f = { s.modRecord c f with printing := pr } := by
  unfold State.modRecord
  cases h : recordIndex s.vouchers.table c with
  | none => simp only
  | some n =>
    simp only
    rfl

/-- The state of a reissue once the line carries the code drawn, before its record enters the table. -/
def relined (s : State) (l : LaneIx) (n : Nat) (c : VCode) : State :=
  ((s.modRecord c fun r => { r with status := .void }).drawVoucher).2.modOrder l fun o =>
    { o with voucherLines := o.voucherLines.modify n fun x =>
      { x with code := some ((s.modRecord c fun r => { r with status := .void }).drawVoucher).1 } }

theorem relined_printing (s : State) (pr : Printing) (l : LaneIx) (n : Nat) (c : VCode) :
    relined { s with printing := pr } l n c = { relined s l n c with printing := pr } := by
  simp only [relined, modRecord_printing]
  rfl

theorem relined_reissued (s : State) (l : LaneIx) (n : Nat) (c : VCode) : Reissued l s (relined s l n c) := by
  obtain ⟨u, hu⟩ : ∃ u : Machine.Vouchers, (s.modRecord c fun r => { r with status := .void }) = { s with vouchers := u } := ⟨_, modRecord_only s c _⟩
  rw [relined, hu]
  refine ⟨(s.lane l).order.voucherLines.modify n fun x =>
    { x with code := some (State.drawVoucher { s with vouchers := u }).1 }, (State.drawVoucher { s with vouchers := u }).2.vouchers, s.io, ?_⟩
  refine (modLane_congr rfl).trans ?_
  rfl

/-- The record of the line's new code (R141). -/
def renewed (s : State) (l : LaneIx) (n : Nat) (v : VoucherLine) (c : VCode) : VoucherRecord :=
  match s.record c with
  | some r => (relined s l n c).newRecord ((s.modRecord c fun r => { r with status := .void }).drawVoucher).1 r.item r.screening r.expiry
  | none =>
    (relined s l n c).newRecord ((s.modRecord c fun r => { r with status := .void }).drawVoucher).1 v.item
      ((relined s l n c).lane l).order.code ((relined s l n c).voucherExpiry l)

theorem renewed_printing (s : State) (pr : Printing) (l : LaneIx) (n : Nat) (v : VoucherLine) (c : VCode) :
    renewed { s with printing := pr } l n v c = renewed s l n v c := by
  have record : ({ s with printing := pr } : State).record c = s.record c := rfl
  simp only [renewed, record, relined_printing, modRecord_printing]
  cases s.record c <;> rfl

theorem reissue_none {s : State} {l : LaneIx} {n : Nat}
    (h : ((s.lane l).order.voucherLines[n]?.bind fun v => v.code.map fun c => (v, c)) = none) : s.reissue l n = s := by
  simp only [State.reissue, h]

theorem reissue_some {s : State} {l : LaneIx} {n : Nat} {v : VoucherLine} {c : VCode}
    (h : ((s.lane l).order.voucherLines[n]?.bind fun v => v.code.map fun c => (v, c)) = some (v, c)) :
    s.reissue l n = (relined s l n c).enterRecord l (renewed s l n v c) := by
  simp only [State.reissue, h]
  rfl

/-- A reissue reads nothing of the printers. -/
theorem reissue_printing (s : State) (pr : Printing) (l : LaneIx) (n : Nat) :
    ({ s with printing := pr } : State).reissue l n = { s.reissue l n with printing := pr } := by
  cases found : (s.lane l).order.voucherLines[n]?.bind fun v => v.code.map fun c => (v, c) with
  | none => rw [reissue_none found, reissue_none (s := { s with printing := pr }) found]
  | some x =>
    rw [reissue_some found, reissue_some (s := { s with printing := pr }) found, relined_printing, renewed_printing, enterRecord_printing]

theorem reissue_reissued (s : State) (l : LaneIx) (n : Nat) : Reissued l s (s.reissue l n) := by
  cases found : (s.lane l).order.voucherLines[n]?.bind fun v => v.code.map fun c => (v, c) with
  | none =>
    rw [reissue_none found]
    exact ⟨(s.lane l).order.voucherLines, s.vouchers, s.io,
      (modLane_self (s := s) (f := fun x => { x with order := { x.order with voucherLines := (s.lane l).order.voucherLines } }) rfl).symm⟩
  | some x =>
    obtain ⟨lines, v, io, h⟩ := relined_reissued s l n x.2
    rw [reissue_some found, enterRecord_only, h]
    exact ⟨lines, _, _, rfl⟩

/-! ### The item on a printer spoiled (R160) -/

section Spoils

variable {s hit : State} {p : PortIx} {l : LaneIx} {j : Job} {k : Nat} {i : Item} {items : List Item}

/-- The state once a stub's voucher has been reissued, and the state itself for any other item. -/
def Hit (base hit : State) (l : LaneIx) (i : Item) : Prop :=
  i.kind ≠ .stub ∧ hit = base ∨ ∃ n, i.kind = .stub ∧ i.line = some n ∧ hit = base.reissue l n

theorem Hit.reissued (h : Hit s hit l i) : Reissued l s hit := by
  rcases h with ⟨-, rfl⟩ | ⟨n, -, -, rfl⟩
  · exact ⟨(hit.lane l).order.voucherLines, hit.vouchers, hit.io,
      (modLane_self (s := hit) (f := fun x => { x with order := { x.order with voucherLines := (hit.lane l).order.voucherLines } }) rfl).symm⟩
  · exact reissue_reissued s l n

theorem Hit.printing (h : Hit s hit l i) : hit.printing = s.printing := by
  obtain ⟨lines, v, io, rfl⟩ := h.reissued
  rfl

theorem Hit.house (h : Hit s hit l i) : hit.house = s.house := by
  obtain ⟨lines, v, io, rfl⟩ := h.reissued
  rfl

theorem Hit.pins (h : Hit s hit l i) : hit.pins = s.pins := by
  obtain ⟨lines, v, io, rfl⟩ := h.reissued
  rfl

theorem Hit.block (h : Hit s hit l i) : (hit.lane l).block = (s.lane l).block := by
  obtain ⟨lines, v, io, rfl⟩ := h.reissued
  have lane := State.lane_modLane_same s l fun x => { x with order := { x.order with voucherLines := lines } }
  exact (congrArg Lane.block lane :)

/-- The state once the item has been spoiled, before its job is returned or failed. -/
def spoiled (hit : State) (j : Job) (items : List Item) : State :=
  { hit with printing := { hit.printing with jobs := [{ j with items := items }] } }

theorem spoilItem_eq (jobs : s.printing.jobs = [j]) (lane : j.lane = l) (here : j.items[k]? = some i)
    (hitems : items = j.items.set k { i with state := .spoiled, spoils := i.spoils + 1, serial := none }) (h : Hit s hit l i) :
    s.spoilItem l k = spoiled hit j items := by
  subst hitems
  have found : ((s.jobOf l).bind fun j => j.items[k]?) = some i := by rw [jobOf_only jobs lane, Option.bind_some, here]
  have marked := modPrintItem_only jobs lane here fun i => { i with state := .spoiled, spoils := i.spoils + 1, serial := none }
  have printing := h.printing
  rcases h with ⟨other, rfl⟩ | ⟨n, stub, line, rfl⟩
  · simp only [State.spoilItem, found, marked, if_neg other]
    rfl
  · simp only [State.spoilItem, found, marked, if_pos stub, line, Option.getD_some, reissue_printing, spoiled, printing]

theorem sentItem_first (job : (s.printer p).job = some l) (jobs : s.printing.jobs = [j]) (lane : j.lane = l) (here : j.items[k]? = some i)
    (sent : i.state = .sent) (first : ∀ m e, m < k → j.items[m]? = some e → e.state ≠ .sent) : s.sentItem p = some (j, k) := by
  have found : (j.items.findIdx? fun i => i.state = .sent) = some k :=
    findIdx?_first here (by simp [sent]) fun m e hm he => by simp [first m e hm he]
  simp only [State.sentItem, job, jobOf_only jobs lane, found]
  rfl

end Spoils

/-! ### The job returned or failed (R161, R162) -/

section After

variable {s : State} {p : PortIx} {l : LaneIx} {j : Job} {k : Nat} {i : Item}

theorem afterSpoil_return (jobs : s.printing.jobs = [j]) (lane : j.lane = l) (here : j.items[k]? = some i) (few : i.spoils < 3) :
    s.afterSpoil p l k = s.returnJob p l := by
  simp only [State.afterSpoil, jobOf_only jobs lane, here]
  exact if_neg (Nat.not_le.mpr few)

theorem afterSpoil_fail (jobs : s.printing.jobs = [j]) (lane : j.lane = l) (here : j.items[k]? = some i) (many : 3 ≤ i.spoils) :
    s.afterSpoil p l k = s.failJob p j k i.kind := by
  simp only [State.afterSpoil, jobOf_only jobs lane, here]
  exact if_pos many

theorem other_other (p : PortIx) : 1 - (1 - p) = p := by
  revert p
  decide

/-- The state once the only job has been returned, before it is offered again. -/
def returned (s : State) (p : PortIx) (j : Job) : State :=
  { s with printing := { s.printing with
      printers := s.printing.printers.set p { s.printer p with job := none }
      jobs := [{ j with place := .returned, returnOrder := some 0 }] } }

theorem returnJob_eq {q : PortIx} (jobs : s.printing.jobs = [j]) (lane : j.lane = l) (place : j.place = .onPrinter q) :
    s.returnJob p l = (returned s p j).assign := by
  have order : s.nextReturn = 0 := by simp [State.nextReturn, jobs, place]
  rw [State.returnJob, order, modJob_only (s := s.modPrinter p fun x => { x with job := none }) jobs lane]
  rfl

theorem returned_isReady (busy : (s.printer p).state ≠ .ready) :
    (returned s p j).isReady p = false ∧ (returned s p j).isReady (1 - p) = s.isReady (1 - p) := by
  refine ⟨?_, isReady_congr (set_other (other_ne p) _ _)⟩
  have same : (returned s p j).printer p = { s.printer p with job := none } := PerPort.get_set_same _ p _
  simp [State.isReady, same, busy]

/-- With the other printer not READY the job waits. -/
theorem returnJob_waits {q : PortIx} (jobs : s.printing.jobs = [j]) (lane : j.lane = l) (place : j.place = .onPrinter q)
    (busy : (s.printer p).state ≠ .ready) (other : s.isReady (1 - p) = false) : s.returnJob p l = returned s p j := by
  obtain ⟨here, there⟩ := returned_isReady (j := j) busy
  rw [returnJob_eq jobs lane place]
  refine assign_unready fun r => ?_
  rcases eq_or_other p r with rfl | rfl
  · exact here
  · exact there.trans other

/-- With the other printer READY the job goes on there at once. -/
theorem returnJob_moves {q : PortIx} (jobs : s.printing.jobs = [j]) (lane : j.lane = l) (place : j.place = .onPrinter q)
    (busy : (s.printer p).state ≠ .ready) (other : s.isReady (1 - p) = true) :
    ∃ m e serial, s.returnJob p l
      = { s with printing := ⟨(s.printing.printers.set p { s.printer p with job := none }).set (1 - p)
            { s.printer (1 - p) with state := .busy, job := some l, sending := m },
          [{ j with items := e, place := .onPrinter (1 - p), returnOrder := none }], serial⟩ } := by
  obtain ⟨here, there⟩ := returned_isReady (j := j) busy
  have order : (returned s p j).jobOrder = [{ j with place := .returned, returnOrder := some 0 }] := jobOrder_only rfl (.inr rfl)
  have back : 1 - (1 - p) = p := other_other p
  have moves := assign_first (p := 1 - p) (there.trans other) (by rw [back]; exact here) order
  obtain ⟨m, g, serial, given⟩ := giveJob_changes (returned s p j) (1 - p) { j with place := .returned, returnOrder := some 0 }
  refine ⟨m, g j.items, serial, ?_⟩
  rw [returnJob_eq jobs lane place, moves, given]
  have kept : (returned s p j).printer (1 - p) = s.printer (1 - p) := set_other (other_ne p) _ _
  rw [kept]
  simp only [returned, List.map_cons, List.map_nil, if_true, lane]

/-- The state once the only job has failed, its PRINT-FAILED report not yet raised (R162). -/
def failed (s : State) (p : PortIx) (l : LaneIx) (items : List Item) : State :=
  ({ s with printing := { s.printing with
      printers := s.printing.printers.set p { s.printer p with job := none }
      jobs := [] } } : State).modLane l fun y =>
    { y with order := { y.order with state := .sold, progress := some (.failed items) } }

theorem failJob_eq {left : Nat} (jobs : s.printing.jobs = [j]) (lane : j.lane = l) (kind : ItemKind)
    (hleft : left = (j.items.filter fun e => e.state ≠ .done).length) :
    s.failJob p j k kind
      = ((failed s p l j.items).raise ⟨.printFailed, .none, some l, some j.tag, j.screening.map Prod.fst, none, some p, [], none, [],
          [k, kind.code, left]⟩).endPrint l (.refused .printFailed (some (.number left)) []) := by
  have counted : notDone j.items = left := by rw [hleft, notDone, List.countP_eq_length_filter]
  rw [State.failJob, counted, removeJob_only (s := s.modPrinter p fun x => { x with job := none }) jobs rfl, lane]
  rfl

/-- The end of a word reads nothing of the printers. -/
theorem endWord_printing (s : State) (pr : Printing) (l : LaneIx) (e : WordEnd) :
    ({ s with printing := pr } : State).endWord l e = { s.endWord l e with printing := pr } := by
  have same : ({ s with printing := pr } : State).lane l = s.lane l := rfl
  unfold State.endWord
  rw [same]
  split
  · rfl
  · split
    · rfl
    · split
      · split <;> rfl
      · rfl

theorem endPrint_modPrinter (s : State) (l : LaneIx) (e : WordEnd) (p : PortIx) (f : Printer → Printer) :
    (s.endPrint l e).modPrinter p f = (s.modPrinter p f).endPrint l e := by
  have running : (s.modPrinter p f).runningWord l = s.runningWord l := runningWord_congr rfl
  unfold State.endPrint
  rw [running]
  split
  · obtain ⟨blk, io, ended⟩ := endWord_shape s l e
    have printing : (s.endWord l e).printing = s.printing := by
      rw [ended]
      rfl
    refine Eq.trans ?_ (endWord_printing s (s.modPrinter p f).printing l e).symm
    simp only [State.modPrinter, printing]
  · rfl

end After

/-! ### The printer faulted -/

section Struck

variable {s : State} {p : PortIx}

/-- A printer that has been faulted, with what it then sends. -/
def struck (cause : FaultCause) (probe : Option PrinterMsg) (y : Printer) : Printer :=
  ⟨y.enabled, .faulted, true, some cause, none, probe, none, y.silent, none⟩

/-- A printer that has just been faulted is probed when its lines are clear (R149). -/
theorem setFault_probed (on : (s.printer p).enabled = true) (cause : FaultCause) (r : Report) :
    ((s.modPrinter p (Printer.setFault cause)).raise r).sendProbe p
      = (s.modPrinter p (struck cause (if s.linesClear p then some .probe else none))).raise r := by
  have own : ((s.modPrinter p (Printer.setFault cause)).raise r).printer p = (s.printer p).setFault cause :=
    State.printer_modPrinter_same s p (Printer.setFault cause)
  rw [sendProbe_faulted ((congrArg Printer.enabled own).trans on) (congrArg Printer.state own) (congrArg Printer.outstanding own)
    (congrArg Printer.sending own)]
  show ((s.modPrinter p (Printer.setFault cause)).modPrinter p fun y =>
    { y with sending := if s.linesClear p then some .probe else none }).raise r = _
  rw [modPrinter_modPrinter]
  rfl

theorem faultPrinter_spoiled {w : State} {j : Job} {l : LaneIx} (jobs : s.printing.jobs = [j]) (lane : j.lane = l)
    (job : (s.printer p).job = some l) (spoil : s.spoilOn p = w) (cause : FaultCause) (figures : List Nat) :
    s.faultPrinter p cause figures
      = (w.modPrinter p (Printer.setFault cause)).raise
          ⟨.printerFault, cause.qual, some l, some j.tag, none, none, some p, [], none, [], figures⟩ := by
  have on : s.jobOn p = some j := by rw [State.jobOn, job, Option.bind_some, jobOf_only jobs lane]
  subst lane
  simp only [State.faultPrinter, spoil, on]
  rfl

/-- A FAULT message of a BUSY printer, once what it spoils has been seen to (R151). -/
theorem faultMessage_busy {w : State} {j : Job} {l : LaneIx} (jobs : s.printing.jobs = [j]) (lane : j.lane = l)
    (job : (s.printer p).job = some l) (busy : (s.printer p).state = .busy) (spoil : s.spoilOn p = w)
    (on : (w.printer p).enabled = true) (pins : w.pins = s.pins) (code : Nat) :
    s.faultMessage p code
      = (w.modPrinter p (struck .faultMessage (if s.linesClear p then some .probe else none))).raise
          ⟨.printerFault, .faultMessage, some l, some j.tag, none, none, some p, [], none, [], [code]⟩ := by
  have unmet : ¬((s.printer p).state = .faulted ∧ (s.printer p).probing = false) := fun h => by simp [busy] at h
  have clear : w.linesClear p = s.linesClear p := by simp only [State.linesClear, State.portLines, pins]
  rw [State.faultMessage, if_neg unmet, faultPrinter_spoiled jobs lane job spoil, setFault_probed on, clear]
  rfl

/-- A fault line asserted on a BUSY printer, once what it spoils has been seen to (R147). -/
theorem faultLine_busy {w : State} {j : Job} {l : LaneIx} (jobs : s.printing.jobs = [j]) (lane : j.lane = l)
    (job : (s.printer p).job = some l) (busy : (s.printer p).state = .busy) (enabled : (s.printer p).enabled = true)
    (spoil : s.spoilOn p = w) (line : FaultLine) :
    s.faultLine p line
      = (w.modPrinter p (struck (lineCause line) none)).raise
          ⟨.printerFault, (lineCause line).qual, some l, some j.tag, none, none, some p, [], none, [], []⟩ := by
  have running : (s.printer p).state ≠ .faulted := by simp [busy]
  simp only [State.faultLine, enabled, if_neg running, Bool.true_eq_false, if_false]
  exact faultPrinter_spoiled jobs lane job spoil _ _

end Struck

/-! ### The input levels -/

section Levels

variable {s m : State} {p : PortIx} {line : FaultLine} {level : PortLines}

/-- The state with the input levels of a port as given. -/
def leveled (s : State) (p : PortIx) (level : PortLines) : State :=
  { s with pins := { s.pins with ports := s.pins.ports.set p level } }

theorem level_of_changed {x : PortLines} {b : Bool} (h : x ≠ x.setLevel line b) : x.level line = !b := by
  cases line
  · refine Bool.eq_not.mpr fun same => h ?_
    subst same
    rfl
  · refine Bool.eq_not.mpr fun same => h ?_
    subst same
    rfl

theorem effects_asserted (live : Live s) (hlevel : level = (s.pins.ports.get p).setLevel line true) (changed : s.pins.ports.get p ≠ level)
    (h : (leveled s p level).faultLine p line = m) : Effects (.faultLineAsserted p line) s m := by
  subst hlevel
  have was : (s.portLines p).level line = false := level_of_changed changed
  have effect := effects_of_levels (c := .faultLineAsserted p line) (s := s) (m := m) rfl live
  refine effect ?_
  rw [was]
  exact h

theorem effects_released (live : Live s) (hlevel : level = (s.pins.ports.get p).setLevel line false) (changed : s.pins.ports.get p ≠ level)
    (h : (leveled s p level).sendProbe p = m) : Effects (.faultLineReleased p line) s m := by
  subst hlevel
  have was : (s.portLines p).level line = true := level_of_changed changed
  have effect := effects_of_levels (c := .faultLineReleased p line) (s := s) (m := m) rfl live
  refine effect ?_
  rw [was]
  exact h

theorem leveled_linesClear : (leveled s p level).linesClear p = (!level.paperOut && !level.coverOpen) := by
  simp [State.linesClear, State.portLines, leveled]

end Levels

/-! ### What a spoil leaves -/

section Outcomes

variable {s hit : State} {p : PortIx} {l : LaneIx} {j : Job} {k : Nat} {i : Item} {items : List Item}

theorem spoilOn_eq (job : (s.printer p).job = some l) (jobs : s.printing.jobs = [j]) (lane : j.lane = l) (here : j.items[k]? = some i)
    (sent : i.state = .sent) (first : ∀ m e, m < k → j.items[m]? = some e → e.state ≠ .sent)
    (hitems : items = j.items.set k { i with state := .spoiled, spoils := i.spoils + 1, serial := none }) (h : Hit s hit l i) :
    s.spoilOn p = (spoiled hit j items).afterSpoil p l k := by
  simp only [State.spoilOn, sentItem_first job jobs lane here sent first, lane, spoilItem_eq jobs lane here hitems h]

theorem itemTimedOut_eq (on : (s.printer p).enabled = true) (job : (s.printer p).job = some l) (jobs : s.printing.jobs = [j])
    (lane : j.lane = l) (here : j.items[k]? = some i)
    (sent : i.state = .sent) (first : ∀ m e, m < k → j.items[m]? = some e → e.state ≠ .sent)
    (hitems : items = j.items.set k { i with state := .spoiled, spoils := i.spoils + 1, serial := none }) (h : Hit s hit l i) :
    s.itemTimedOut p
      = (((spoiled hit j items).modPrinter p (struck .itemTimeout (if s.linesClear p then some .probe else none))).raise
          (printerFault p .itemTimeout (some j) [])).afterSpoil p l k := by
  have clear : (spoiled hit j items).linesClear p = s.linesClear p := by
    have pins : (spoiled hit j items).pins = s.pins := h.pins
    simp only [State.linesClear, State.portLines, pins]
  have on' : ((spoiled hit j items).printer p).enabled = true := by
    have same := congrArg (fun pr : Printing => pr.printers.get p) h.printing
    exact (congrArg Printer.enabled same).trans on
  simp only [State.itemTimedOut, sentItem_first job jobs lane here sent first, lane, spoilItem_eq jobs lane here hitems h]
  rw [setFault_probed on', clear]

theorem spoiled_here (here : j.items[k]? = some i)
    (hitems : items = j.items.set k { i with state := .spoiled, spoils := i.spoils + 1, serial := none }) :
    items[k]? = some { i with state := .spoiled, spoils := i.spoils + 1, serial := none } := by
  have bound : k < j.items.length := (List.getElem?_eq_some_iff.mp here).1
  simp [hitems, bound]

/-- The state once an item's deadline has faulted its printer, before its job is returned or failed. -/
def timedOut (hit : State) (p : PortIx) (j : Job) (items : List Item) (probe : Option PrinterMsg) : State :=
  ((spoiled hit j items).modPrinter p (struck .itemTimeout probe)).raise (printerFault p .itemTimeout (some j) [])

section TimedOut

variable {probe : Option PrinterMsg}

theorem timedOut_printer : (timedOut hit p j items probe).printer p = struck .itemTimeout probe (hit.printer p) :=
  PerPort.get_set_same _ p _

theorem timedOut_other : (timedOut hit p j items probe).printer (1 - p) = hit.printer (1 - p) := set_other (other_ne p) _ _

theorem timedOut_unready : ((timedOut hit p j items probe).printer p).state ≠ .ready := by
  rw [timedOut_printer]
  simp [struck]

/-- What an item's deadline leaves where it returns the job (R160, R161). -/
theorem timedOut_returned (lane : j.lane = l) (place : j.place = .onPrinter p) (spoils : items[k]? = some i) (few : i.spoils < 3) :
    ((timedOut hit p j items probe).afterSpoil p l k).printer p = struck .itemTimeout probe (hit.printer p)
      ∧ ((timedOut hit p j items probe).afterSpoil p l k).lanes = hit.lanes
      ∧ ((timedOut hit p j items probe).afterSpoil p l k).vouchers = hit.vouchers
      ∧ (hit.isReady (1 - p) = false → ((timedOut hit p j items probe).afterSpoil p l k).printing.jobs
          = [{ j with items := items, place := .returned, returnOrder := some 0 }])
      ∧ (hit.isReady (1 - p) = true → (((timedOut hit p j items probe).afterSpoil p l k).printer (1 - p)).state = .busy
          ∧ (((timedOut hit p j items probe).afterSpoil p l k).printer (1 - p)).job = some l
          ∧ ∃ e, ((timedOut hit p j items probe).afterSpoil p l k).printing.jobs
              = [{ j with items := e, place := .onPrinter (1 - p), returnOrder := none }]) := by
  have jobs : (timedOut hit p j items probe).printing.jobs = [{ j with items := items }] := rfl
  have ready : (timedOut hit p j items probe).isReady (1 - p) = hit.isReady (1 - p) := isReady_congr timedOut_other
  rw [afterSpoil_return jobs lane spoils few]
  cases other : hit.isReady (1 - p) with
  | false =>
    rw [returnJob_waits jobs lane place timedOut_unready (ready.trans other)]
    refine ⟨?_, rfl, rfl, fun _ => rfl, fun h => by simp at h⟩
    refine (PerPort.get_set_same _ p _).trans ?_
    rw [timedOut_printer]
    rfl
  | true =>
    obtain ⟨m, e, serial, moves⟩ := returnJob_moves jobs lane place timedOut_unready (ready.trans other)
    rw [moves]
    have own (a b : Printer) : (((timedOut hit p j items probe).printing.printers.set p a).set (1 - p) b).get p = a := by
      rw [set_other (other_ne p).symm, PerPort.get_set_same]
    refine ⟨?_, rfl, rfl, fun h => by simp at h, fun _ => ⟨?_, ?_, e, rfl⟩⟩
    · refine (own _ _).trans ?_
      rw [timedOut_printer]
      rfl
    · exact congrArg Printer.state (PerPort.get_set_same _ (1 - p) _)
    · exact congrArg Printer.job (PerPort.get_set_same _ (1 - p) _)

/-- What an item's deadline leaves where it fails the job (R160, R162). -/
theorem timedOut_failed (lane : j.lane = l) (spoils : items[k]? = some i) (many : 3 ≤ i.spoils) :
    ((timedOut hit p j items probe).afterSpoil p l k).printer p = struck .itemTimeout probe (hit.printer p)
      ∧ ((timedOut hit p j items probe).afterSpoil p l k).vouchers = hit.vouchers
      ∧ ((timedOut hit p j items probe).afterSpoil p l k).printing.jobs = []
      ∧ (((timedOut hit p j items probe).afterSpoil p l k).lane l).order
          = { (hit.lane l).order with state := .sold, progress := some (.failed items) } := by
  have jobs : (timedOut hit p j items probe).printing.jobs = [{ j with items := items }] := rfl
  rw [afterSpoil_fail jobs lane spoils many, failJob_eq jobs lane _ rfl]
  obtain ⟨blk, io, ended⟩ := endPrint_shape ((failed (timedOut hit p j items probe) p l items).raise
    ⟨.printFailed, .none, some l, some j.tag, j.screening.map Prod.fst, none, some p, [], none, [],
      [k, i.kind.code, (items.filter fun e => e.state ≠ .done).length]⟩) l
    (.refused .printFailed (some (.number (items.filter fun e => e.state ≠ .done).length)) [])
  rw [ended]
  refine ⟨?_, rfl, rfl, ?_⟩
  · refine (PerPort.get_set_same _ p _).trans ?_
    rw [timedOut_printer]
    rfl
  · have blocked := State.lane_modLane_same (failed (timedOut hit p j items probe) p l items) l fun x => { x with block := blk }
    have order := State.lane_modLane_same (timedOut hit p j items probe) l fun y =>
      { y with order := { y.order with state := .sold, progress := some (.failed items) } }
    exact (congrArg Lane.order blocked).trans (congrArg Lane.order order)

end TimedOut

section Busy

variable {probe : Option PrinterMsg} {cause : FaultCause}

theorem returned_struck : (returned (spoiled hit j items) p { j with items := items }).modPrinter p (struck cause probe)
    = { hit.modPrinter p (struck cause probe) with
        printing := { (hit.modPrinter p (struck cause probe)).printing with
          jobs := [{ j with items := items, place := .returned, returnOrder := some 0 }] } } := by
  simp only [State.modPrinter, returned, PerPort.get_set_same, perPort_set_set]
  rfl

theorem failed_struck : (failed (spoiled hit j items) p l items).modPrinter p (struck cause probe)
    = ({ hit.modPrinter p (struck cause probe) with
        printing := { (hit.modPrinter p (struck cause probe)).printing with jobs := [] } } : State).modLane l fun y =>
          { y with order := { y.order with state := .sold, progress := some (.failed items) } } := by
  have inner : ({ spoiled hit j items with printing := { (spoiled hit j items).printing with
        printers := (spoiled hit j items).printing.printers.set p { (spoiled hit j items).printer p with job := none }
        jobs := [] } } : State).modPrinter p (struck cause probe)
      = { hit.modPrinter p (struck cause probe) with
          printing := { (hit.modPrinter p (struck cause probe)).printing with jobs := [] } } := by
    simp only [State.modPrinter, PerPort.get_set_same, perPort_set_set]
    rfl
  exact congrArg (fun u : State => u.modLane l fun y =>
    { y with order := { y.order with state := .sold, progress := some (.failed items) } }) inner

end Busy

end Outcomes

/-- Settles O59: what each deadline, each input and the fault of a BUSY printer does. -/
theorem printerTimersAndInputs : Obligations.PrinterTimersAndInputs := by
  intro s p x live hx on
  subst hx
  refine ⟨fun o out => ⟨fun early => ⟨effects_of_eq rfl live ?_, effects_of_eq rfl live ?_⟩, fun off probe late hoff =>
      ⟨fun silent => effects_of_eq rfl live ?_, fun spoke => effects_of_eq rfl live ?_⟩⟩,
    fun d interval => ⟨fun early => effects_of_eq rfl live ?_, fun late offline clear quiet => effects_of_eq rfl live ?_⟩,
    fun l j k tag content d i items out late job jobs lane place here sent first hitems hit reissued => ?_,
    fun c cause figures probe l j k i items left base hit gone busy job jobs lane place here sent first how reissued hitems hleft hgone => ?_,
    fun line cause on_ off how => ⟨fun changed => ⟨fun idle none => ?_, fun faulted => ?_⟩, fun changed idle quiet out cover => ?_,
      fun changed still => ?_⟩,
    fun on_ off hon hoff => ⟨fun clear => ?_, ?_⟩⟩
  · have due : s.printerDue p = false := by simp [State.printerDue, out, early]
    simp [State.probeDeadline, due]
  · have due : s.printerDue p = false := by simp [State.printerDue, out, early]
    simp [State.itemDeadline, due]
  · have due : s.printerDue p = true := by simp [State.printerDue, out, late]
    have probing : (s.printer p).probing = true := by simp [Printer.probing, out, probe]
    subst hoff
    simp only [State.probeDeadline, due, probing, and_self, if_true, State.probeTimedOut, silent]
    rfl
  · have due : s.printerDue p = true := by simp [State.printerDue, out, late]
    have probing : (s.printer p).probing = true := by simp [Printer.probing, out, probe]
    subst hoff
    simp only [State.probeDeadline, due, probing, and_self, if_true, State.probeTimedOut, spoke]
    rfl
  · have due : s.intervalDue p = false := by simp [State.intervalDue, interval, early]
    simp [State.intervalEnd, due]
  · have due : s.intervalDue p = true := by simp [State.intervalDue, interval, late]
    have own : (s.modPrinter p fun y => { y with interval := none }).printer p = { s.printer p with interval := none } :=
      State.printer_modPrinter_same s p _
    have clear' : (s.modPrinter p fun y => { y with interval := none }).linesClear p = true := clear
    simp only [State.intervalEnd, due, if_true, State.probeIntervalEnded, State.sendProbe, own, on, offline, quiet, clear', and_self, or_true]
    exact modPrinter_modPrinter s p _ _
  · have tagged : (s.printer p).itemTag.isSome = true := by simp [Printer.itemTag, out]
    have due : s.printerDue p = true := by simp [State.printerDue, out, late]
    have struckHit : Hit s hit l i := reissued
    have met : s.itemDeadline p
        = (timedOut hit p j items (if s.linesClear p then some .probe else none)).afterSpoil p l k := by
      rw [State.itemDeadline, if_pos ⟨due, tagged⟩, itemTimedOut_eq on job jobs lane here sent first hitems struckHit]
      rfl
    obtain ⟨t, completes, -, closed⟩ := effects_of_eq (c := .itemTimeout p) rfl live met
    have spoils := spoiled_here here hitems
    have own : hit.printer p = s.printer p := congrArg (fun pr : Printing => pr.printers.get p) struckHit.printing
    have ready : hit.isReady (1 - p) = s.isReady (1 - p) :=
      isReady_congr (congrArg (fun pr : Printing => pr.printers.get (1 - p)) struckHit.printing)
    have printer (q : PortIx) := congrArg (fun pr : Printing => pr.printers.get q) closed.printing
    have lane_ := congrArg (fun x => x.get l) closed.lanes
    refine ⟨t, completes, ?_⟩
    rcases Nat.lt_or_ge i.spoils 2 with few | many
    · obtain ⟨faulted, lanes, vouchers, waits, moves⟩ := timedOut_returned (hit := hit) (p := p)
        (probe := if s.linesClear p then some .probe else none) lane place spoils (Nat.succ_lt_succ few)
      rw [own] at faulted
      rw [ready] at waits moves
      refine ⟨(printer p).trans (faulted.trans ?_), closed.vouchers.trans vouchers, ?_,
        fun _ => ⟨closed.lanes.trans lanes, fun other => (congrArg Printing.jobs closed.printing).trans (waits other), fun other => ?_⟩,
        fun h => absurd h (Nat.not_le.mpr few)⟩
      · rw [struck, on]
      · exact congrArg (fun y : PerLane Lane => (y.get l).order.voucherLines) (closed.lanes.trans lanes)
      · obtain ⟨busy, served, e, queue⟩ := moves other
        exact ⟨(congrArg Printer.state (printer (1 - p))).trans busy, (congrArg Printer.job (printer (1 - p))).trans served, e,
          (congrArg Printing.jobs closed.printing).trans queue⟩
    · obtain ⟨faulted, vouchers, queue, order⟩ := timedOut_failed (hit := hit) (p := p)
        (probe := if s.linesClear p then some .probe else none) lane spoils (Nat.succ_le_succ many)
      rw [own] at faulted
      have order_ := (congrArg Lane.order lane_).trans order
      refine ⟨(printer p).trans (faulted.trans ?_), closed.vouchers.trans vouchers, (congrArg Order.voucherLines order_ :),
        fun h => absurd many (Nat.not_le.mpr h), fun _ => ⟨(congrArg Printing.jobs closed.printing).trans queue,
          congrArg Order.state order_, congrArg Order.progress order_⟩⟩
      rw [struck, on]
  · obtain ⟨pins, hpins⟩ : ∃ pins, base = { s with pins := pins } := by
      rcases how with ⟨_, _, -, -, -, rfl, -⟩ | ⟨_, -, -, -, rfl, -⟩
      · exact ⟨base.pins, rfl⟩
      · exact ⟨_, rfl⟩
    have jobs' : base.printing.jobs = [j] := by rw [hpins, ← jobs]
    have same : base.printer = s.printer := by rw [hpins]; rfl
    have job' : (base.printer p).job = some l := by rw [same, job]
    have busy' : (base.printer p).state = .busy := by rw [same, busy]
    have on' : (base.printer p).enabled = true := by rw [same, on]
    have struckHit : Hit base hit l i := reissued
    have effect {w m : State} (spoil : base.spoilOn p = w) (enabled : (w.printer p).enabled = true) (kept : w.pins = base.pins)
        (h : (w.modPrinter p (struck cause probe)).raise
          ⟨.printerFault, cause.qual, some l, some j.tag, none, none, some p, [], none, [], figures⟩ = m) : Effects c s m := by
      rcases how with ⟨tag, code, rfl, rfl, rfl, rfl, rfl⟩ | ⟨on_, rfl, rfl, changed, rfl, which⟩
      · refine effects_of_eq rfl live ((if_pos on).trans ((faultMessage_busy jobs lane job busy spoil enabled kept code).trans h))
      · obtain ⟨line, rfl, rfl, level⟩ : ∃ line, c = .faultLineAsserted p line ∧ cause = lineCause line
            ∧ on_ = (s.pins.ports.get p).setLevel line true := by
          rcases which with ⟨rfl, rfl, rfl⟩ | ⟨rfl, rfl, rfl⟩
          · exact ⟨.paperOut, rfl, rfl, rfl⟩
          · exact ⟨.coverOpen, rfl, rfl, rfl⟩
        exact effects_asserted live level changed ((faultLine_busy jobs' lane job' busy' on' spoil line).trans h)
    have spoil := spoilOn_eq job' jobs' lane here sent first hitems struckHit
    have spoils := spoiled_here here hitems
    have printers (q : PortIx) : (spoiled hit j items).printer q = s.printer q := by
      have kept := congrArg (fun pr : Printing => pr.printers.get q) struckHit.printing
      rw [hpins] at kept
      exact kept
    have ready : (spoiled hit j items).isReady (1 - p) = s.isReady (1 - p) := isReady_congr (printers _)
    have unready : ((spoiled hit j items).printer p).state ≠ .ready := by
      rw [printers, busy]
      simp
    subst hgone
    refine ⟨fun few other => ?_, fun few other => ?_, fun told many htold => ?_⟩
    · obtain ⟨m, e, serial, moves⟩ := returnJob_moves (s := spoiled hit j items) (j := { j with items := items }) rfl lane place unready (ready.trans other)
      have own (a b : Printer) : (((spoiled hit j items).printing.printers.set p a).set (1 - p) b).get p = a := by
        rw [set_other (other_ne p).symm, PerPort.get_set_same]
      obtain ⟨t, completes, -, closed⟩ := effect
        (spoil.trans ((afterSpoil_return (j := { j with items := items }) rfl lane spoils (Nat.succ_lt_succ few)).trans moves))
        ((congrArg Printer.enabled (own _ _)).trans ((congrArg Printer.enabled (printers p)).trans on)) struckHit.pins rfl
      have printer (q : PortIx) := congrArg (fun pr : Printing => pr.printers.get q) closed.printing
      refine ⟨t, completes, ?_, closed.lanes, ?_, ?_, e, congrArg Printing.jobs closed.printing⟩
      · refine (printer p).trans ((PerPort.get_set_same _ p _).trans ?_)
        refine (congrArg (struck cause probe) (own _ _)).trans ?_
        rw [printers]
        rfl
      · refine (congrArg Printer.state (printer (1 - p))).trans ((congrArg Printer.state (set_other (other_ne p) _ _)).trans ?_)
        exact congrArg Printer.state (PerPort.get_set_same _ (1 - p) _)
      · refine (congrArg Printer.job (printer (1 - p))).trans ((congrArg Printer.job (set_other (other_ne p) _ _)).trans ?_)
        exact congrArg Printer.job (PerPort.get_set_same _ (1 - p) _)
    · refine effect (spoil.trans ((afterSpoil_return (j := { j with items := items }) rfl lane spoils (Nat.succ_lt_succ few)).trans
        (returnJob_waits (j := { j with items := items }) rfl lane place unready (ready.trans other)))) ?_ struckHit.pins ?_
      · refine (congrArg Printer.enabled (PerPort.get_set_same _ p _)).trans ?_
        exact (congrArg Printer.enabled (printers p)).trans on
      · rw [returned_struck]
        rfl
    · have failing := (afterSpoil_fail (s := spoiled hit j items) (p := p) (j := { j with items := items }) rfl lane spoils (Nat.succ_le_succ many)).trans
        (failJob_eq (j := { j with items := items }) (left := left) rfl lane i.kind hleft)
      obtain ⟨blk, io, ended⟩ := endPrint_shape ((failed (spoiled hit j items) p l items).raise
        ⟨.printFailed, .none, some l, some j.tag, j.screening.map Prod.fst, none, some p, [], none, [], [k, i.kind.code, left]⟩) l
        (.refused .printFailed (some (.number left)) [])
      have ends {m : State} (h : ((told.endPrint l (.refused .printFailed (some (.number left)) [])).raise
          ⟨.printerFault, cause.qual, some l, some j.tag, none, none, some p, [], none, [], figures⟩) = m) : Effects c s m := by
        refine effect (spoil.trans failing) ?_ ?_ ?_
        · rw [ended]
          refine (congrArg Printer.enabled (PerPort.get_set_same _ p _)).trans ?_
          exact (congrArg Printer.enabled (printers p)).trans on
        · rw [ended]
          exact struckHit.pins
        · rw [endPrint_modPrinter, ← h, htold]
          exact congrArg (fun u : State => ((u.raise _).endPrint l _).raise _) failed_struck
      have block : (told.lane l).block = (s.lane l).block := by
        have kept := struckHit.block
        rw [hpins] at kept
        have same := State.lane_modLane_same hit l fun y =>
          { y with order := { y.order with state := .sold, progress := some (.failed items) } }
        rw [htold]
        exact (congrArg Lane.block same).trans kept
      have running : told.runningWord l = s.runningWord l := runningWord_congr block
      refine ⟨fun idle => ends ?_, fun runs => ends ?_⟩
      · have quiet : told.runningWord l = none := by simp only [State.runningWord, block, idle]
        simp only [State.endPrint, quiet]
      · simp only [State.endPrint, running, runs]
  · obtain ⟨rfl, hon⟩ : cause = lineCause line ∧ on_ = (s.pins.ports.get p).setLevel line true := by
      rcases how with ⟨rfl, rfl, rfl, -⟩ | ⟨rfl, rfl, rfl, -⟩
      · exact ⟨rfl, rfl⟩
      · exact ⟨rfl, rfl⟩
    have running : ((leveled s p on_).printer p).state ≠ .faulted := by
      show (s.printer p).state ≠ .faulted
      rcases idle with h | h <;> simp [h]
    have enabled : ((leveled s p on_).printer p).enabled = true := on
    refine effects_asserted live hon changed ?_
    simp only [State.faultLine, enabled, Bool.true_eq_false, if_false, if_neg running]
    exact faultPrinter_idle (s := leveled s p on_) none _ _
  · have hon : on_ = (s.pins.ports.get p).setLevel line true := by
      rcases how with ⟨rfl, -, rfl, -⟩ | ⟨rfl, -, rfl, -⟩ <;> rfl
    have enabled : ((leveled s p on_).printer p).enabled = true := on
    have state : ((leveled s p on_).printer p).state = .faulted := faulted
    refine effects_asserted live hon changed ?_
    simp only [State.faultLine, enabled, state, Bool.true_eq_false, if_false, if_true]
    rfl
  · have hoff : off = (s.pins.ports.get p).setLevel line false := by
      rcases how with ⟨rfl, -, -, rfl⟩ | ⟨rfl, -, -, rfl⟩ <;> rfl
    refine effects_released live hoff changed ?_
    have clear : (leveled s p off).linesClear p = true := by simp [leveled_linesClear, out, cover]
    exact if_pos ⟨on, idle, clear, quiet⟩
  · have hoff : off = (s.pins.ports.get p).setLevel line false := by
      rcases how with ⟨rfl, -, -, rfl⟩ | ⟨rfl, -, -, rfl⟩ <;> rfl
    refine effects_released live hoff changed ?_
    have clear : (leveled s p off).linesClear p = false := by
      rw [leveled_linesClear]
      rcases still with h | h <;> simp [h]
    exact if_neg fun h => by simp [clear] at h
  · subst hon
    have was : (s.portLines p).paperLow = false := clear
    have effect := effects_of_levels (c := .paperLowAsserted p) (s := s)
      (m := (leveled s p { s.pins.ports.get p with paperLow := true }).raise (printerFault p .paperLow none []))
      rfl live
    refine effect ?_
    rw [was]
    exact if_pos on
  · subst hoff
    rfl

end Sys2Proof.Proofs.PrinterFaults
end
